-- ==== Sys2Proof/Word.lean ====
section
/-!
DEFINITION. The word types of the Clamel K4: bytes of memory, 64-bit registers, the 32-thread mask of a group and the
96-bit instruction word.
-/
namespace Sys2Proof

/-- One byte of memory or scratchpad (R266). -/
abbrev Byte := BitVec 8
/-- One V, S or T register in one thread (R18). -/
abbrev Word := BitVec 64
/-- A set of threads of one group, bit `t` for thread `t` (R108). -/
abbrev Mask := BitVec 32
/-- A thread program counter: an instruction unit (R36). -/
abbrev Unit53 := BitVec 53
/-- The 96-bit instruction word (R32). -/
abbrev IWord := BitVec 96

end Sys2Proof
end

