-- ==== Sys2Proof/Config.lean ====
section
/-!
DEFINITION. What an implementation fixes and what the spec leaves open. A constant without a body is a free value: no
proof can see what it is, so every claim holds whatever it is.
-/
namespace Sys2Proof.Config

/-- Clocks that the `n`-th step of the machine takes beyond the first (the spec's timings are typical figures that
change no result, R186, R225; log entry 3). -/
opaque stepClocks : Nat → Nat
/-- Whether the `n`-th step uses the translation that a cache still holds for a page, rather than the one in the page
table, where the two differ (R326; log entry 7). Arguments: step, number of the page at its size. -/
opaque usesHeldTranslation : Nat → Nat → Bool
/-- The steps after which a write becomes visible to a reader that nothing makes see it: one on another path, or whose cache still
holds the line (R251, R267, R280, R400; log entry 8). Arguments: the step of the write, the first byte of its request, the reader as
4 × core + path, the die that serves a system-range page (4 for any other). -/
opaque visibleAfter : Nat → Nat → Nat → Nat → Nat
/-- Whether a cache of a core still holds a word whose code cannot be corrected (R384; log entry 8). Arguments: step, physical
address. -/
opaque cacheStillHolds : Nat → Nat → Bool
/-- Whether the failing access of a CPY whose record cannot be read wrote, since the direction stands in the record (R173, R336; log entry
97). Argument: step. -/
opaque unreadWrites : Nat → Bool
/-- Which of the lines that an instruction of the gather collector waits for is answered at a step (R262; log entry 99). -/
opaque replyLine : Nat → Nat
/-- A word of the debug readback window whose numbering the spec does not give (R392; log entry 9). Arguments: object,
word index. -/
opaque readbackWord : Nat → Nat → BitVec 64
/-- The fused rollback counter against which an image's version is checked (R393; log entry 9). -/
opaque rollback : Nat
/-- The device's identity: its public identity key, then the certificate that Ndoron gave it (R6, R394; log entry 9). Argument:
byte index. -/
opaque identityByte : Nat → BitVec 8
/-- The attestation key that the engine derives from the measurements of the images it ran, and its certificate: the key's
signature with the identity key (R394; log entry 9). Arguments: the measurements, byte index. -/
opaque attestationByte : List Nat → Nat → BitVec 8
/-- The signature of an attestation report, drawn afresh for each (R394; log entry 9). Arguments: step, byte index. -/
opaque signatureByte : Nat → Nat → BitVec 8
/-- The DRAM row of a die that holds an address, which the spec does not lay out (R390; log entry 18). -/
opaque rowOf : Nat → Nat
/-- The DRAM layer that holds an address, modulo the 12 layers of a die (R3), and the bank within it: the spec does not lay them
out (R389, R390; log entry 18). -/
opaque layerOf : Nat → Nat
/-- The DRAM bank of a row (R390; log entry 18). -/
opaque bankOf : Nat → Nat
/-- Which of a peer's ports carries a 128-byte line (R399; log entry 18). Arguments: peer, line. -/
opaque portOf : Nat → Nat → Nat
/-- What a host reads at MBOX or at a doorbell, which R396 does not state (log entry 9). Argument: offset. -/
opaque windowWord : Nat → BitVec 64
/-- Whether a matrix instruction over unsound sidecars leaves out a column that the dense selection holds (R205; log
entry 11). Arguments: step, row, column. -/
opaque columnMissed : Nat → Nat → Nat → Bool
/-- The term exp(x − m) of CPYSEL where x and m are both −∞, which R175 does not state (log entry 14). Arguments: step,
column. -/
opaque selTermOfNothing : Nat → Nat → BitVec 32
/-- An element of OUT of a `.sum` generation none of whose shards could be read, which R223 does not state (log entry 15).
Arguments: step, element. -/
opaque sumOfNothing : Nat → Nat → BitVec 32
/-- A byte of the image that the device writes into a save area: the layout is its own (R341; log entry 16). Arguments: step,
byte index. -/
opaque imageByte : Nat → Nat → BitVec 8

end Sys2Proof.Config
end

