-- ==== Sys2Proof/Machine/Bits.lean ====
section
/-!
DEFINITION. Bit fields, sign extension and byte order, on natural numbers: the helpers every meaning uses.
-/
namespace Sys2Proof.Machine

/-- Bits `lo + n - 1` to `lo` of `x`. -/
def bits (x lo n : Nat) : Nat := (x >>> lo) % 2 ^ n
/-- Bit `i` of `x`. -/
def bitAt (x i : Nat) : Bool := (x >>> i) % 2 == 1
/-- The two's complement reading of the low `w` bits of `x` (R58). -/
def sint (w x : Nat) : Int :=
  let y := x % 2 ^ w
  if 2 * y < 2 ^ w then (y : Int) else (y : Int) - (2 ^ w : Nat)
/-- The pattern of width `w` of an integer: reduction modulo 2^w (R59). -/
def pat (w : Nat) (i : Int) : Nat := (i % ((2 ^ w : Nat) : Int)).toNat
/-- The element of width `w` at byte offset `e` of a register (R18, R26). -/
def elem (v : Word) (e w : Nat) : Nat := (v.toNat >>> (8 * e)) % 2 ^ w
/-- The mask of `w` low bits. -/
def lowMask (w : Nat) : Word := BitVec.ofNat 64 (2 ^ w - 1)
/-- A register with the element of width `w` at byte offset `e` replaced; the other bytes are unchanged (R18). -/
def setElem (v : Word) (e w x : Nat) : Word :=
  (v &&& ~~~(lowMask w <<< (8 * e))) ||| ((BitVec.ofNat 64 x &&& lowMask w) <<< (8 * e))
/-- The `n` bytes of a number, least significant first (R26). -/
def leBytes (n x : Nat) : List Byte :=
  match n with
  | 0 => []
  | k + 1 => BitVec.ofNat 8 x :: leBytes k (x / 256)
/-- The number whose bytes, least significant first, are given (R26). -/
def ofLe : List Byte → Nat
  | [] => 0
  | b :: r => b.toNat + 256 * ofLe r
/-- A number modulo 2^64. -/
def wrap64 (x : Nat) : Nat := x % 2 ^ 64
/-- The byte offsets of the elements of width `w` in a register, ascending (R111). -/
def packedOffsets (w : Nat) : List Nat := (List.range (64 / w)).map (· * (w / 8))
/-- Threads of a mask, ascending (R26). -/
def threadsOf (m : Mask) : List Nat := (List.range 32).filter (fun t => m.getLsbD t)
/-- The mask of a list of threads. -/
def maskOf (l : List Nat) : Mask := l.foldl (fun m t => m ||| BitVec.ofNat 32 (2 ^ t)) 0
/-- The least element of a list, none for the empty list. -/
def least : List Nat → Option Nat
  | [] => none
  | x :: r => match least r with | none => some x | some y => some (min x y)
/-- The greatest element of a list, none for the empty list. -/
def greatest : List Nat → Option Nat
  | [] => none
  | x :: r => match greatest r with | none => some x | some y => some (max x y)
/-- Duplicates removed, the first of each kept. -/
def nubNat : List Nat → List Nat
  | [] => []
  | x :: r => x :: (nubNat r).filter (· != x)

end Sys2Proof.Machine
end

