-- ==== Sys2Proof/Syntax.lean ====
section
/-!
DEFINITION. The abstract syntax of the Clamel K4: the fields of the six instruction formats, what the events of the
machine carry, and the one inductive of every row of the opcode table. Each of the 179 instructions carries every field
of its format (R44); each of the 95 steps of the machine carries the handles it acts on and what the outside world
brings to it.
-/
namespace Sys2Proof

/-- The common header without the opcode (R43). -/
structure Guard where
  neg  : Bool
  pred : BitVec 4
  u    : Bool
deriving DecidableEq, Repr

/-- What stands in bits 58:27 of a vector word (R44): sources B and C with XA and SELC (FI = 0), or IMM32 (FI = 1). -/
inductive VSrc where
  | regs (b c : BitVec 11) (xa : BitVec 6) (selC : BitVec 4)
  | imm (v : BitVec 32)
deriving DecidableEq, Repr

/-- Formats VR and VI with the vector MOD fields (R44, R47). -/
structure VFmt where
  g     : Guard
  d     : BitVec 11
  a     : BitVec 11
  src   : VSrc
  subop : BitVec 3
  selB  : BitVec 4
  selA  : BitVec 4
  selD  : BitVec 4
  sat   : Bool
  rm    : BitVec 2
  type2 : BitVec 4
  type  : BitVec 4
deriving DecidableEq, Repr

/-- Format SC (R44); MOD bits 27:7 are split as R121 names them. -/
structure SFmt where
  g      : Guard
  sd     : BitVec 7
  sa     : BitVec 7
  sb     : BitVec 7
  imm    : BitVec 32
  zero   : BitVec 12
  sx     : BitVec 7
  immSel : Bool
  sat    : Bool
  subop  : BitVec 3
  type   : BitVec 4
deriving DecidableEq, Repr

/-- Format MEM with the memory MOD fields (R44, R49); `ext` is MOD bits 34:26. -/
structure MFmt where
  g     : Guard
  data  : BitVec 11
  addr  : BitVec 11
  off   : BitVec 24
  ext   : BitVec 9
  take  : Bool
  subop : BitVec 4
  selD  : BitVec 4
  fp    : BitVec 4
  saddr : Bool
  path  : BitVec 2
  scope : BitVec 3
  order : BitVec 3
  type  : BitVec 4
deriving DecidableEq, Repr

/-- Format BR (R44). -/
structure BFmt where
  g    : Guard
  off  : BitVec 32
  vx   : BitVec 11
  tbl  : BitVec 8
  sx   : BitVec 7
  cond : BitVec 3
  rsv  : BitVec 20
deriving DecidableEq, Repr

/-- Format TS (R44); `mod` is MOD bits 19:4 (R189). -/
structure TFmt where
  g    : Guard
  td   : BitVec 5
  ta   : BitVec 5
  tb   : BitVec 5
  tc   : BitVec 5
  wn   : BitVec 3
  fa   : BitVec 3
  fb   : BitVec 3
  imm  : BitVec 32
  mod  : BitVec 16
  type : BitVec 4
deriving DecidableEq, Repr

/-- Format EN (R44); `ext` is MOD bits 21:10. -/
structure EFmt where
  g     : Guard
  sd    : BitVec 7
  sa    : BitVec 7
  sb    : BitVec 7
  sc    : BitVec 7
  vx    : BitVec 11
  pf    : BitVec 4
  imm   : BitVec 16
  ext   : BitVec 12
  scope : BitVec 3
  order : BitVec 3
  type  : BitVec 4
deriving DecidableEq, Repr

/-- Where the distributor puts a block: one (core, partition) for each group, and the core of its tile streams; the
choice within R310 is not architectural. -/
structure Placement where
  groups : List (Nat × Nat)
  tileCore : Nat
deriving DecidableEq, Repr

/-- Who answers a Quartz sample (R377). -/
inductive Party where
  | die (d : Nat)
  | peer (n : Nat)
  | control
deriving DecidableEq, Repr

/-- What reaches a die as the answer to its probe (R376): an interval of a peer module, or that the party inside this
module answers with its own interval. -/
inductive Answer where
  | own
  | peer (earliest latest : Nat) (unset : Bool)
deriving DecidableEq, Repr

/-- A register word of a group, V and P by thread and index, or of a tile context (R382). -/
inductive RegAt where
  | v (thread index : Nat)
  | s (index : Nat)
  | p (thread index : Nat)
  | t (index : Nat)
  | f (index : Nat)
deriving DecidableEq, Repr

/-- A place in a core's stores that holds a code which cannot be corrected (R382, R384): a 64-bit word of its SRAM banks, by
offset / 8; a 64-bit word in one of its caches, by path (0 is L1) and physical address / 8; a row of the accumulator queue; a
winner list. -/
inductive CoreAt where
  | sram (word : Nat)
  | cache (path word : Nat)
  | queue (row : Nat)
  | list (n : Nat)
deriving DecidableEq, Repr

/-- Where an uncorrectable error lies (R382, R384 to R387): a DRAM unit, an L2 line at its home, a register of a group or a
context, a place in a core's stores, or data that an engine operation meets at an address. -/
inductive ErrorSite where
  | unit (die addr : Nat)
  | line (die addr : Nat)
  | group (g : Nat) (r : RegAt)
  | tile (t : Nat) (r : RegAt)
  | core (core : Nat) (at_ : CoreAt)
  | op (g n addr : Nat)
deriving DecidableEq, Repr

/-- An image in the firmware flash as the security engine's ROM finds it (R393): its version, its SHA-384 measurement, and
whether its ECDSA signature stands against the fused root key. -/
structure FlashImage where
  version  : Nat
  measured : Nat
  signed   : Bool
deriving DecidableEq, Repr

/-- A link that carries a CRC (R383). -/
inductive Link where
  | dieToDie (a b : Nat)
  | stolvin (port : Nat)
deriving DecidableEq, Repr
/-- A flit that a link retries: `again` tells that it is the flit retried last (R383). -/
structure Retry where
  link  : Link
  again : Bool
deriving DecidableEq, Repr

/-- What a debug readback request names (R392): an object of this model with its word, or one whose numbering the spec
does not give. -/
inductive Readback where
  | vreg (group thread index : Nat)
  | sreg (group index : Nat)
  | preg (group thread index : Nat)
  | tpc (group thread : Nat)
  | flags (group : Nat)
  | rotation (group word : Nat)
  | cnt (group : Nat)
  | fibre (group thread slot word : Nat)
  | treg (tile index : Nat)
  | freg (tile index : Nat)
  | tilePc (tile : Nat)
  | fifo (core bank : Nat)
  | record (core bank slot word : Nat)
  | scratch (core index : Nat)
  | fullBits (core index : Nat)
  | mask (core index : Nat)
  | map (core slot word : Nat)
  | queue (core index : Nat)
  | list (core n word : Nat)
  | threadState (group thread word : Nat)
  | tileArrivals (tile set : Nat)
  | phase (block set : Nat)
  | arrivals (block set index : Nat)
  | garnetHolder (core : Nat)
  | setTable (block set index : Nat)
  | savedFifo (block core bank : Nat)
  | savedRecord (block core bank slot word : Nat)
  | savedScratch (block core index : Nat)
  | savedFull (block core index : Nat)
  | savedMask (block core index : Nat)
  | savedMap (block core slot word : Nat)
  | savedQueue (block index : Nat)
  | savedList (block n word : Nat)
  | savedHolder (block core : Nat)
  | groupState (group word : Nat)
  | fibreStatus (group : Nat)
  | tileState (tile word : Nat)
  | bankMode (core bank : Nat)
  | savedMode (block core bank : Nat)
  | queueState (core word : Nat)
  | savedQueueState (block word : Nat)
  | qcfg (die : Nat)
  | qstat (die : Nat)
  | cstamp (line : Nat)
  | astamp (line : Nat)
  | pendings (line entry word : Nat)
  | lostUnit (die entry : Nat)
  | logWord (index : Nat)
  | retiredCore (entry : Nat)
  | spareRow (entry : Nat)
  | other (object word : Nat)
deriving DecidableEq, Repr
/-- A request at the debug readback window: the object, and the word to write where it is a write (R392). -/
structure WindowRequest where
  object : Readback
  write  : Option Word
deriving DecidableEq, Repr

/-- What FW_CTX names (R398): the root table, the three rings and the queues. -/
structure FwCtxArgs where
  root  : Nat
  ctl   : Nat
  fault : Nat
  req   : Nat
  hostQ : List Nat
  devQ  : List Nat
deriving DecidableEq, Repr

/-- Every row of the opcode table. -/
inductive Instr where
  /-- `NOP` (R90). Does nothing and occupies its issue position for one clock. -/
  | nop (f : VFmt)
  /-- `BRA` (R92). Per-thread direct branch to u + OFF32 for each enabled active thread. -/
  | bra (f : BFmt)
  /-- `BRU` (R93). Uniform branch taken by every active thread when the leader is enabled and the condition on Sx holds. -/
  | bru (f : BFmt)
  /-- `BRX` (R94). Per-thread indirect branch through a target table entry selected by each thread's index. -/
  | brx (f : BFmt)
  /-- `CALL` (R97). Writes the return unit into the link register and branches to the target. -/
  | call (f : BFmt)
  /-- `RET` (R97). Sets each enabled thread's TPC from its link register. -/
  | ret (f : BFmt)
  /-- `CONV` (R98). Parks enabled threads until every thread named in their masks has parked or exited. -/
  | conv (f : SFmt)
  /-- `YIELD` (R99). Defers enabled threads to the back of the group's rotation. -/
  | yield (f : VFmt)
  /-- `EXIT` (R100). Retires each enabled active thread; the group ends when its last thread retires. -/
  | exit (f : VFmt)
  /-- `BAR` (R102). Converges the group, arrives in a set's current phase and waits for it to complete. -/
  | bar (f : SFmt)
  /-- `BARA` (R102). Converges the group, arrives in a set's current phase and continues. -/
  | bara (f : SFmt)
  /-- `BARW` (R102). Converges the group and waits for the phase in which it last arrived. -/
  | barw (f : SFmt)
  /-- `SAFE` (R105). Parks threads at a pre-emption safe point when a request is pending and CP is zero. -/
  | safe (f : VFmt)
  /-- `TRAP` (R106). Raises cause TRAP with a code and continues at u + 1 on resumption. -/
  | trap (f : SFmt)
  /-- `BKPT` (R106). Raises cause BKPT when mode.BKEN is set, otherwise has no effect. -/
  | bkpt (f : SFmt)
  /-- `GETSR` (R107). Reads a system register into a V or S register. -/
  | getsr (f : VFmt)
  /-- `SETSR` (R107). Writes a system register from an S register or immediate under its access code. -/
  | setsr (f : VFmt)
  /-- `LAUNCH` (R109). Submits a launch record to a device queue and returns an identity or refusal status. -/
  | launch (f : EFmt)
  /-- `SMOV` (R122). Scalar move of an S register. -/
  | smov (f : SFmt)
  /-- `SMOVI` (R122). Scalar move of an immediate. -/
  | smovi (f : SFmt)
  /-- `SMOVH` (R123). Sets bits 63:32 of Sd to IMM32 and keeps bits 31:0. -/
  | smovh (f : SFmt)
  /-- `SADD` (R122). Scalar integer add. -/
  | sadd (f : SFmt)
  /-- `SADDI` (R122). Scalar integer add of an immediate. -/
  | saddi (f : SFmt)
  /-- `SSUB` (R122). Scalar integer subtract. -/
  | ssub (f : SFmt)
  /-- `SMUL` (R122). Scalar integer multiply. -/
  | smul (f : SFmt)
  /-- `SMULH` (R122). Scalar high half of integer multiply. -/
  | smulh (f : SFmt)
  /-- `SDIV` (R122). Scalar integer divide under R59. -/
  | sdiv (f : SFmt)
  /-- `SREM` (R122). Scalar integer remainder under R59. -/
  | srem (f : SFmt)
  /-- `SAND` (R122). Scalar bitwise AND. -/
  | sand (f : SFmt)
  /-- `SOR` (R122). Scalar bitwise OR. -/
  | sor (f : SFmt)
  /-- `SXOR` (R122). Scalar bitwise exclusive OR. -/
  | sxor (f : SFmt)
  /-- `SSHL` (R122). Scalar shift left. -/
  | sshl (f : SFmt)
  /-- `SSHR` (R122). Scalar logical shift right. -/
  | sshr (f : SFmt)
  /-- `SSRA` (R122). Scalar arithmetic shift right. -/
  | ssra (f : SFmt)
  /-- `SMIN` (R122). Scalar integer minimum. -/
  | smin (f : SFmt)
  /-- `SMAX` (R122). Scalar integer maximum. -/
  | smax (f : SFmt)
  /-- `SCMP` (R123). Scalar compare writing all ones or zero per element into Sd. -/
  | scmp (f : SFmt)
  /-- `SSEL` (R123). Scalar per-element select by a non-zero condition register. -/
  | ssel (f : SFmt)
  /-- `SCLZ` (R122). Scalar count of leading zeros. -/
  | sclz (f : SFmt)
  /-- `SPOPC` (R122). Scalar population count. -/
  | spopc (f : SFmt)
  /-- `SBFX` (R122). Scalar bit-field extract with the control in IMM32. -/
  | sbfx (f : SFmt)
  /-- `SBFI` (R122). Scalar bit-field insert with the control in IMM32 and SB as base. -/
  | sbfi (f : SFmt)
  /-- `VMOV` (R114). Vector bit move. -/
  | vmov (f : VFmt)
  /-- `VMOVI` (R114). Vector move of an immediate. -/
  | vmovi (f : VFmt)
  /-- `VMOVS` (R114). Vector move from an S register. -/
  | vmovs (f : VFmt)
  /-- `VADD` (R112). Vector integer add. -/
  | vadd (f : VFmt)
  /-- `VSUB` (R112). Vector integer subtract. -/
  | vsub (f : VFmt)
  /-- `VMUL` (R112). Vector integer multiply. -/
  | vmul (f : VFmt)
  /-- `VMULH` (R112). Vector high half of integer multiply. -/
  | vmulh (f : VFmt)
  /-- `VMAD` (R113). Vector integer multiply-add. -/
  | vmad (f : VFmt)
  /-- `VDIV` (R112). Vector integer divide. -/
  | vdiv (f : VFmt)
  /-- `VREM` (R112). Vector integer remainder. -/
  | vrem (f : VFmt)
  /-- `VAND` (R112). Vector bitwise AND. -/
  | vand (f : VFmt)
  /-- `VOR` (R112). Vector bitwise OR. -/
  | vor (f : VFmt)
  /-- `VXOR` (R112). Vector bitwise exclusive OR. -/
  | vxor (f : VFmt)
  /-- `VNOT` (R113). Vector bitwise NOT. -/
  | vnot (f : VFmt)
  /-- `VSHL` (R112). Vector shift left. -/
  | vshl (f : VFmt)
  /-- `VSHR` (R112). Vector logical shift right. -/
  | vshr (f : VFmt)
  /-- `VSRA` (R112). Vector arithmetic shift right. -/
  | vsra (f : VFmt)
  /-- `VMIN` (R112). Vector integer minimum. -/
  | vmin (f : VFmt)
  /-- `VMAX` (R112). Vector integer maximum. -/
  | vmax (f : VFmt)
  /-- `VABS` (R113). Vector integer absolute value. -/
  | vabs (f : VFmt)
  /-- `VCMP` (R115). Vector integer compare into a predicate register. -/
  | vcmp (f : VFmt)
  /-- `VSEL` (R116). Vector select between two elements by a predicate. -/
  | vsel (f : VFmt)
  /-- `VCLZ` (R113). Vector count of leading zeros. -/
  | vclz (f : VFmt)
  /-- `VPOPC` (R113). Vector population count. -/
  | vpopc (f : VFmt)
  /-- `VBFX` (R117). Vector bit-field extract. -/
  | vbfx (f : VFmt)
  /-- `VBFI` (R117). Vector bit-field insert. -/
  | vbfi (f : VFmt)
  /-- `VDOT4` (R118). Four-way byte dot product accumulated into 32-bit elements. -/
  | vdot4 (f : VFmt)
  /-- `PSET` (R119). Sets predicate bits from an immediate or from non-zero bytes of a V register. -/
  | pset (f : VFmt)
  /-- `PAND` (R119). Predicate AND. -/
  | pand (f : VFmt)
  /-- `POR` (R119). Predicate OR. -/
  | por (f : VFmt)
  /-- `PXOR` (R119). Predicate exclusive OR. -/
  | pxor (f : VFmt)
  /-- `PNOT` (R119). Predicate NOT. -/
  | pnot (f : VFmt)
  /-- `VOTE` (R120). Combines predicate bits across the contributors of the active set. -/
  | vote (f : VFmt)
  /-- `FADD` (R128). Floating add with one rounding. -/
  | fadd (f : VFmt)
  /-- `FSUB` (R128). Floating subtract with one rounding. -/
  | fsub (f : VFmt)
  /-- `FMUL` (R128). Floating multiply with one rounding. -/
  | fmul (f : VFmt)
  /-- `FFMA` (R128). Fused floating multiply-add rounded once. -/
  | ffma (f : VFmt)
  /-- `FMIN` (R129). IEEE minimum. -/
  | fmin (f : VFmt)
  /-- `FMAX` (R129). IEEE maximum. -/
  | fmax (f : VFmt)
  /-- `FMINN` (R129). IEEE minimumNumber. -/
  | fminn (f : VFmt)
  /-- `FMAXN` (R129). IEEE maximumNumber. -/
  | fmaxn (f : VFmt)
  /-- `FABS` (R130). Clears the sign bit. -/
  | fabs (f : VFmt)
  /-- `FNEG` (R130). Inverts the sign bit. -/
  | fneg (f : VFmt)
  /-- `FCPYS` (R130). Copies B's sign bit onto A. -/
  | fcpys (f : VFmt)
  /-- `FCMP` (R131). Floating compare into a predicate register. -/
  | fcmp (f : VFmt)
  /-- `FCLASS` (R132). Classifies each element into a one-hot class word. -/
  | fclass (f : VFmt)
  /-- `FRND` (R133). Rounds each element to an integral value in its own format. -/
  | frnd (f : VFmt)
  /-- `FCVT` (R134). Converts between floating types. -/
  | fcvt (f : VFmt)
  /-- `FCVTI` (R134). Converts floating to integer under R76. -/
  | fcvti (f : VFmt)
  /-- `ICVTF` (R134). Converts integer to floating. -/
  | icvtf (f : VFmt)
  /-- `FPACK` (R135). Packs IEEE elements into a block of narrow units. -/
  | fpack (f : VFmt)
  /-- `FUNPK` (R135). Unpacks a block of narrow units into IEEE elements. -/
  | funpk (f : VFmt)
  /-- `FSCA` (R136). Applies two UE4M3 block scales to FP32 sums and optionally accumulates. -/
  | fsca (f : VFmt)
  /-- `FDIV` (R128). Correctly rounded floating divide. -/
  | fdiv (f : VFmt)
  /-- `FRCP` (R137). Correctly rounded reciprocal. -/
  | frcp (f : VFmt)
  /-- `FSQRT` (R137). Correctly rounded square root. -/
  | fsqrt (f : VFmt)
  /-- `FRSQ` (R137). Correctly rounded reciprocal square root. -/
  | frsq (f : VFmt)
  /-- `FEXP2` (R137). Correctly rounded 2 to the power x. -/
  | fexp2 (f : VFmt)
  /-- `FLOG2` (R137). Correctly rounded base-2 logarithm. -/
  | flog2 (f : VFmt)
  /-- `FSINP` (R137). Correctly rounded sin(pi x). -/
  | fsinp (f : VFmt)
  /-- `FCOSP` (R137). Correctly rounded cos(pi x). -/
  | fcosp (f : VFmt)
  /-- `FTANH` (R137). Correctly rounded hyperbolic tangent. -/
  | ftanh (f : VFmt)
  /-- `EXPQ` (R81). Computes e4m3 codes of exp(x) times 256 into a narrow block. -/
  | expq (f : VFmt)
  /-- `XGET` (R140). Pulls an element from a partner lane. -/
  | xget (f : VFmt)
  /-- `XPUT` (R141). Pushes an element to a partner lane with a collision record. -/
  | xput (f : VFmt)
  /-- `XBCAST` (R142). Broadcasts one lane's element to every contributor or to a scalar. -/
  | xbcast (f : VFmt)
  /-- `XSCAN` (R144). Writes ordered prefix combinations across contributors. -/
  | xscan (f : VFmt)
  /-- `XRED` (R145). Writes the ordered reduction across contributors. -/
  | xred (f : VFmt)
  /-- `XFFS` (R146). Finds the first, last or count of contributors with a predicate bit set. -/
  | xffs (f : VFmt)
  /-- `LD` (R155). Loads an element per thread from memory or scratchpad. -/
  | ld (f : MFmt)
  /-- `LDP` (R156). Probing load that zeroes and flags elements on non-resident pages. -/
  | ldp (f : MFmt)
  /-- `ST` (R155). Stores an element per thread. -/
  | st (f : MFmt)
  /-- `LDC` (R155). Loads through the constant path. -/
  | ldc (f : MFmt)
  /-- `SLD` (R155). Uniform scalar load. -/
  | sld (f : MFmt)
  /-- `SST` (R155). Uniform scalar store. -/
  | sst (f : MFmt)
  /-- `GATH` (R157). Indexed gather through the gather collector. -/
  | gath (f : MFmt)
  /-- `GATHP` (R157). Probing indexed gather. -/
  | gathp (f : MFmt)
  /-- `SCAT` (R158). Indexed scatter, plain or with an atomic operator. -/
  | scat (f : MFmt)
  /-- `ATOM` (R161). Atomic read-modify-write at the element's home. -/
  | atom (f : MFmt)
  /-- `AMAXR` (R162). Reads a maximum and resets it to the identity in one atomic step. -/
  | amaxr (f : MFmt)
  /-- `FENCE` (R163). Cumulative memory fence of the given order and scope. -/
  | fence (f : MFmt)
  /-- `PFENCE` (R164). Joins two access paths for the issuing thread. -/
  | pfence (f : MFmt)
  /-- `WAIT` (R165). Waits until each counter class holds no more than its limit. -/
  | wait (f : SFmt)
  /-- `QPUSH` (R166). Pushes 32-byte records into a FIFO bank. -/
  | qpush (f : EFmt)
  /-- `QPOP` (R166). Pops 32-byte records from a FIFO bank. -/
  | qpop (f : EFmt)
  /-- `SPMAP` (R167). Maps or unmaps a scratchpad region to a global range. -/
  | spmap (f : EFmt)
  /-- `SPWB` (R167). Writes dirty mapped lines back. -/
  | spwb (f : EFmt)
  /-- `SPEMPTY` (R168). Sets scratchpad lines empty, discarding mapped dirty data. -/
  | spempty (f : MFmt)
  /-- `BANKCFG` (R169). Drains and switches one bank's mode. -/
  | bankcfg (f : EFmt)
  /-- `PGREQ` (R170). Asks for residency or migration of a page and returns a status. -/
  | pgreq (f : MFmt)
  /-- `CPY` (R173). Copies a box between a tensor and scratchpad or a FIFO bank. -/
  | cpy (f : EFmt)
  /-- `CPYSEL` (R174). Pops logit rows from the accumulator queue, stores them and selects top-k records. -/
  | cpysel (f : EFmt)
  /-- `FBOPEN` (R177). Opens a fibre on one CSR row. -/
  | fbopen (f : EFmt)
  /-- `FBNEXT` (R177). Reads the next column and value of a fibre. -/
  | fbnext (f : EFmt)
  /-- `FBEND` (R177). Flags whether a fibre is exhausted. -/
  | fbend (f : EFmt)
  /-- `FBCLOSE` (R177). Closes a fibre slot. -/
  | fbclose (f : EFmt)
  /-- `DQPUSH` (R179). Pushes an item at the owner end of a deque. -/
  | dqpush (f : EFmt)
  /-- `DQPOP` (R179). Pops the newest item of a deque. -/
  | dqpop (f : EFmt)
  /-- `DQSTEAL` (R179). Steals the oldest item of a deque. -/
  | dqsteal (f : EFmt)
  /-- `BNDUP` (R180). Updates a cluster bound register by max, min or set. -/
  | bndup (f : EFmt)
  /-- `BNDRD` (R180). Reads the core's copy of a bound register. -/
  | bndrd (f : EFmt)
  /-- `RNGT` (R181). Takes random words from a die's random slot as one ticket. -/
  | rngt (f : EFmt)
  /-- `TNOW` (R182). Reads the die's Quartz interval bounds. -/
  | tnow (f : EFmt)
  /-- `STST` (R183). Stamped store made visible by commit-wait. -/
  | stst (f : MFmt)
  /-- `LDAS` (R184). As-of load of a stamped line at stamp T. -/
  | ldas (f : MFmt)
  /-- `VACQ` (R185). Acquires ownership of a host-shared range. -/
  | vacq (f : EFmt)
  /-- `VREL` (R185). Releases ownership of a host-shared range to the host. -/
  | vrel (f : EFmt)
  /-- `TSMOV` (R190). Tile scalar move. -/
  | tsmov (f : TFmt)
  /-- `TSMOVI` (R190). Tile scalar move of an immediate under a mode. -/
  | tsmovi (f : TFmt)
  /-- `TSADD` (R190). Tile scalar add. -/
  | tsadd (f : TFmt)
  /-- `TLOOP` (R190). Branches while a tile scalar is positive. -/
  | tloop (f : TFmt)
  /-- `TBRA` (R190). Conditional or unconditional tile-stream branch. -/
  | tbra (f : TFmt)
  /-- `TARR` (R191). Context arrives in a set's phase after its older matrix work completes. -/
  | tarr (f : TFmt)
  /-- `TWAIT` (R191). Context waits for the phase in which it last arrived. -/
  | twait (f : TFmt)
  /-- `TFMT` (R190). Writes a format register, checked under R71. -/
  | tfmt (f : TFmt)
  /-- `TNORM` (R197). Writes the upward-rounded norm sidecar of an operand tile. -/
  | tnorm (f : TFmt)
  /-- `MMA` (R198). Computes a 64x64 product tile into the accumulator queue. -/
  | mma (f : TFmt)
  /-- `MMAC` (R200). Adds a product tile into memory under a sequence tag. -/
  | mmac (f : TFmt)
  /-- `MMK` (R204). Selects the best products of each row into a winner list. -/
  | mmk (f : TFmt)
  /-- `WLINIT` (R203). Initialises a winner list with k. -/
  | wlinit (f : TFmt)
  /-- `WLFLR` (R203). Links or unlinks a list's floor to a bound register. -/
  | wlflr (f : TFmt)
  /-- `WLST` (R207). Stores a winner-list image. -/
  | wlst (f : TFmt)
  /-- `WLMRG` (R207). Merges a stored winner-list image into a list. -/
  | wlmrg (f : TFmt)
  /-- `TEND` (R192). Ends the tile-sequencer context after older instructions complete. -/
  | tend (f : TFmt)
  /-- `AQPOP` (R199). Pops one accumulator-queue row into a group. -/
  | aqpop (f : VFmt)
  /-- `WLRD` (R208). Reads one row of a winner list into a group. -/
  | wlrd (f : VFmt)
  /-- `NLBIN` (R211). Bins particles into grid cells. -/
  | nlbin (f : EFmt)
  /-- `NLSWEEP` (R212). Sweeps binned cells and emits pair records into a FIFO bank. -/
  | nlsweep (f : EFmt)
  /-- `NLSTAT` (R214). Reads STATE and OUTSIDE of a status record as an acquire. -/
  | nlstat (f : EFmt)
  /-- `KVX` (R216). Looks up a KV key in its window and overflow chain. -/
  | kvx (f : EFmt)
  /-- `KVINS` (R216). Inserts a KV key, allocating a free entry. -/
  | kvins (f : EFmt)
  /-- `KVREF` (R217). Increments or decrements a KV entry's reference count. -/
  | kvref (f : EFmt)
  /-- `PFXH` (R218). Computes chained block hashes of tokens. -/
  | pfxh (f : EFmt)
  /-- `PFXL` (R220). Finds the longest verified prefix in a prefix table. -/
  | pfxl (f : EFmt)
  /-- `PFXI` (R221). Inserts prefix entries. -/
  | pfxi (f : EFmt)
  /-- `COLL` (R223). Contributes one shard to a collective generation. -/
  | coll (f : EFmt)
  /-- `COLLW` (R224). Waits for a collective generation to complete. -/
  | collw (f : EFmt)
  /-- `YIELD_DEPENDENCE_END` (R99). The long-latency dependence of an all-deferred group ends at the clock after the YIELD. -/
  | yieldDependenceEnd (group : Nat)
  /-- `GROUP_EXCHANGE` (R240). An active group that waits, faults or ends is exchanged with the oldest Ready pending group in 2 clocks. -/
  | groupExchange (core part : Nat)
  /-- `FORCED_EXCHANGE` (R240). A pending group Ready for 1,024 clocks forces an exchange with the longest-active group. -/
  | forcedExchange (core part : Nat)
  /-- `OPERATION_RETIRE` (R152). An outstanding operation completes and leaves its counter in issue order, becoming visible at its scope. -/
  | operationRetire (group op : Nat)
  /-- `FIFO_THREAD_SERVED` (R166). A waiting QPUSH or QPOP thread is served when a slot or record becomes available. -/
  | fifoThreadServed (group : Nat)
  /-- `MAP_FILL` (R257). A first-touch fill reads a mapped line from global memory, merges by written mask and sets it full. -/
  | mapFill (core line : Nat)
  /-- `GATHER_BATCH_CLOSE` (R261). A gather batch closes after 32 clocks or at its 128th line and sends one request per line. -/
  | gatherBatchClose (core : Nat)
  /-- `GATHER_REPLY` (R262). Replies for an instruction's lines return and its LD or ST operation completes. -/
  | gatherReply (group op : Nat)
  /-- `ATOMIC_AT_HOME` (R284). An atomic read-modify-write is performed in one step at the home slice or bank. -/
  | atomicAtHome (group op : Nat)
  /-- `BANK_SWITCH` (R169). After the drain ends, the bank is written back, unmapped and switched to its new mode. -/
  | bankSwitch (group op : Nat)
  /-- `COPY_COMPLETE` (R173). The copy engine finishes a copy's elements, filling lines and pushing FIFO records. -/
  | copyComplete (group op : Nat)
  /-- `CPYSEL_ROW` (R175). CPYSEL pops one queue row, stores it and updates its completion record. -/
  | cpyselRow (group op : Nat)
  /-- `DEQUE_STEP` (R178). The deque logic performs one push, pop or steal as an atomic step in arrival order. -/
  | dequeStep (group op : Nat)
  /-- `BOUND_UNIT_UPDATE` (R180). A BNDUP arrives at the cluster's bound unit and every core copy is updated in arrival order. -/
  | boundUnitUpdate (group op core : Nat)
  /-- `RANDOM_REFILL` (R181). The die's random engine produces 16 words per clock into rings below full. -/
  | randomRefill (die slot : Nat)
  /-- `REPLAY_TICKET` (R367). In replay mode an RNGT ticket takes words from the replay table at its home and advances CURSOR. -/
  | replayTicket (group op : Nat)
  /-- `STST_PREPARE` (R347). A home makes the width test and assigns stamps for an STST's elements, marking them pending. -/
  | ststPrepare (group : Nat)
  /-- `STST_CONFIRM` (R347). Each home confirms or cancels the pending entries of an STST once all homes have answered. -/
  | ststConfirm (group : Nat)
  /-- `STAMPED_COMMIT` (R348). A pending commit becomes visible when the home's Earliest exceeds its stamp; CSTAMP is updated. -/
  | stampedCommit (line : Nat)
  /-- `LDAS_ANSWER` (R184). An as-of load is answered once Earliest exceeds T and no commit at or below T is pending. -/
  | ldasAnswer (group op : Nat)
  /-- `MATRIX_COMMIT` (R286). A matrix instruction reaches its commit point and its effect on its destination becomes whole. -/
  | matrixCommit (tile : Nat)
  /-- `MMAC_TAG_STEP` (R201). The tag's home drops, holds or records a contribution and releases it to the line homes. -/
  | mmacTagStep (tile : Nat)
  /-- `MMAC_LINE_APPLY` (R201). A line home adds a contribution's elements into memory in release order. -/
  | mmacLineApply (tile line : Nat)
  /-- `NLBIN_COMPLETE` (R211). Binning finishes and the cell records and status record are written. -/
  | nlbinComplete (group op : Nat)
  /-- `NLSWEEP_CELL_VISIT` (R212). An engine visits a cell, tests staleness and pushes its pair records. -/
  | nlsweepCellVisit (group op cell : Nat)
  /-- `NLSWEEP_END` (R212). The sweep pushes its end record and writes the final status. -/
  | nlsweepEnd (group op : Nat)
  /-- `KV_STEP` (R216). A KV operation for one thread is carried out as one atomic step at the header's home. -/
  | kvStep (group op : Nat)
  /-- `PREFIX_STEP` (R220). A prefix lookup or insert is one atomic step at the header's home. -/
  | prefixStep (group op : Nat)
  /-- `COLL_CONTRIBUTION` (R223). A contribution is judged and recorded at the descriptor's home in one atomic step. -/
  | collContribution (group op : Nat)
  /-- `COLL_COMPLETION` (R223). A generation completes when all expected arrive or the deadline passes, and OUT is written. -/
  | collCompletion (ctx va : Nat)
  /-- `VREL_HANDOFF` (R329). After device accesses drain, ownership passes to the host and pending TAKEs complete. -/
  | vrelHandoff (group op : Nat)
  /-- `REQUEST_RECORD_POST` (R328). The device posts a record on the context's request ring when there is room and interrupts the host. -/
  | requestRecordPost (ctx : Nat)
  /-- `MOVE_REQUEST_DECISION` (R332). A migration request is decided at the home: settled, settle, or move. -/
  | moveRequestDecision (move : Nat)
  /-- `PAGE_MOVE` (R331). A page move stalls accesses, copies the page, rewrites its entry, invalidates and frees the old frame. -/
  | pageMove (move : Nat)
  /-- `HOST_QUEUE_TAKE` (R313). The device takes a launch record from a host queue slot, gives it an identity and checks it. -/
  | hostQueueTake (ctx queue : Nat)
  /-- `BLOCK_PLACE` (R316). The distributor places a waiting block whole once room and dependences allow. -/
  | blockPlace (launch : Nat) (place : Placement)
  /-- `LAUNCH_END` (R314). A launch ends, makes its writes visible, writes its completion record, interrupts and releases dependants. -/
  | launchEnd (launch : Nat)
  /-- `AGE_BOOST` (R317). Every 100 ms without placement a launch's age boost rises by 1, up to 6. -/
  | ageBoost (launch : Nat)
  /-- `DISTRIBUTOR_PREEMPT_REQUEST` (R316). The distributor requests pre-emption of a lower-priority block holding needed resources. -/
  | distributorPreemptRequest (block : Nat)
  /-- `CORE_GATE` (R311). A core with no resident group for 20 us is power-gated. -/
  | coreGate (core : Nat)
  /-- `CORE_WAKE` (R311). A gated core finishes its 4 us wake before the block's first fetch. -/
  | coreWake (core : Nat)
  /-- `LEASE_GRANT` (R318). The die's power controller grants a heavy operation its lease. -/
  | leaseGrant (die : Nat)
  /-- `BLOCK_TAKE` (R340). When every group is at a safe point the block is stopped, drained, saved and its resources released. -/
  | blockTake (block : Nat)
  /-- `PREEMPT_TIMEOUT` (R340). The pre-emption time limit passes and the block is aborted. -/
  | preemptTimeout (block : Nat)
  /-- `BLOCK_RESTORE` (R342). The distributor restores a taken block, writing back every saved field. -/
  | blockRestore (block : Nat) (place : Placement)
  /-- `BLOCK_ABORT` (R338). A block stops issuing, discards blocked operations, retires the rest and drains its banks. -/
  | blockAbort (block : Nat)
  /-- `FAULT_RECORD_POST` (R336). The device writes a fault record to the fault ring when there is room and interrupts the host. -/
  | faultRecordPost (ctx : Nat)
  /-- `INVAL` (R326). Control command: invalidates translations over a range once no old entry is in use. -/
  | inval (ctx : Nat)
  /-- `GIVE` (R329). Control command: host-owned pages of a shared range pass to the device. -/
  | give (ctx : Nat)
  /-- `TAKE` (R327). Control command: asks the device to release a shared range to the host. -/
  | take (ctx : Nat)
  /-- `RESOLVE` (R327). Control command: answers a residency or host-move request for a page. -/
  | resolve (ctx : Nat)
  /-- `MOVE` (R331). Control command: requests migration of pages to a die or the host. -/
  | move (ctx : Nat)
  /-- `FRAMES` (R327). Control command: adds frames to a die's frame pool. -/
  | frames (ctx : Nat)
  /-- `REFUSE` (R327). Control command: refuses every pending VACQ on a range. -/
  | refuse (ctx : Nat)
  /-- `RESUME` (R337). Control command: replays a Faulted group or context, optionally at a new TPC. -/
  | resume (ctx : Nat)
  /-- `ABORT` (R337). Control command: aborts a block or a whole launch with a recorded cause. -/
  | abort (ctx : Nat)
  /-- `PREEMPT` (R337). Control command: requests pre-emption of a block with a time limit. -/
  | preempt (ctx : Nat)
  /-- `WITHDRAW` (R340). Control command: withdraws a pending pre-emption request and releases threads parked at SAFE. -/
  | withdraw (ctx : Nat)
  /-- `SAVEAREA` (R337). Control command: gives the context's save area. -/
  | savearea (ctx : Nat)
  /-- `REPLAY` (R365). Control command: binds or unbinds a random slot to a replay table. -/
  | replay (ctx : Nat)
  /-- `FW_DESTROY` (R398). Firmware command: aborts every block of a context, ends its launches and frees it. -/
  | fwDestroy (ctx : Nat)
  /-- `QUARTZ_PROBE` (R377). Each PERIOD a die sends a sample probe to its neighbours, listed peers and the control processor. -/
  | quartzProbe (die : Nat) (party : Party)
  /-- `QUARTZ_SAMPLE` (R376). A sample answer arrives and the die intersects, discards or counts a conflict. -/
  | quartzSample (die : Nat) (party : Party) (answer : Answer)
  /-- `QUARTZ_FREE` (R379). When AGE reaches 1,000 x PERIOD a LOCKED die goes to FREE. -/
  | quartzFree (die : Nat)
  /-- `QUARTZ_WIDE` (R379). When the half-width grows past QLIM the die goes to WIDE. -/
  | quartzWide (die : Nat)
  /-- `FW_BOUND` (R377). Firmware command: sets the host PTP error bound used by later PTM readings. -/
  | fwBound
  /-- `GROUP_FETCH` (R228). A group fetches at the minimum TPC (or escort TPC), checks the line and issues the active set. -/
  | groupFetch (group : Nat)
  /-- `CONTEXT_FETCH` (R187). A tile-sequencer context fetches and issues its next tile-stream instruction. -/
  | contextFetch (tile : Nat)
  /-- `DOORBELL_WRITE` (R397). A host doorbell write names a host queue or the control ring of a context. -/
  | doorbellWrite (ctx : Nat) (value : BitVec 32)
  /-- `FW_CTX` (R398). Firmware command: creates a context and returns its number. -/
  | fwCtx (args : FwCtxArgs)
  /-- `FW_LOG` (R398). Firmware command: copies and removes up to 64 error-log records. -/
  | fwLog (buffer : Nat)
  /-- `FW_ATTEST` (R394). Firmware command: returns a signed attestation report for a nonce. -/
  | fwAttest (nonce buffer : Nat)
  /-- `FW_QCFG` (R378). Firmware command: writes QCFG of every die. -/
  | fwQcfg (value : Word)
  /-- `FW_SCRUB` (R388). Firmware command: sets the scrub period. -/
  | fwScrub (hours : Nat)
  /-- `FW_DEBUG` (R398). Firmware command: enables or disables debug readback and breakpoints for a context. -/
  | fwDebug (ctx : Nat) (readback breakpoints : Bool)
  /-- `FW_PEERS` (R399). Firmware command: loads the Stolvin route table. -/
  | fwPeers (routes : List (Nat × Nat))
  /-- `FW_APER` (R396). Firmware command: places the BAR 2 aperture. -/
  | fwAper (addr : Nat)
  /-- `APERTURE_ACCESS` (R396). A host read or write through the BAR 2 aperture acts as a .sys access to DRAM. -/
  | apertureAccess (addr : Nat) (write : Option Byte)
  /-- `UNLISTED_WINDOW_WRITE` (R396). A host write to an unlisted window offset is ignored. -/
  | unlistedWindowWrite (bar offset : Nat) (value : Option Word)
  /-- `DEBUG_READBACK` (R392). A readback request returns one word of a named object. -/
  | debugReadback (ctx : Nat) (object : WindowRequest)
  /-- `QSTAT_READ` (R378). A read of QSTAT returns it and clears CONFLICTS. -/
  | qstatRead (die : Nat)
  /-- `PTM_READING` (R377). The control processor takes a PTM reading of the host's PTP clock. -/
  | ptmReading (hostTime : Nat)
  /-- `UNCORRECTABLE_ERROR` (R384). Detected uncorrectable data is not delivered and its consumer takes MACHINE_CHECK. -/
  | uncorrectableError (where_ : ErrorSite)
  /-- `LINK_RETRY` (R383). A flit failing its CRC is retried. -/
  | linkRetry (link : Retry)
  /-- `LINK_DOWN` (R383). A port whose flit fails a 17th time goes down. -/
  | linkDown (link : Link)
  /-- `FATAL_ERROR` (R387). A fatal error stops placement, aborts every block and waits for reset. -/
  | fatalError (where_ : BitVec 32) (addr : Nat)
  /-- `SCRUB_PASS` (R388). The patrol scrubber reads and corrects DRAM units over each scrub period. -/
  | scrubPass (die : Nat) (bad : List Nat)
  /-- `L2_SWEEP` (R388). Idle L2 is swept once per hour. -/
  | l2Sweep (die : Nat) (bad : List Nat)
  /-- `CORE_RETIRE` (R390). A core with two uncorrectable errors in 24 hours is retired and its blocks pre-empted. -/
  | coreRetire (core : Nat)
  /-- `THERMAL_STATE_CHANGE` (R401). A temperature or power threshold moves the module between thermal states. -/
  | thermalStateChange (entered : BitVec 2)
  /-- `MODULE_RESET` (R402). Module reset runs firmware check, DRAM training, die release, link training and READY. -/
  | moduleReset (banks : List (List FlashImage)) (link0 link1 : Bool)
  /-- `CORRECTED_ERROR` (R382). A correctable error in a store is repaired in transit, written back, logged as kind 1 and counted
  toward row sparing. -/
  | correctedError (where_ : BitVec 32) (addr : Nat)
  /-- `PEER_ACCESS` (R395). A peer device's access arrives over a Stolvin link and is served at the page's HOME die as a .sys access. -/
  | peerAccess (addr : Nat) (write : Option Byte)
  /-- `PEER_PROBE` (R376). A Quartz probe from a peer module arrives and the die answers with its interval read at arrival, or not
  at all while UNSET. -/
  | peerProbe (die : Nat)
  /-- `MBOX_WRITE` (R398). A host write of a command address to MBOX makes the control processor take the command in order,
  answering status 1 for malformed commands and 2 before READY. -/
  | mboxWrite (addr : Nat)
deriving DecidableEq, Repr

end Sys2Proof
end

