-- ==== Sys2Proof/WellFormed.lean ====
section
/-!
DEFINITION. The field checks that the decode checks of R53 are made of: which codes are defined, which shapes the
selectors may take, which fields must be zero. Decode.lean says which of them each entry asks for.
-/
namespace Sys2Proof

/-- An unguarded instruction (R21). -/
def Guard.always (g : Guard) : Bool := g.pred == 15 && !g.neg

/-- Width in bits of an element type code (R50); none for the narrow and the reserved codes. -/
def typeWidth? (c : BitVec 4) : Option Nat :=
  match c.toNat with
  | 0 | 4 => some 8
  | 1 | 5 | 8 | 9 => some 16
  | 2 | 6 | 10 => some 32
  | 3 | 7 | 11 => some 64
  | _ => none

/-- An integer type code, 0x0 to 0x7 (R50). -/
def isIntType (c : BitVec 4) : Bool := c.toNat < 8
/-- A floating type code, 0x8 to 0xB (R50). -/
def isFloatType (c : BitVec 4) : Bool := 8 ≤ c.toNat && c.toNat < 12
/-- Any element type with a width, 0x0 to 0xB (R50). -/
def isElemType (c : BitVec 4) : Bool := c.toNat < 12

/-- A selector that names one sub-element of width `w` (R48). -/
def selSingle (w : Nat) (s : BitVec 4) : Bool := s.toNat < 64 / w
/-- The two shapes of R111: every selector whole, or every selector a sub-element of its own width. -/
def shapeOk (sels : List (Nat × BitVec 4)) : Bool :=
  sels.all (fun p => p.2 == 15) || sels.all (fun p => selSingle p.1 p.2)

/-- An 11-bit field that names an S register (R45). -/
def sField (f : BitVec 11) : Bool := f.toNat < 128
/-- An 11-bit field that names a P register (R45). -/
def pField (f : BitVec 11) : Bool := f.toNat < 16

namespace VFmt
/-- Format VI (R44). -/
def isVI (f : VFmt) : Bool := match f.src with | .imm _ => true | .regs .. => false
/-- Field B, zero in VI. -/
def b (f : VFmt) : BitVec 11 := match f.src with | .regs b _ _ _ => b | .imm _ => 0
/-- Field C, zero in VI. -/
def c (f : VFmt) : BitVec 11 := match f.src with | .regs _ c _ _ => c | .imm _ => 0
/-- MOD field XA, zero in VI. -/
def xa (f : VFmt) : BitVec 6 := match f.src with | .regs _ _ x _ => x | .imm _ => 0
/-- MOD field SELC, zero in VI. -/
def selC (f : VFmt) : BitVec 4 := match f.src with | .regs _ _ _ s => s | .imm _ => 0
/-- IMM32, zero in VR. -/
def imm (f : VFmt) : BitVec 32 := match f.src with | .imm v => v | .regs .. => 0
/-- RM, SAT and SUBOP zero (R89). -/
def plain (f : VFmt) : Bool := f.rm == 0 && !f.sat && f.subop == 0
/-- B, C, XA and SELC zero. -/
def noB (f : VFmt) : Bool := f.b == 0 && f.c == 0 && f.xa == 0 && f.selC == 0
/-- C, XA and SELC zero. -/
def noC (f : VFmt) : Bool := f.c == 0 && f.xa == 0 && f.selC == 0
/-- Every MOD field but FI zero. -/
def modZero (f : VFmt) : Bool :=
  f.plain && f.xa == 0 && f.selA == 0 && f.selB == 0 && f.selC == 0 && f.selD == 0 && f.type == 0 && f.type2 == 0
/-- Bits 80:0 all zero (R90, R99, R100, R105). -/
def allZero (f : VFmt) : Bool := !f.isVI && f.d == 0 && f.a == 0 && f.b == 0 && f.c == 0 && f.modZero
end VFmt

namespace SFmt
/-- MOD bits 27:7 zero. -/
def highZero (f : SFmt) : Bool := f.zero == 0 && f.sx == 0 && !f.immSel && !f.sat
/-- Uniform, integer type, MOD bits 27:16 zero (R121). -/
def scalar (f : SFmt) : Bool := f.g.u && isIntType f.type && f.zero == 0
end SFmt

namespace MFmt
/-- The element that SELD selects: a sub-element of the type, or the whole register (R150). -/
def selOk (f : MFmt) : Bool :=
  match typeWidth? f.type with | some w => f.selD == 15 || selSingle w f.selD | none => false
/-- Width in bits of the element moved (R150). -/
def width (f : MFmt) : Nat := if f.selD == 15 then 64 else (typeWidth? f.type).getD 64
/-- Byte offset of the element in its register (R150). -/
def eOff (f : MFmt) : Nat := if f.selD == 15 then 0 else f.selD.toNat * (f.width / 8)
/-- The address register field: any V index, or an S index with the high bits zero (R44). -/
def addrOk (f : MFmt) : Bool := !f.saddr || sField f.addr
/-- The scope code is defined (R52). -/
def scopeOk (f : MFmt) : Bool := f.scope.toNat < 6
/-- A scope field that the entry leaves unused: zero, or the default code .sys (R52, R53; log entry 12). -/
def scopeUnused (f : MFmt) : Bool := f.scope == 0 || f.scope == 5
end MFmt

namespace EFmt
/-- The scope code is defined (R52). -/
def scopeOk (f : EFmt) : Bool := f.scope.toNat < 6
/-- A scope field that the entry leaves unused: zero, or the default code .sys (R52, R53; log entry 12). -/
def scopeUnused (f : EFmt) : Bool := f.scope == 0 || f.scope == 5
end EFmt

end Sys2Proof
end

