-- ==== Sys2Proof/Decode.lean ====
section
/-!
DEFINITION. Decoding: the fields of a 96-bit word (R43 to R49), the opcode map (R54 to R56), the entry checks 3 to 5 of
R53 for every instruction, the registers each instruction reads and writes (R40), and the encoder.
-/
namespace Sys2Proof

open Machine (bits bitAt)

/-! ### The fields of a word -/

/-- The header's NEG, PRED and U (R43). -/
def Guard.ofWord (w : IWord) : Guard :=
  Guard.mk (w.getLsbD 86) (w.extractLsb' 82 4) (w.getLsbD 81)

/-- The sources of formats VR and VI, by the format bit FI in MOD bit 0 (R44). -/
def VSrc.ofWord (w : IWord) : VSrc :=
  if w.getLsbD 0 then .imm (w.extractLsb' 27 32)
  else .regs (w.extractLsb' 48 11) (w.extractLsb' 37 11) (w.extractLsb' 31 6) (w.extractLsb' 27 4)

/-- Formats VR and VI (R44, R47). -/
def VFmt.ofWord (w : IWord) : VFmt :=
  VFmt.mk (Guard.ofWord w) (w.extractLsb' 70 11) (w.extractLsb' 59 11) (VSrc.ofWord w) (w.extractLsb' 24 3)
    (w.extractLsb' 20 4) (w.extractLsb' 16 4) (w.extractLsb' 12 4) (w.getLsbD 11) (w.extractLsb' 9 2)
    (w.extractLsb' 5 4) (w.extractLsb' 1 4)

/-- Format SC (R44, R121). -/
def SFmt.ofWord (w : IWord) : SFmt :=
  SFmt.mk (Guard.ofWord w) (w.extractLsb' 74 7) (w.extractLsb' 67 7) (w.extractLsb' 60 7) (w.extractLsb' 28 32)
    (w.extractLsb' 16 12) (w.extractLsb' 9 7) (w.getLsbD 8) (w.getLsbD 7) (w.extractLsb' 4 3) (w.extractLsb' 0 4)

/-- Format MEM (R44, R49). -/
def MFmt.ofWord (w : IWord) : MFmt :=
  MFmt.mk (Guard.ofWord w) (w.extractLsb' 70 11) (w.extractLsb' 59 11) (w.extractLsb' 35 24) (w.extractLsb' 26 9)
    (w.getLsbD 25) (w.extractLsb' 21 4) (w.extractLsb' 17 4) (w.extractLsb' 13 4) (w.getLsbD 12)
    (w.extractLsb' 10 2) (w.extractLsb' 7 3) (w.extractLsb' 4 3) (w.extractLsb' 0 4)

/-- Format BR (R44). -/
def BFmt.ofWord (w : IWord) : BFmt :=
  BFmt.mk (Guard.ofWord w) (w.extractLsb' 49 32) (w.extractLsb' 38 11) (w.extractLsb' 30 8) (w.extractLsb' 23 7)
    (w.extractLsb' 20 3) (w.extractLsb' 0 20)

/-- Format TS (R44, R189). -/
def TFmt.ofWord (w : IWord) : TFmt :=
  TFmt.mk (Guard.ofWord w) (w.extractLsb' 76 5) (w.extractLsb' 71 5) (w.extractLsb' 66 5) (w.extractLsb' 61 5)
    (w.extractLsb' 58 3) (w.extractLsb' 55 3) (w.extractLsb' 52 3) (w.extractLsb' 20 32) (w.extractLsb' 4 16)
    (w.extractLsb' 0 4)

/-- Format EN (R44). -/
def EFmt.ofWord (w : IWord) : EFmt :=
  EFmt.mk (Guard.ofWord w) (w.extractLsb' 74 7) (w.extractLsb' 67 7) (w.extractLsb' 60 7) (w.extractLsb' 53 7)
    (w.extractLsb' 42 11) (w.extractLsb' 38 4) (w.extractLsb' 22 16) (w.extractLsb' 10 12) (w.extractLsb' 7 3)
    (w.extractLsb' 4 3) (w.extractLsb' 0 4)

/-- An instruction with its opcode and the fields of its format; the steps of the machine have no word. -/
inductive View where
  | v (opc : Nat) (f : VFmt)
  | s (opc : Nat) (f : SFmt)
  | m (opc : Nat) (f : MFmt)
  | b (opc : Nat) (f : BFmt)
  | t (opc : Nat) (f : TFmt)
  | e (opc : Nat) (f : EFmt)
  | step
deriving DecidableEq, Repr

/-- The opcode map (R54), from instruction to opcode and format. -/
def Instr.view : Instr → View
  | .nop f => .v 0x000 f
  | .bra f => .b 0x001 f
  | .bru f => .b 0x002 f
  | .brx f => .b 0x003 f
  | .call f => .b 0x004 f
  | .ret f => .b 0x005 f
  | .conv f => .s 0x006 f
  | .yield f => .v 0x007 f
  | .exit f => .v 0x008 f
  | .bar f => .s 0x009 f
  | .bara f => .s 0x00A f
  | .barw f => .s 0x00B f
  | .safe f => .v 0x00C f
  | .trap f => .s 0x00D f
  | .bkpt f => .s 0x00E f
  | .getsr f => .v 0x00F f
  | .setsr f => .v 0x010 f
  | .launch f => .e 0x011 f
  | .smov f => .s 0x040 f
  | .smovi f => .s 0x041 f
  | .smovh f => .s 0x042 f
  | .sadd f => .s 0x043 f
  | .saddi f => .s 0x044 f
  | .ssub f => .s 0x045 f
  | .smul f => .s 0x046 f
  | .smulh f => .s 0x047 f
  | .sdiv f => .s 0x048 f
  | .srem f => .s 0x049 f
  | .sand f => .s 0x04A f
  | .sor f => .s 0x04B f
  | .sxor f => .s 0x04C f
  | .sshl f => .s 0x04D f
  | .sshr f => .s 0x04E f
  | .ssra f => .s 0x04F f
  | .smin f => .s 0x050 f
  | .smax f => .s 0x051 f
  | .scmp f => .s 0x052 f
  | .ssel f => .s 0x053 f
  | .sclz f => .s 0x054 f
  | .spopc f => .s 0x055 f
  | .sbfx f => .s 0x056 f
  | .sbfi f => .s 0x057 f
  | .vmov f => .v 0x080 f
  | .vmovi f => .v 0x081 f
  | .vmovs f => .v 0x082 f
  | .vadd f => .v 0x083 f
  | .vsub f => .v 0x084 f
  | .vmul f => .v 0x085 f
  | .vmulh f => .v 0x086 f
  | .vmad f => .v 0x087 f
  | .vdiv f => .v 0x088 f
  | .vrem f => .v 0x089 f
  | .vand f => .v 0x08A f
  | .vor f => .v 0x08B f
  | .vxor f => .v 0x08C f
  | .vnot f => .v 0x08D f
  | .vshl f => .v 0x08E f
  | .vshr f => .v 0x08F f
  | .vsra f => .v 0x090 f
  | .vmin f => .v 0x091 f
  | .vmax f => .v 0x092 f
  | .vabs f => .v 0x093 f
  | .vcmp f => .v 0x094 f
  | .vsel f => .v 0x095 f
  | .vclz f => .v 0x096 f
  | .vpopc f => .v 0x097 f
  | .vbfx f => .v 0x098 f
  | .vbfi f => .v 0x099 f
  | .vdot4 f => .v 0x09A f
  | .pset f => .v 0x09B f
  | .pand f => .v 0x09C f
  | .por f => .v 0x09D f
  | .pxor f => .v 0x09E f
  | .pnot f => .v 0x09F f
  | .vote f => .v 0x0A0 f
  | .fadd f => .v 0x0C0 f
  | .fsub f => .v 0x0C1 f
  | .fmul f => .v 0x0C2 f
  | .ffma f => .v 0x0C3 f
  | .fmin f => .v 0x0C4 f
  | .fmax f => .v 0x0C5 f
  | .fminn f => .v 0x0C6 f
  | .fmaxn f => .v 0x0C7 f
  | .fabs f => .v 0x0C8 f
  | .fneg f => .v 0x0C9 f
  | .fcpys f => .v 0x0CA f
  | .fcmp f => .v 0x0CB f
  | .fclass f => .v 0x0CC f
  | .frnd f => .v 0x0CD f
  | .fcvt f => .v 0x0CE f
  | .fcvti f => .v 0x0CF f
  | .icvtf f => .v 0x0D0 f
  | .fpack f => .v 0x0D1 f
  | .funpk f => .v 0x0D2 f
  | .fsca f => .v 0x0D3 f
  | .fdiv f => .v 0x100 f
  | .frcp f => .v 0x101 f
  | .fsqrt f => .v 0x102 f
  | .frsq f => .v 0x103 f
  | .fexp2 f => .v 0x104 f
  | .flog2 f => .v 0x105 f
  | .fsinp f => .v 0x106 f
  | .fcosp f => .v 0x107 f
  | .ftanh f => .v 0x108 f
  | .expq f => .v 0x109 f
  | .xget f => .v 0x10A f
  | .xput f => .v 0x10B f
  | .xbcast f => .v 0x10C f
  | .xscan f => .v 0x10D f
  | .xred f => .v 0x10E f
  | .xffs f => .v 0x10F f
  | .ld f => .m 0x120 f
  | .ldp f => .m 0x121 f
  | .st f => .m 0x122 f
  | .ldc f => .m 0x123 f
  | .sld f => .m 0x124 f
  | .sst f => .m 0x125 f
  | .gath f => .m 0x126 f
  | .gathp f => .m 0x127 f
  | .scat f => .m 0x128 f
  | .atom f => .m 0x129 f
  | .amaxr f => .m 0x12A f
  | .fence f => .m 0x12B f
  | .pfence f => .m 0x12C f
  | .wait f => .s 0x12D f
  | .qpush f => .e 0x12E f
  | .qpop f => .e 0x12F f
  | .spmap f => .e 0x130 f
  | .spwb f => .e 0x131 f
  | .spempty f => .m 0x132 f
  | .bankcfg f => .e 0x133 f
  | .pgreq f => .m 0x134 f
  | .cpy f => .e 0x160 f
  | .cpysel f => .e 0x161 f
  | .fbopen f => .e 0x162 f
  | .fbnext f => .e 0x163 f
  | .fbend f => .e 0x164 f
  | .fbclose f => .e 0x165 f
  | .dqpush f => .e 0x166 f
  | .dqpop f => .e 0x167 f
  | .dqsteal f => .e 0x168 f
  | .bndup f => .e 0x169 f
  | .bndrd f => .e 0x16A f
  | .rngt f => .e 0x16B f
  | .tnow f => .e 0x16C f
  | .stst f => .m 0x16D f
  | .ldas f => .m 0x16E f
  | .vacq f => .e 0x16F f
  | .vrel f => .e 0x170 f
  | .tsmov f => .t 0x180 f
  | .tsmovi f => .t 0x181 f
  | .tsadd f => .t 0x182 f
  | .tloop f => .t 0x183 f
  | .tbra f => .t 0x184 f
  | .tarr f => .t 0x185 f
  | .twait f => .t 0x186 f
  | .tfmt f => .t 0x187 f
  | .tnorm f => .t 0x188 f
  | .mma f => .t 0x189 f
  | .mmac f => .t 0x18A f
  | .mmk f => .t 0x18B f
  | .wlinit f => .t 0x18C f
  | .wlflr f => .t 0x18D f
  | .wlst f => .t 0x18E f
  | .wlmrg f => .t 0x18F f
  | .tend f => .t 0x190 f
  | .aqpop f => .v 0x1A0 f
  | .wlrd f => .v 0x1A1 f
  | .nlbin f => .e 0x1C0 f
  | .nlsweep f => .e 0x1C1 f
  | .nlstat f => .e 0x1C2 f
  | .kvx f => .e 0x1C3 f
  | .kvins f => .e 0x1C4 f
  | .kvref f => .e 0x1C5 f
  | .pfxh f => .e 0x1C6 f
  | .pfxl f => .e 0x1C7 f
  | .pfxi f => .e 0x1C8 f
  | .coll f => .e 0x1C9 f
  | .collw f => .e 0x1CA f
  | .groupFetch _ => .step
  | .contextFetch _ => .step
  | .yieldDependenceEnd _ => .step
  | .groupExchange _ _ => .step
  | .forcedExchange _ _ => .step
  | .operationRetire _ _ => .step
  | .fifoThreadServed _ => .step
  | .mapFill _ _ => .step
  | .gatherBatchClose _ => .step
  | .gatherReply _ _ => .step
  | .atomicAtHome _ _ => .step
  | .bankSwitch _ _ => .step
  | .copyComplete _ _ => .step
  | .cpyselRow _ _ => .step
  | .dequeStep _ _ => .step
  | .boundUnitUpdate _ _ _ => .step
  | .randomRefill _ _ => .step
  | .replayTicket _ _ => .step
  | .ststPrepare _ => .step
  | .ststConfirm _ => .step
  | .stampedCommit _ => .step
  | .ldasAnswer _ _ => .step
  | .matrixCommit _ => .step
  | .mmacTagStep _ => .step
  | .mmacLineApply _ _ => .step
  | .nlbinComplete _ _ => .step
  | .nlsweepCellVisit _ _ _ => .step
  | .nlsweepEnd _ _ => .step
  | .kvStep _ _ => .step
  | .prefixStep _ _ => .step
  | .collContribution _ _ => .step
  | .collCompletion _ _ => .step
  | .vrelHandoff _ _ => .step
  | .requestRecordPost _ => .step
  | .moveRequestDecision _ => .step
  | .pageMove _ => .step
  | .hostQueueTake _ _ => .step
  | .blockPlace _ _ => .step
  | .launchEnd _ => .step
  | .ageBoost _ => .step
  | .distributorPreemptRequest _ => .step
  | .coreGate _ => .step
  | .coreWake _ => .step
  | .leaseGrant _ => .step
  | .blockTake _ => .step
  | .preemptTimeout _ => .step
  | .blockRestore _ _ => .step
  | .blockAbort _ => .step
  | .faultRecordPost _ => .step
  | .doorbellWrite _ _ => .step
  | .inval _ => .step
  | .give _ => .step
  | .take _ => .step
  | .resolve _ => .step
  | .move _ => .step
  | .frames _ => .step
  | .refuse _ => .step
  | .resume _ => .step
  | .abort _ => .step
  | .preempt _ => .step
  | .withdraw _ => .step
  | .savearea _ => .step
  | .replay _ => .step
  | .fwCtx _ => .step
  | .fwDestroy _ => .step
  | .fwLog _ => .step
  | .fwAttest _ _ => .step
  | .fwQcfg _ => .step
  | .fwScrub _ => .step
  | .fwDebug _ _ _ => .step
  | .fwPeers _ => .step
  | .fwAper _ => .step
  | .fwBound => .step
  | .apertureAccess _ _ => .step
  | .unlistedWindowWrite _ _ _ => .step
  | .debugReadback _ _ => .step
  | .qstatRead _ => .step
  | .quartzProbe _ _ => .step
  | .quartzSample _ _ _ => .step
  | .ptmReading _ => .step
  | .quartzFree _ => .step
  | .quartzWide _ => .step
  | .uncorrectableError _ => .step
  | .linkRetry _ => .step
  | .linkDown _ => .step
  | .fatalError _ _ => .step
  | .scrubPass _ _ => .step
  | .l2Sweep _ _ => .step
  | .coreRetire _ => .step
  | .thermalStateChange _ => .step
  | .moduleReset _ _ _ => .step
  | .correctedError _ _ => .step
  | .peerAccess _ _ => .step
  | .peerProbe _ => .step
  | .mboxWrite _ => .step

/-- The opcode of an instruction (R54); none for a step of the machine. -/
def Instr.opcode? (i : Instr) : Option Nat :=
  match i.view with
  | .v o _ => some o
  | .s o _ => some o
  | .m o _ => some o
  | .b o _ => some o
  | .t o _ => some o
  | .e o _ => some o
  | .step => none

/-- The opcode map (R54), from opcode to instruction; none for an unassigned opcode (R55). -/
def instrOfOpcode (opc : Nat) (w : IWord) : Option Instr :=
  match opc with
  | 0x000 => some (.nop (VFmt.ofWord w))
  | 0x001 => some (.bra (BFmt.ofWord w))
  | 0x002 => some (.bru (BFmt.ofWord w))
  | 0x003 => some (.brx (BFmt.ofWord w))
  | 0x004 => some (.call (BFmt.ofWord w))
  | 0x005 => some (.ret (BFmt.ofWord w))
  | 0x006 => some (.conv (SFmt.ofWord w))
  | 0x007 => some (.yield (VFmt.ofWord w))
  | 0x008 => some (.exit (VFmt.ofWord w))
  | 0x009 => some (.bar (SFmt.ofWord w))
  | 0x00A => some (.bara (SFmt.ofWord w))
  | 0x00B => some (.barw (SFmt.ofWord w))
  | 0x00C => some (.safe (VFmt.ofWord w))
  | 0x00D => some (.trap (SFmt.ofWord w))
  | 0x00E => some (.bkpt (SFmt.ofWord w))
  | 0x00F => some (.getsr (VFmt.ofWord w))
  | 0x010 => some (.setsr (VFmt.ofWord w))
  | 0x011 => some (.launch (EFmt.ofWord w))
  | 0x040 => some (.smov (SFmt.ofWord w))
  | 0x041 => some (.smovi (SFmt.ofWord w))
  | 0x042 => some (.smovh (SFmt.ofWord w))
  | 0x043 => some (.sadd (SFmt.ofWord w))
  | 0x044 => some (.saddi (SFmt.ofWord w))
  | 0x045 => some (.ssub (SFmt.ofWord w))
  | 0x046 => some (.smul (SFmt.ofWord w))
  | 0x047 => some (.smulh (SFmt.ofWord w))
  | 0x048 => some (.sdiv (SFmt.ofWord w))
  | 0x049 => some (.srem (SFmt.ofWord w))
  | 0x04A => some (.sand (SFmt.ofWord w))
  | 0x04B => some (.sor (SFmt.ofWord w))
  | 0x04C => some (.sxor (SFmt.ofWord w))
  | 0x04D => some (.sshl (SFmt.ofWord w))
  | 0x04E => some (.sshr (SFmt.ofWord w))
  | 0x04F => some (.ssra (SFmt.ofWord w))
  | 0x050 => some (.smin (SFmt.ofWord w))
  | 0x051 => some (.smax (SFmt.ofWord w))
  | 0x052 => some (.scmp (SFmt.ofWord w))
  | 0x053 => some (.ssel (SFmt.ofWord w))
  | 0x054 => some (.sclz (SFmt.ofWord w))
  | 0x055 => some (.spopc (SFmt.ofWord w))
  | 0x056 => some (.sbfx (SFmt.ofWord w))
  | 0x057 => some (.sbfi (SFmt.ofWord w))
  | 0x080 => some (.vmov (VFmt.ofWord w))
  | 0x081 => some (.vmovi (VFmt.ofWord w))
  | 0x082 => some (.vmovs (VFmt.ofWord w))
  | 0x083 => some (.vadd (VFmt.ofWord w))
  | 0x084 => some (.vsub (VFmt.ofWord w))
  | 0x085 => some (.vmul (VFmt.ofWord w))
  | 0x086 => some (.vmulh (VFmt.ofWord w))
  | 0x087 => some (.vmad (VFmt.ofWord w))
  | 0x088 => some (.vdiv (VFmt.ofWord w))
  | 0x089 => some (.vrem (VFmt.ofWord w))
  | 0x08A => some (.vand (VFmt.ofWord w))
  | 0x08B => some (.vor (VFmt.ofWord w))
  | 0x08C => some (.vxor (VFmt.ofWord w))
  | 0x08D => some (.vnot (VFmt.ofWord w))
  | 0x08E => some (.vshl (VFmt.ofWord w))
  | 0x08F => some (.vshr (VFmt.ofWord w))
  | 0x090 => some (.vsra (VFmt.ofWord w))
  | 0x091 => some (.vmin (VFmt.ofWord w))
  | 0x092 => some (.vmax (VFmt.ofWord w))
  | 0x093 => some (.vabs (VFmt.ofWord w))
  | 0x094 => some (.vcmp (VFmt.ofWord w))
  | 0x095 => some (.vsel (VFmt.ofWord w))
  | 0x096 => some (.vclz (VFmt.ofWord w))
  | 0x097 => some (.vpopc (VFmt.ofWord w))
  | 0x098 => some (.vbfx (VFmt.ofWord w))
  | 0x099 => some (.vbfi (VFmt.ofWord w))
  | 0x09A => some (.vdot4 (VFmt.ofWord w))
  | 0x09B => some (.pset (VFmt.ofWord w))
  | 0x09C => some (.pand (VFmt.ofWord w))
  | 0x09D => some (.por (VFmt.ofWord w))
  | 0x09E => some (.pxor (VFmt.ofWord w))
  | 0x09F => some (.pnot (VFmt.ofWord w))
  | 0x0A0 => some (.vote (VFmt.ofWord w))
  | 0x0C0 => some (.fadd (VFmt.ofWord w))
  | 0x0C1 => some (.fsub (VFmt.ofWord w))
  | 0x0C2 => some (.fmul (VFmt.ofWord w))
  | 0x0C3 => some (.ffma (VFmt.ofWord w))
  | 0x0C4 => some (.fmin (VFmt.ofWord w))
  | 0x0C5 => some (.fmax (VFmt.ofWord w))
  | 0x0C6 => some (.fminn (VFmt.ofWord w))
  | 0x0C7 => some (.fmaxn (VFmt.ofWord w))
  | 0x0C8 => some (.fabs (VFmt.ofWord w))
  | 0x0C9 => some (.fneg (VFmt.ofWord w))
  | 0x0CA => some (.fcpys (VFmt.ofWord w))
  | 0x0CB => some (.fcmp (VFmt.ofWord w))
  | 0x0CC => some (.fclass (VFmt.ofWord w))
  | 0x0CD => some (.frnd (VFmt.ofWord w))
  | 0x0CE => some (.fcvt (VFmt.ofWord w))
  | 0x0CF => some (.fcvti (VFmt.ofWord w))
  | 0x0D0 => some (.icvtf (VFmt.ofWord w))
  | 0x0D1 => some (.fpack (VFmt.ofWord w))
  | 0x0D2 => some (.funpk (VFmt.ofWord w))
  | 0x0D3 => some (.fsca (VFmt.ofWord w))
  | 0x100 => some (.fdiv (VFmt.ofWord w))
  | 0x101 => some (.frcp (VFmt.ofWord w))
  | 0x102 => some (.fsqrt (VFmt.ofWord w))
  | 0x103 => some (.frsq (VFmt.ofWord w))
  | 0x104 => some (.fexp2 (VFmt.ofWord w))
  | 0x105 => some (.flog2 (VFmt.ofWord w))
  | 0x106 => some (.fsinp (VFmt.ofWord w))
  | 0x107 => some (.fcosp (VFmt.ofWord w))
  | 0x108 => some (.ftanh (VFmt.ofWord w))
  | 0x109 => some (.expq (VFmt.ofWord w))
  | 0x10A => some (.xget (VFmt.ofWord w))
  | 0x10B => some (.xput (VFmt.ofWord w))
  | 0x10C => some (.xbcast (VFmt.ofWord w))
  | 0x10D => some (.xscan (VFmt.ofWord w))
  | 0x10E => some (.xred (VFmt.ofWord w))
  | 0x10F => some (.xffs (VFmt.ofWord w))
  | 0x120 => some (.ld (MFmt.ofWord w))
  | 0x121 => some (.ldp (MFmt.ofWord w))
  | 0x122 => some (.st (MFmt.ofWord w))
  | 0x123 => some (.ldc (MFmt.ofWord w))
  | 0x124 => some (.sld (MFmt.ofWord w))
  | 0x125 => some (.sst (MFmt.ofWord w))
  | 0x126 => some (.gath (MFmt.ofWord w))
  | 0x127 => some (.gathp (MFmt.ofWord w))
  | 0x128 => some (.scat (MFmt.ofWord w))
  | 0x129 => some (.atom (MFmt.ofWord w))
  | 0x12A => some (.amaxr (MFmt.ofWord w))
  | 0x12B => some (.fence (MFmt.ofWord w))
  | 0x12C => some (.pfence (MFmt.ofWord w))
  | 0x12D => some (.wait (SFmt.ofWord w))
  | 0x12E => some (.qpush (EFmt.ofWord w))
  | 0x12F => some (.qpop (EFmt.ofWord w))
  | 0x130 => some (.spmap (EFmt.ofWord w))
  | 0x131 => some (.spwb (EFmt.ofWord w))
  | 0x132 => some (.spempty (MFmt.ofWord w))
  | 0x133 => some (.bankcfg (EFmt.ofWord w))
  | 0x134 => some (.pgreq (MFmt.ofWord w))
  | 0x160 => some (.cpy (EFmt.ofWord w))
  | 0x161 => some (.cpysel (EFmt.ofWord w))
  | 0x162 => some (.fbopen (EFmt.ofWord w))
  | 0x163 => some (.fbnext (EFmt.ofWord w))
  | 0x164 => some (.fbend (EFmt.ofWord w))
  | 0x165 => some (.fbclose (EFmt.ofWord w))
  | 0x166 => some (.dqpush (EFmt.ofWord w))
  | 0x167 => some (.dqpop (EFmt.ofWord w))
  | 0x168 => some (.dqsteal (EFmt.ofWord w))
  | 0x169 => some (.bndup (EFmt.ofWord w))
  | 0x16A => some (.bndrd (EFmt.ofWord w))
  | 0x16B => some (.rngt (EFmt.ofWord w))
  | 0x16C => some (.tnow (EFmt.ofWord w))
  | 0x16D => some (.stst (MFmt.ofWord w))
  | 0x16E => some (.ldas (MFmt.ofWord w))
  | 0x16F => some (.vacq (EFmt.ofWord w))
  | 0x170 => some (.vrel (EFmt.ofWord w))
  | 0x180 => some (.tsmov (TFmt.ofWord w))
  | 0x181 => some (.tsmovi (TFmt.ofWord w))
  | 0x182 => some (.tsadd (TFmt.ofWord w))
  | 0x183 => some (.tloop (TFmt.ofWord w))
  | 0x184 => some (.tbra (TFmt.ofWord w))
  | 0x185 => some (.tarr (TFmt.ofWord w))
  | 0x186 => some (.twait (TFmt.ofWord w))
  | 0x187 => some (.tfmt (TFmt.ofWord w))
  | 0x188 => some (.tnorm (TFmt.ofWord w))
  | 0x189 => some (.mma (TFmt.ofWord w))
  | 0x18A => some (.mmac (TFmt.ofWord w))
  | 0x18B => some (.mmk (TFmt.ofWord w))
  | 0x18C => some (.wlinit (TFmt.ofWord w))
  | 0x18D => some (.wlflr (TFmt.ofWord w))
  | 0x18E => some (.wlst (TFmt.ofWord w))
  | 0x18F => some (.wlmrg (TFmt.ofWord w))
  | 0x190 => some (.tend (TFmt.ofWord w))
  | 0x1A0 => some (.aqpop (VFmt.ofWord w))
  | 0x1A1 => some (.wlrd (VFmt.ofWord w))
  | 0x1C0 => some (.nlbin (EFmt.ofWord w))
  | 0x1C1 => some (.nlsweep (EFmt.ofWord w))
  | 0x1C2 => some (.nlstat (EFmt.ofWord w))
  | 0x1C3 => some (.kvx (EFmt.ofWord w))
  | 0x1C4 => some (.kvins (EFmt.ofWord w))
  | 0x1C5 => some (.kvref (EFmt.ofWord w))
  | 0x1C6 => some (.pfxh (EFmt.ofWord w))
  | 0x1C7 => some (.pfxl (EFmt.ofWord w))
  | 0x1C8 => some (.pfxi (EFmt.ofWord w))
  | 0x1C9 => some (.coll (EFmt.ofWord w))
  | 0x1CA => some (.collw (EFmt.ofWord w))
  | _ => none

/-! ### Entry checks: checks 3, 4 and 5 of R53 -/

/-- The narrow format code FSEL names a prebuilt format (R51, R74). -/
def fselOk (c : BitVec 3) : Bool := c.toNat ≤ 4
/-- Bits per stored unit of a prebuilt narrow format: a nibble for e2m1, a byte for the others (R75, R135). -/
def fselUnit (c : BitVec 3) : Nat := if c == 4 then 4 else 8

namespace VFmt
/-- Width of TYPE. -/
def w (f : VFmt) : Nat := (typeWidth? f.type).getD 64
/-- Width of TYPE2. -/
def w2 (f : VFmt) : Nat := (typeWidth? f.type2).getD 64
/-- U = 0 and XA zero. -/
def perThread (f : VFmt) : Bool := !f.g.u && f.xa == 0
/-- IMM32 keeps the bits zero that R46 asks to be zero. -/
def immOk (f : VFmt) : Bool :=
  match f.src with
  | .imm v => if f.type == 8 || f.type == 9 then v.toNat < 2 ^ 16 else true
  | .regs .. => true
/-- The shapes of R111 over D, A and B, or over D and A where an immediate stands for B. -/
def shapeB (f : VFmt) : Bool := shapeOk ([(f.w, f.selD), (f.w, f.selA)] ++ if f.isVI then [] else [(f.w, f.selB)])
/-- `shapeB`, with SELB zero beside an immediate. -/
def shapeDAB (f : VFmt) : Bool := (!f.isVI || f.selB == 0) && f.shapeB
/-- The shapes of R111 over D and A, with SELB zero. -/
def shapeDA (f : VFmt) : Bool := f.selB == 0 && shapeOk [(f.w, f.selD), (f.w, f.selA)]
/-- The shapes of R111 over D, A, B and C. -/
def shapeDABC (f : VFmt) : Bool := shapeOk [(f.w, f.selD), (f.w, f.selA), (f.w, f.selB), (f.w, f.selC)]
/-- The integer encoding rules of R110. -/
def intCommon (f : VFmt) : Bool := isIntType f.type && f.type2 == f.type && f.rm == 0 && f.subop == 0 && f.perThread
/-- A two-source integer operation (R112). -/
def int2 (sat : Bool) (f : VFmt) : Bool :=
  f.intCommon && (sat || !f.sat) && f.c == 0 && f.selC == 0 && f.shapeDAB
/-- A one-source integer operation (R113). -/
def int1 (sat : Bool) (f : VFmt) : Bool := !f.isVI && f.intCommon && (sat || !f.sat) && f.noB && f.shapeDA
/-- A floating element operation: TYPE = TYPE2 floating, U and XA zero (R126). -/
def fltCommon (f : VFmt) : Bool := isFloatType f.type && f.type2 == f.type && f.perThread
/-- A two-source floating operation (R128, R129). -/
def flt2 (round : Bool) (f : VFmt) : Bool :=
  f.fltCommon && f.subop == 0 && (round || (f.rm == 0 && !f.sat)) && f.c == 0 && f.selC == 0 && f.immOk && f.shapeDAB
/-- A one-source floating operation with a mode, and `.sat` where allowed (R137). -/
def flt1 (sat : Bool) (f : VFmt) : Bool :=
  !f.isVI && f.fltCommon && f.subop == 0 && (sat || !f.sat) && f.noB && f.shapeDA
/-- The moves: any element type, nothing else (R114). -/
def moveCommon (f : VFmt) : Bool := isElemType f.type && f.type2 == f.type && f.plain && f.perThread
/-- A conversion: single at each side's own width, or packed at equal widths (R134). RM may name any mode where no rounding can occur
too, which R134 does not state (DESIGN CHOICE, log entry 81). -/
def convShape (f : VFmt) : Bool :=
  !f.isVI && f.perThread && f.subop == 0 && f.noB && f.selB == 0 &&
    ((selSingle f.w f.selD && selSingle f.w2 f.selA) || (f.w == f.w2 && f.selD == 15 && f.selA == 15))
/-- A compare into a predicate: D a P register, SELD equal to SELA (R115, R131). -/
def cmpShape (f : VFmt) : Bool :=
  f.perThread && f.rm == 0 && !f.sat && pField f.d && f.selD == f.selA && f.c == 0 && f.selC == 0 && f.immOk &&
    (if f.isVI then f.selB == 0 && shapeOk [(f.w, f.selA)] else shapeOk [(f.w, f.selA), (f.w, f.selB)])
/-- The lane operand of XGET and XPUT (R139). -/
def laneOk (f : VFmt) : Bool :=
  if f.xa.getLsbD 5 then f.xa.toNat == 32 else f.b == 0
/-- XGET and XPUT beside C (R138, R139). -/
def crossMove (f : VFmt) : Bool :=
  !f.isVI && !f.g.u && isElemType f.type && f.type2 == f.type && f.rm == 0 && !f.sat && f.subop.toNat ≤ 3 &&
    f.laneOk && f.selC == 0 && f.selB == 0 && selSingle f.w f.selD && selSingle f.w f.selA
/-- XSCAN and XRED: operator columns of R143, RM and `.sat` only where allowed. -/
def scanCommon (f : VFmt) : Bool :=
  !f.isVI && !f.g.u && isElemType f.type && f.type2 == f.type && f.b == 0 && f.c == 0 && f.selC == 0 &&
    (if isIntType f.type then f.subop.toNat ≤ 5 else f.subop.toNat ≤ 2 || 6 ≤ f.subop.toNat) &&
    (f.rm == 0 || (isFloatType f.type && f.subop == 0)) && (!f.sat || f.subop == 0) && f.xa.toNat ≤ 1 && f.shapeDA
end VFmt

namespace SFmt
/-- A two-source scalar operation (R121, R122). -/
def two (sat imm : Bool) (f : SFmt) : Bool :=
  f.scalar && f.sx == 0 && f.subop == 0 && (sat || !f.sat) &&
    (if f.immSel then imm && f.sb == 0 else f.imm == 0)
/-- A one-source scalar operation (R122). -/
def one (f : SFmt) : Bool := f.scalar && f.sx == 0 && f.subop == 0 && !f.sat && !f.immSel && f.sb == 0 && f.imm == 0
/-- A scalar operation whose IMM32 is implied (R122). -/
def implied (sat : Bool) (f : SFmt) : Bool := f.scalar && f.sx == 0 && f.subop == 0 && (sat || !f.sat) && !f.immSel
/-- The types of the bit-field instructions (R117). -/
def bitField (f : SFmt) : Bool := f.type == 2 || f.type == 3 || f.type == 6 || f.type == 7
/-- BAR, BARA and BARW (R102). -/
def barrier (f : SFmt) : Bool :=
  f.g.u && f.g.always && f.sd == 0 && f.sb == 0 && f.type == 0 && f.highZero &&
    (if f.subop == 0 then f.sa == 0 && f.imm.toNat < 256 else f.subop == 1 && f.imm == 0)
/-- TRAP and BKPT (R106). -/
def trap (f : SFmt) : Bool :=
  !f.g.u && f.sd == 0 && f.sa == 0 && f.sb == 0 && f.subop == 0 && f.type == 0 && f.highZero
end SFmt

namespace BFmt
/-- Every field but OFF32 and VX zero. -/
def plain (f : BFmt) : Bool := f.tbl == 0 && f.sx == 0 && f.cond == 0 && f.rsv == 0
end BFmt

namespace MFmt
/-- TAKE, FP, SUBOP and bits 34:26 zero. -/
def noExtra (f : MFmt) : Bool := !f.take && f.fp == 0 && f.subop == 0 && f.ext == 0
/-- Orders of loads: .rlx, .acq, .sc (R154). -/
def loadOrder (f : MFmt) : Bool := f.order == 0 || f.order == 1 || f.order == 4
/-- Orders of stores: .rlx, .rel, .sc (R154). -/
def storeOrder (f : MFmt) : Bool := f.order == 0 || f.order == 2 || f.order == 4
/-- `.take` on path .sp only (R153). -/
def takeOk (f : MFmt) : Bool := !f.take || f.path == 3
/-- `.fill` (SUBOP 0001) on path .sp only (R154). -/
def fillOk (f : MFmt) : Bool := f.subop == 0 || (f.subop == 1 && f.path == 3)
/-- A type of 32 or 64 bits (R160, R162). -/
def wide (f : MFmt) : Bool := f.type == 2 || f.type == 3 || f.type == 6 || f.type == 7 || f.type == 10 || f.type == 11
/-- The operator's type column (R160). -/
def atomType (f : MFmt) : Bool :=
  match f.subop.toNat with
  | 0 | 1 | 2 | 6 | 7 => f.wide
  | 3 | 4 | 5 => f.type == 6 || f.type == 7
  | 8 => f.type == 9
  | _ => false
/-- The element of an atomic: `.addbf2` takes a `.w` element (R160). -/
def atomSel (f : MFmt) : Bool :=
  if f.subop == 8 then f.selD == 15 || selSingle 32 f.selD else f.selOk
/-- The stamp register field of STST and LDAS with bits 27:26 zero (R183, R184). -/
def stampOk (f : MFmt) : Bool := f.ext.toNat % 4 == 0
/-- DATA, ADDR, OFF24, TYPE, SELD and SADDR zero (R163, R164). -/
def noOperand (f : MFmt) : Bool :=
  f.data == 0 && f.addr == 0 && f.off == 0 && f.type == 0 && f.selD == 0 && !f.saddr && !f.take && f.fp == 0 && f.subop == 0
end MFmt

namespace EFmt
/-- SB and SC zero. -/
def noBC (f : EFmt) : Bool := f.sb == 0 && f.sc == 0
/-- TYPE, ORDER and SCOPE zero. -/
def noMod (f : EFmt) : Bool := f.type == 0 && f.order == 0 && f.scope == 0
/-- A flag predicate P0 to P14 (R44). -/
def flagOk (f : EFmt) : Bool := f.pf != 15
/-- A table instruction: S*a*, V*x*, flag, order and scope (R179, R216, R221). -/
def table (f : EFmt) : Bool :=
  !f.g.u && f.sd == 0 && f.noBC && f.flagOk && f.imm == 0 && f.order.toNat ≤ 3 && f.scopeOk
/-- QPUSH and QPOP (R166). -/
def queue (f : EFmt) : Bool :=
  !f.g.u && f.sd == 0 && f.sa == 0 && f.noBC && f.noMod && f.imm.toNat < 32 &&
    (f.ext == 0 && f.pf == 0 || f.ext == 1 && f.flagOk)
/-- VACQ and VREL (R185). -/
def handoff (f : EFmt) : Bool :=
  f.g.u && f.sc == 0 && f.vx == 0 && f.pf == 0 && f.imm == 0 && f.ext == 0 && f.type == 0 && f.order == 0 && f.scopeUnused
end EFmt

namespace TFmt
/-- PRED = 15, NEG = 0 and U = 0 (R187). -/
def head (f : TFmt) : Bool := !f.g.u && f.g.always
/-- Fields TB, TC, WN, FA, FB zero. -/
def noRest (f : TFmt) : Bool := f.tb == 0 && f.tc == 0 && f.wn == 0 && f.fa == 0 && f.fb == 0
/-- A matrix type, with FA and FB zero unless it is narrow (R189, R195). -/
def matrixType (f : TFmt) : Bool :=
  (f.type == 8 || f.type == 9) && f.fa == 0 && f.fb == 0 || f.type == 12
/-- TYPE is a matrix type (R189). -/
def tileType (f : TFmt) : Bool := f.type == 8 || f.type == 9 || f.type == 12
/-- MOD fields ADVA, ADVB and GA, with GA and ADVA not both set (R189). -/
def advGa (f : TFmt) : Bool := !(f.mod.getLsbD 4 && f.mod.getLsbD 0)
/-- A descriptor of three T registers (R193). -/
def desc (r : BitVec 5) : Bool := r.toNat ≤ 29
end TFmt

/-- The entry checks of one instruction: every code defined, the type, rounding, saturation, order, scope, path and U
bit allowed, every unused field zero (checks 3, 4 and 5 of R53). -/
def Instr.wf : Instr → Bool
  | .nop f => f.allZero
  | .yield f | .exit f | .safe f => f.allZero && !f.g.u
  | .bra f => !f.g.u && f.vx == 0 && f.plain
  | .bru f => f.g.u && f.vx == 0 && f.tbl == 0 && f.cond.toNat ≤ 5 && f.rsv == 0
  | .brx f => !f.g.u && f.off == 0 && f.sx == 0 && f.cond == 0 && f.rsv == 0
  | .call f => !f.g.u && f.plain
  | .ret f => !f.g.u && f.off == 0 && f.plain
  | .conv f =>
    !f.g.u && f.sd == 0 && f.sb == 0 && f.type == 0 && f.highZero &&
      (if f.subop == 0 then f.sa == 0 else f.subop == 1 && f.imm == 0)
  | .bar f | .bara f | .barw f => f.barrier
  | .trap f | .bkpt f => f.trap
  | .getsr f =>
    f.modZero && f.c == 0 && f.b == 0 && (!f.g.u || sField f.d) &&
      (if f.isVI then f.a == 0 && f.imm.toNat ≤ 0x10 else sField f.a)
  | .setsr f =>
    f.g.u && f.modZero && f.c == 0 && f.b == 0 && f.d.toNat ≤ 0x10 && (if f.isVI then f.a == 0 else sField f.a)
  | .launch f =>
    f.g.u && f.noBC && f.vx == 0 && f.pf == 0 && f.noMod && f.ext == 0 && f.imm.toNat < 8
  | .smov f => f.one
  | .smovi f => f.implied false && f.sa == 0 && f.sb == 0
  | .smovh f => f.implied false && f.type == 0 && f.sa == 0 && f.sb == 0
  | .sadd f => f.two true false
  | .saddi f => f.implied true && f.sb == 0
  | .ssub f | .smul f | .sdiv f => f.two true true
  | .smulh f | .srem f | .sand f | .sor f | .sxor f | .sshl f | .sshr f | .ssra f | .smin f | .smax f => f.two false true
  | .scmp f =>
    f.scalar && f.sx == 0 && f.subop.toNat ≤ 5 && !f.sat && (if f.immSel then f.sb == 0 else f.imm == 0)
  | .ssel f => f.scalar && f.subop == 0 && !f.sat && !f.immSel && f.imm == 0
  | .sclz f | .spopc f => f.one
  | .sbfx f => f.implied false && f.bitField && f.sb == 0
  | .sbfi f => f.implied false && f.bitField
  | .vmov f => !f.isVI && f.moveCommon && f.noB && f.shapeDA
  | .vmovi f => f.isVI && f.moveCommon && f.a == 0 && f.selA == 0 && f.selB == 0 && f.immOk && shapeOk [(f.w, f.selD)]
  | .vmovs f => !f.isVI && f.moveCommon && f.noB && sField f.a && f.shapeDA
  | .vadd f | .vsub f | .vmul f | .vdiv f => f.int2 true
  | .vmulh f | .vrem f | .vand f | .vor f | .vxor f | .vshl f | .vshr f | .vsra f | .vmin f | .vmax f => f.int2 false
  | .vmad f => !f.isVI && f.intCommon && f.shapeDABC
  | .vnot f | .vclz f | .vpopc f => f.int1 false
  | .vabs f => f.int1 true
  | .vcmp f => isIntType f.type && f.type2 == f.type && f.subop.toNat ≤ 5 && f.cmpShape
  | .vsel f => !f.isVI && f.moveCommon && pField f.c && f.selC == 0 && f.shapeDAB
  | .vbfx f =>
    !f.isVI && f.intCommon && !f.sat && (f.w == 32 || f.w == 64) && f.c == 0 && f.selC == 0 && f.shapeDAB
  | .vbfi f => !f.isVI && f.intCommon && !f.sat && (f.w == 32 || f.w == 64) && f.shapeDABC
  | .vdot4 f =>
    !f.isVI && f.perThread && f.rm == 0 && f.subop == 0 &&
      (f.type == 2 && f.type2 == 0 || f.type == 6 && f.type2 == 4) && f.shapeDABC
  | .pset f =>
    !f.g.u && f.modZero && f.b == 0 && f.c == 0 && pField f.d &&
      (if f.isVI then f.a == 0 && f.imm.toNat < 256 else true)
  | .pand f | .por f | .pxor f =>
    !f.isVI && !f.g.u && f.modZero && f.c == 0 && pField f.d && pField f.a && pField f.b
  | .pnot f => !f.isVI && !f.g.u && f.modZero && f.c == 0 && f.b == 0 && pField f.d && pField f.a
  | .vote f =>
    !f.isVI && f.perThread && f.subop.toNat ≤ 3 && f.rm == 0 && !f.sat && f.type == 0 && f.type2 == 0 && f.selA == 0 &&
      f.selB == 0 && f.selC == 0 && f.selD == 0 && f.b == 0 && f.c == 0 && pField f.a && (f.subop == 3 || pField f.d)
  | .fadd f | .fsub f | .fmul f | .fdiv f => f.flt2 true
  | .ffma f => !f.isVI && f.fltCommon && f.subop == 0 && f.shapeDABC
  | .fmin f | .fmax f | .fminn f | .fmaxn f => f.flt2 false
  | .fabs f | .fneg f | .fclass f => f.flt1 false && f.rm == 0
  | .fcpys f => !f.isVI && f.flt2 false
  | .fcmp f => isFloatType f.type && f.type2 == f.type && f.cmpShape
  | .frnd f => !f.isVI && f.fltCommon && f.subop.toNat ≤ 1 && !f.sat && f.noB && f.shapeDA
  | .fcvt f => isFloatType f.type && isFloatType f.type2 && f.convShape
  | .fcvti f => isIntType f.type && isFloatType f.type2 && f.convShape
  | .icvtf f => isFloatType f.type && isIntType f.type2 && f.convShape
  | .fpack f =>
    !f.isVI && f.perThread && f.type == 12 && fselOk f.subop && isFloatType f.type2 && f.noB && f.selB == 0 &&
      f.selA == 15 && f.selD.toNat < f.w2 / fselUnit f.subop
  | .funpk f =>
    !f.isVI && f.perThread && f.type2 == 12 && fselOk f.subop && isFloatType f.type && f.noB && f.selB == 0 &&
      f.selD == 15 && f.rm == 0 && !f.sat && f.selA.toNat < f.w / fselUnit f.subop
  | .expq f =>
    !f.isVI && f.perThread && f.type == 12 && f.subop == 0 && (f.type2 == 8 || f.type2 == 9 || f.type2 == 10) &&
      f.noB && f.selB == 0 && f.selA == 15 && f.rm == 0 && !f.sat && f.selD.toNat < f.w2 / 8
  | .fsca f =>
    !f.isVI && f.perThread && f.type == 10 && f.type2 == 10 &&
      (if f.subop == 0 then f.shapeDABC else f.subop == 1 && f.c == 0 && f.selC == 0 && f.shapeDAB)
  | .frcp f | .frsq f | .fexp2 f => f.flt1 true
  | .fsqrt f | .flog2 f | .fsinp f | .fcosp f | .ftanh f => f.flt1 false
  | .xget f => f.crossMove && f.c == 0
  | .xput f => f.crossMove && pField f.c
  | .xbcast f =>
    !f.isVI && !f.g.u && isElemType f.type && f.type2 == f.type && f.rm == 0 && !f.sat && f.b == 0 && f.c == 0 &&
      f.selC == 0 && f.selB == 0 && (f.subop == 0 || f.subop == 1 && sField f.d) &&
      (!f.xa.getLsbD 5 || f.xa.toNat == 32) && selSingle f.w f.selD && selSingle f.w f.selA
  | .xscan f => f.scanCommon
  | .xred f => f.scanCommon && (f.xa == 0 || sField f.d)
  | .xffs f =>
    !f.isVI && !f.g.u && f.type == 7 && f.type2 == 7 && f.rm == 0 && !f.sat && f.subop.toNat ≤ 2 && f.selD == 15 &&
      f.selA == 0 && f.selB == 0 && f.selC == 0 && f.b == 0 && f.c == 0 && pField f.a && f.xa.toNat ≤ 1 &&
      (f.xa == 0 || sField f.d)
  | .ld f =>
    !f.g.u && f.selOk && f.loadOrder && f.scopeOk && f.takeOk && f.subop == 0 && f.fp == 0 && f.ext == 0 && f.addrOk
  | .ldp f =>
    !f.g.u && f.selOk && f.order == 0 && f.scopeUnused && f.path == 0 && !f.take && f.subop == 0 && f.fp != 15 &&
      f.ext == 0 && f.addrOk
  | .st f =>
    !f.g.u && f.selOk && f.storeOrder && f.scopeOk && f.path != 1 && !f.take && f.fillOk && f.fp == 0 && f.ext == 0 &&
      f.addrOk
  | .ldc f =>
    !f.g.u && f.selOk && f.order == 0 && f.scopeUnused && f.path == 1 && f.noExtra && f.addrOk
  | .sld f =>
    f.g.u && f.selOk && f.loadOrder && f.scopeOk && f.path != 2 && f.takeOk && f.subop == 0 && f.fp == 0 && f.ext == 0 &&
      f.saddr && f.addrOk && sField f.data
  | .sst f =>
    f.g.u && f.selOk && f.storeOrder && f.scopeOk && (f.path == 0 || f.path == 3) && !f.take && f.fillOk && f.fp == 0 &&
      f.ext == 0 && f.saddr && f.addrOk && sField f.data
  | .gath f =>
    !f.g.u && f.selOk && f.order == 0 && f.scopeUnused && (f.path == 0 || f.path == 3) && f.takeOk && f.subop == 0 &&
      f.fp == 0 && !f.saddr
  | .gathp f =>
    !f.g.u && f.selOk && f.order == 0 && f.scopeUnused && f.path == 0 && !f.take && f.subop == 0 && f.fp != 15 && !f.saddr
  | .scat f =>
    !f.g.u && f.order == 0 && f.scopeUnused && (f.path == 0 || f.path == 3) && !f.take && f.fp == 0 && !f.saddr &&
      (if f.subop == 15 then f.selOk else f.subop != 6 && f.subop != 7 && f.atomType && f.atomSel)
  | .atom f =>
    !f.g.u && f.order.toNat ≤ 4 && f.scopeOk && (f.path == 0 || f.path == 3) && !f.take && f.fp == 0 && f.addrOk &&
      f.ext.toNat ≤ 1 && f.atomType && f.atomSel && (f.subop != 7 || (f.ext == 1 && !f.data.getLsbD 0))
  | .amaxr f =>
    !f.g.u && f.selOk && f.wide && f.order.toNat ≤ 4 && f.scopeOk && f.path == 0 && f.noExtra && f.addrOk
  | .fence f => !f.g.u && 1 ≤ f.order.toNat && f.order.toNat ≤ 4 && f.scopeOk && f.path == 0 && f.ext == 0 && f.noOperand
  | .pfence f =>
    !f.g.u && f.order == 0 && f.scopeOk && f.ext.toNat < 4 && f.path.toNat != f.ext.toNat && f.noOperand
  | .wait f =>
    f.g.u && f.g.always && f.imm.toNat < 2 ^ 24 && f.sd == 0 && f.sa == 0 && f.sb == 0 && f.subop == 0 && f.type == 0 &&
      f.highZero
  | .qpush f | .qpop f => f.queue
  | .spmap f =>
    f.g.u && f.imm.toNat < 16 && f.order == 0 && f.type == 0 && f.sd == 0 && f.vx == 0 && f.pf == 0 && f.ext == 0 && f.scopeOk
  | .spwb f =>
    f.g.u && f.imm.toNat < 16 && f.order == 0 && f.type == 0 && f.sd == 0 && f.sa == 0 && f.noBC && f.vx == 0 &&
      f.pf == 0 && f.ext == 0 && f.scopeOk
  | .spempty f =>
    !f.g.u && f.path == 3 && f.type == 0 && f.order == 0 && f.subop == 0 && f.data == 0 && f.selD == 0 && f.scopeUnused &&
      !f.take && f.fp == 0 && f.ext == 0 && f.addrOk
  | .bankcfg f =>
    f.g.u && f.imm.toNat < 96 && f.order == 0 && f.type == 0 && f.scopeUnused && f.sd == 0 && f.sa == 0 && f.noBC &&
      f.vx == 0 && f.pf == 0 && f.ext == 0
  | .pgreq f =>
    !f.g.u && f.path == 0 && f.type == 6 && f.selOk && f.order == 0 && f.scopeUnused && f.subop.toNat ≤ 1 && !f.take &&
      f.fp == 0 && f.ext == 0 && f.addrOk
  | .cpy f =>
    f.g.u && f.scopeOk && f.order == 0 && f.type == 0 && f.sd == 0 && f.vx == 0 && f.pf == 0 && f.sb.toNat ≤ 124 &&
      (f.ext == 0 && f.imm == 0 || f.ext == 1 && f.sc == 0 && f.imm.toNat < 32)
  | .cpysel f =>
    f.g.u && f.scopeOk && f.order == 0 && f.type == 0 && f.sd == 0 && f.vx == 0 && f.pf == 0 && f.ext == 0 &&
      f.imm.toNat < 2 ^ 15
  | .fbopen f => !f.g.u && f.imm.toNat < 8 && f.noMod && f.noBC && f.sd == 0 && f.pf == 0 && f.ext == 0
  | .fbnext f => !f.g.u && f.imm.toNat < 8 && f.noMod && f.noBC && f.sd == 0 && f.sa == 0 && f.flagOk && f.ext == 0
  | .fbend f =>
    !f.g.u && f.imm.toNat < 8 && f.noMod && f.noBC && f.sd == 0 && f.sa == 0 && f.vx == 0 && f.flagOk && f.ext == 0
  | .fbclose f =>
    !f.g.u && f.imm.toNat < 8 && f.noMod && f.noBC && f.sd == 0 && f.sa == 0 && f.vx == 0 && f.pf == 0 && f.ext == 0
  | .dqpush f | .dqpop f | .dqsteal f => f.table && f.type == 7 && f.ext == 0
  | .bndup f =>
    !f.g.u && f.imm.toNat < 16 && f.ext.toNat ≤ 2 && (f.type == 3 || f.type == 7 || f.type == 10 || f.type == 11) &&
      f.order == 0 && f.scopeUnused && f.sd == 0 && f.sa == 0 && f.noBC && f.pf == 0
  | .bndrd f =>
    f.imm.toNat < 16 && f.ext == 0 && f.type == 0 && f.order == 0 && f.scopeUnused && f.sa == 0 && f.noBC && f.pf == 0 &&
      (if f.g.u then f.vx == 0 else f.sd == 0)
  | .rngt f =>
    !f.g.u && f.type == 0 && f.order == 0 && f.scopeUnused && f.sd == 0 && f.noBC && f.pf == 0 &&
      (f.ext == 0 && f.imm.toNat < 4096 && f.sa == 0 || f.ext == 1 && f.imm == 0)
  | .tnow f =>
    f.g.u && f.sd != f.sb && f.sa == 0 && f.sc == 0 && f.vx == 0 && f.pf == 0 && f.imm == 0 && f.ext == 0 && f.type == 0 &&
      f.order == 0 && f.scopeUnused
  | .stst f =>
    f.selOk && (f.order == 0 || f.order == 2) && f.scopeOk && f.path == 0 && !f.take && f.fp == 0 && f.subop == 0 &&
      f.stampOk && f.addrOk && (!f.g.u || sField f.data)
  | .ldas f =>
    !f.g.u && f.selOk && (f.order == 0 || f.order == 1) && f.scopeOk && f.path == 0 && !f.take && f.fp != 15 &&
      f.subop == 0 && f.stampOk && f.addrOk
  | .vacq f | .vrel f => f.handoff
  | .tsmov f => f.head && f.noRest && f.imm == 0 && f.mod == 0 && f.type == 0
  | .tsmovi f => f.head && f.ta == 0 && f.noRest && f.mod.toNat ≤ 2 && f.type == 0
  | .tsadd f =>
    f.head && f.tc == 0 && f.wn == 0 && f.fa == 0 && f.fb == 0 && f.type == 0 &&
      (f.mod == 0 && f.imm == 0 || f.mod == 1 && f.tb == 0)
  | .tloop f => f.head && f.td == 0 && f.noRest && f.mod == 0 && f.type == 0
  | .tbra f => f.head && f.td == 0 && f.noRest && f.mod.toNat ≤ 6 && f.type == 0 && (f.mod != 6 || f.ta == 0)
  | .tarr f | .twait f => f.head && f.td == 0 && f.ta == 0 && f.noRest && f.imm.toNat < 256 && f.mod == 0 && f.type == 0
  | .tfmt f =>
    f.head && f.td == 0 && f.tb == 0 && f.tc == 0 && f.wn == 0 && f.fb == 0 && f.type == 0 &&
      (f.mod == 0 && f.imm == 0 || f.mod == 1 && f.ta == 0)
  | .tnorm f =>
    f.head && TFmt.desc f.ta && f.td == 0 && f.tb == 0 && f.tc == 0 && f.wn == 0 && f.fb == 0 && f.imm == 0 &&
      (f.mod == 0 || f.mod == 16) && f.matrixType
  | .mma f =>
    f.head && TFmt.desc f.ta && TFmt.desc f.tb && f.td == 0 && f.tc == 0 && f.wn == 0 && f.imm == 0 && f.matrixType &&
      (f.mod &&& 0xFFEC) == 0 && f.advGa
  | .mmac f =>
    f.head && TFmt.desc f.ta && TFmt.desc f.tb && TFmt.desc f.tc && f.wn == 0 && f.imm == 0 && f.matrixType &&
      (f.mod &&& 0xFF04) == 0 && f.advGa && (f.mod.extractLsb' 5 3).toNat ≤ 5
  | .mmk f =>
    f.head && TFmt.desc f.ta && TFmt.desc f.tb && f.td == 0 && f.imm == 0 && f.matrixType && (f.mod &&& 0xFFE8) == 0 &&
      f.advGa
  | .wlinit f =>
    f.head && f.td == 0 && f.ta == 0 && f.tb == 0 && f.tc == 0 && f.fa == 0 && f.fb == 0 && f.mod == 0 && f.type == 0 &&
      1 ≤ f.imm.toNat && f.imm.toNat ≤ 32
  | .wlflr f =>
    f.head && f.td == 0 && f.ta == 0 && f.tb == 0 && f.tc == 0 && f.fa == 0 && f.fb == 0 && f.type == 0 &&
      (f.mod == 0 && f.imm == 0 || f.mod == 1 && f.imm.toNat < 16)
  | .wlst f | .wlmrg f =>
    f.head && f.td == 0 && f.tb == 0 && f.tc == 0 && f.fa == 0 && f.fb == 0 && f.type == 0 && f.imm == 0 && f.mod.toNat ≤ 1
  | .tend f => f.head && f.td == 0 && f.ta == 0 && f.noRest && f.imm == 0 && f.mod == 0 && f.type == 0
  | .aqpop f =>
    !f.isVI && !f.g.u && f.plain && f.type == 10 && f.type2 == 10 && f.selD == 15 && f.selA == 15 && f.selB == 15 &&
      f.selC == 15 && f.a == 0 && f.b == 0 && f.c == 0 && f.xa == 0
  | .wlrd f =>
    !f.isVI && !f.g.u && f.rm == 0 && !f.sat && f.type == 7 && f.type2 == 7 && f.selD == 15 && f.selA == 15 &&
      f.selB == 15 && f.selC == 15 && f.a == 0 && f.b == 0 && f.c == 0
  | .nlbin f =>
    f.g.u && f.scopeOk && f.sd == 0 && f.noBC && f.vx == 0 && f.pf == 0 && f.imm == 0 && f.ext == 0 && f.order == 0 && f.type == 0
  | .nlsweep f =>
    f.g.u && f.scopeOk && f.sd == 0 && f.noBC && f.vx == 0 && f.pf == 0 && f.imm.toNat < 32 && f.ext.toNat ≤ 1 &&
      f.order == 0 && f.type == 0
  | .nlstat f =>
    f.g.u && f.noBC && f.vx == 0 && f.pf == 0 && f.imm == 0 && f.ext == 0 && f.order == 0 && f.type == 0 && f.scopeUnused
  | .kvx f | .kvins f => f.table && f.type == 0 && f.ext == 0
  | .kvref f => f.table && f.type == 0 && f.ext.toNat ≤ 1
  | .pfxh f =>
    f.g.u && f.sd == 0 && f.noBC && f.pf == 0 && f.imm.toNat < 32 && f.ext == 0 && f.type == 0 && f.order == 0 && f.scopeUnused
  | .pfxl f =>
    f.g.u && f.sc == 0 && f.pf == 0 && f.imm.toNat < 64 && f.ext == 0 && f.type == 0 && f.order == 0 && f.scopeUnused
  | .pfxi f => f.table && f.type == 0 && f.ext == 0
  | .coll f =>
    f.g.u && f.vx == 0 && f.pf == 0 && f.ext == 0 && f.type == 0 && (f.order == 0 || f.order == 2) && f.scopeOk
  | .collw f =>
    f.g.u && f.noBC && f.vx == 0 && f.pf == 0 && f.ext == 0 && f.type == 0 && f.order == 0 && f.scopeOk && f.imm.toNat % 32 == 0
  | i => i.opcode?.isNone

/-! ### Which check fails first (R53) -/

/-- A type code of R50 that is not reserved. -/
def typeDefined (c : BitVec 4) : Bool := c.toNat < 13
/-- A selector of R48 at the width of a type: the whole register, or a sub-element; any at a narrow type, whose selector holds
a block index. -/
def selDefined (type sel : BitVec 4) : Bool :=
  match typeWidth? type with | some w => sel == 15 || selSingle w sel | none => true

namespace VFmt
/-- The codes of a vector format: types, FSEL, and the selectors at the widths of TYPE and TYPE2. -/
def codes (f : VFmt) : Bool :=
  typeDefined f.type && typeDefined f.type2 && ((f.type != 12 && f.type2 != 12) || fselOk f.subop) &&
    selDefined f.type f.selD && selDefined f.type2 f.selA && selDefined f.type2 f.selB && selDefined f.type2 f.selC
/-- No type, rounding or saturation. -/
def bare (f : VFmt) : Bool := f.type == 0 && f.type2 == 0 && f.rm == 0 && !f.sat
/-- One type of a kind in TYPE and TYPE2, with rounding and saturation where `rm` and `sat` allow them. -/
def typed (kind : BitVec 4 → Bool) (rm sat : Bool) (f : VFmt) : Bool :=
  !f.g.u && kind f.type && f.type2 == f.type && (rm || f.rm == 0) && (sat || !f.sat)
end VFmt

/-- The integer types of the bit-field instructions (R117). -/
def isFieldType (c : BitVec 4) : Bool := c == 2 || c == 3 || c == 6 || c == 7
/-- One type alone. -/
def only (k c : BitVec 4) : Bool := c == k

namespace MFmt
/-- U, type, order, scope and path as an entry allows them; a scope it does not use is zero or the default. -/
def allows (u : Bool) (kind : BitVec 4 → Bool) (orders : List Nat) (scope : Bool) (paths : List Nat) (f : MFmt) : Bool :=
  f.g.u == u && kind f.type && orders.contains f.order.toNat && (scope || f.scopeUnused) && paths.contains f.path.toNat
end MFmt

namespace EFmt
/-- U, type, order and scope as an entry allows them; a scope it does not use is zero or the default. -/
def allows (u : Bool) (kind : BitVec 4 → Bool) (orders : List Nat) (scope : Bool) (f : EFmt) : Bool :=
  f.g.u == u && kind f.type && orders.contains f.order.toNat && (scope || f.scopeUnused)
end EFmt

/-- The codes that an entry defines by itself: conditions, operators and modes in SUBOP, IMM16 or MOD, and the block of a narrow operand
(R98, R115, R120, R133, R135, R136, R139, R142, R146, R154, R157, R160, R169, R180, R189). The codes of BAR, BARA, BARW, SCMP and
PGREQ are read alike (DEDUCED, log entry 73). -/
def Instr.entryCodes : Instr → Bool
  | .conv f | .bar f | .bara f | .barw f => f.subop.toNat ≤ 1
  | .scmp f => f.subop.toNat ≤ 5
  | .vcmp f => f.subop.toNat ≤ 5
  | .vote f | .xget f | .xput f => f.subop.toNat ≤ 3
  | .frnd f | .fsca f | .xbcast f => f.subop.toNat ≤ 1
  | .xffs f => f.subop.toNat ≤ 2
  | .fpack f | .expq f => f.selD.toNat < f.w2 / fselUnit f.subop
  | .funpk f => f.selA.toNat < f.w / fselUnit f.subop
  | .st f | .sst f | .pgreq f => f.subop.toNat ≤ 1
  | .gath f | .gathp f => f.subop == 0
  | .scat f => f.subop == 15 || f.subop.toNat ≤ 8 && f.subop != 6 && f.subop != 7 && f.atomSel
  | .atom f => f.subop.toNat ≤ 8 && f.atomSel
  | .bankcfg f => f.imm.toNat / 32 % 4 != 3
  | .bndup f => f.ext.toNat % 4 != 3
  | .tsmovi f => f.mod.toNat % 4 != 3
  | .tbra f => f.mod.toNat % 8 != 7
  | .mmac f => f.mod.toNat / 32 % 8 ≤ 5
  | _ => true

/-- Check 3 of R53: every code is defined, selectors being those of R48 (log entry 73). -/
def Instr.codes (i : Instr) : Bool :=
  i.entryCodes && match i.view with
  | .v _ f => f.codes
  | .s _ f => typeDefined f.type
  | .m _ f => typeDefined f.type && selDefined f.type f.selD && f.order.toNat ≤ 4 && f.scopeOk
  | .b _ f => f.cond.toNat ≤ 5
  | .t _ f => typeDefined f.type
  | .e _ f => typeDefined f.type && f.order.toNat ≤ 4 && f.scopeOk
  | .step => true

/-- A shape that the entry allows: those of R111 and R126, the conversions' of R134, whole IEEE sides of the narrow blocks and the
single elements of the lane moves. A shape outside them fails check 4, as R111 and R134 say of theirs (DEDUCED of the others, log
entry 73). -/
def Instr.shaped : Instr → Bool
  | .vadd f | .vsub f | .vmul f | .vdiv f | .vmulh f | .vrem f | .vand f | .vor f | .vxor f | .vshl f | .vshr f | .vsra f | .vmin f
  | .vmax f | .vbfx f | .vsel f | .fadd f | .fsub f | .fmul f | .fdiv f | .fmin f | .fmax f | .fminn f | .fmaxn f | .fcpys f =>
    f.shapeB
  | .vnot f | .vclz f | .vpopc f | .vabs f | .vmov f | .vmovs f | .fabs f | .fneg f | .fclass f | .frnd f | .frcp f | .frsq f
  | .fexp2 f | .fsqrt f | .flog2 f | .fsinp f | .fcosp f | .ftanh f | .xscan f | .xred f => shapeOk [(f.w, f.selD), (f.w, f.selA)]
  | .vmad f | .vbfi f | .vdot4 f | .ffma f => f.shapeDABC
  | .vmovi f => f.isVI && shapeOk [(f.w, f.selD)]
  | .vcmp f | .fcmp f => f.selD == f.selA && f.shapeB
  | .fcvt f | .fcvti f | .icvtf f =>
    selSingle f.w f.selD && selSingle f.w2 f.selA || f.w == f.w2 && f.selD == 15 && f.selA == 15
  | .fpack f | .expq f => f.selA == 15
  | .funpk f => f.selD == 15
  | .fsca f => if f.subop == 0 then f.shapeDABC else f.shapeB
  | .xget f | .xput f | .xbcast f => selSingle f.w f.selD && selSingle f.w f.selA
  | .xffs f => f.selD == 15
  | _ => true

/-- Check 4 of R53: type, rounding, saturation, order, scope, path and U bit are among those that the entry allows; so is what an
entry itself gives to check 4: the guards of the barriers, WAIT and the tile stream, the numbers of system registers, XA and SUBOP of
the integer instructions, register numbers and ranges (R102, R107, R110, R153, R154, R161, R165, R173, R182, R187, R189, R193,
R203). The number in field D of SETSR's register form is tested here too, where R107 speaks of the VI forms only (DESIGN CHOICE, log
entry 98). -/
def Instr.allowed : Instr → Bool
  | .nop f => f.bare
  | .yield f | .exit f | .safe f => f.bare && !f.g.u
  | .bra f | .brx f | .call f | .ret f => !f.g.u
  | .bru f => f.g.u
  | .conv f | .trap f | .bkpt f => !f.g.u && f.type == 0 && !f.sat
  | .bar f | .bara f | .barw f | .wait f => f.g.u && f.g.always && f.type == 0 && !f.sat
  | .getsr f => f.bare && (!f.isVI || f.imm.toNat ≤ 0x10)
  | .setsr f => f.g.u && f.bare && f.d.toNat ≤ 0x10
  | .launch f => f.allows true (only 0) [0] false
  | .smov f | .smovi f | .scmp f | .ssel f | .sclz f | .spopc f => f.g.u && isIntType f.type && !f.sat
  | .smovh f => f.g.u && f.type == 0 && !f.sat
  | .sadd f | .saddi f | .ssub f | .smul f | .sdiv f => f.g.u && isIntType f.type
  | .smulh f | .srem f | .sand f | .sor f | .sxor f | .sshl f | .sshr f | .ssra f | .smin f | .smax f =>
    f.g.u && isIntType f.type && !f.sat
  | .sbfx f | .sbfi f => f.g.u && isFieldType f.type && !f.sat
  | .vmov f | .vmovi f | .vmovs f | .vsel f => f.typed isElemType false false
  | .vadd f | .vsub f | .vmul f | .vdiv f | .vmad f | .vabs f => f.typed isIntType false true && f.subop == 0 && f.xa == 0
  | .vmulh f | .vrem f | .vand f | .vor f | .vxor f | .vshl f | .vshr f | .vsra f | .vmin f | .vmax f | .vnot f | .vclz f
  | .vpopc f => f.typed isIntType false false && f.subop == 0 && f.xa == 0
  | .vcmp f => f.typed isIntType false false && f.xa == 0
  | .vbfx f | .vbfi f => f.typed isFieldType false false && f.subop == 0 && f.xa == 0
  | .vdot4 f => !f.g.u && f.rm == 0 && (f.type == 2 && f.type2 == 0 || f.type == 6 && f.type2 == 4)
  | .pset f | .pand f | .por f | .pxor f | .pnot f | .vote f => !f.g.u && f.bare
  | .fadd f | .fsub f | .fmul f | .fdiv f | .ffma f | .frcp f | .frsq f | .fexp2 f => f.typed isFloatType true true
  | .fsqrt f | .flog2 f | .fsinp f | .fcosp f | .ftanh f | .frnd f => f.typed isFloatType true false
  | .fmin f | .fmax f | .fminn f | .fmaxn f | .fabs f | .fneg f | .fclass f | .fcpys f | .fcmp f => f.typed isFloatType false false
  | .fcvt f => !f.g.u && isFloatType f.type && isFloatType f.type2
  | .fcvti f => !f.g.u && isIntType f.type && isFloatType f.type2
  | .icvtf f => !f.g.u && isFloatType f.type && isIntType f.type2
  | .fpack f => !f.g.u && f.type == 12 && isFloatType f.type2
  | .funpk f => !f.g.u && f.type2 == 12 && isFloatType f.type && f.rm == 0 && !f.sat
  | .expq f => !f.g.u && f.type == 12 && (f.type2 == 8 || f.type2 == 9 || f.type2 == 10) && f.rm == 0 && !f.sat && f.subop == 0
  | .fsca f => f.typed (only 10) true true
  | .xget f | .xput f | .xbcast f => f.typed isElemType false false
  | .xscan f | .xred f =>
    f.typed isElemType true true && (f.rm == 0 || (isFloatType f.type && f.subop == 0)) && (!f.sat || f.subop == 0) &&
      (if isIntType f.type then f.subop.toNat ≤ 5 else f.subop.toNat ≤ 2 || 6 ≤ f.subop.toNat)
  | .xffs f => f.typed (only 7) false false
  | .ld f => f.allows false isElemType [0, 1, 4] true [0, 1, 2, 3] && f.takeOk
  | .ldp f => f.allows false isElemType [0] false [0] && f.takeOk
  | .st f => f.allows false isElemType [0, 2, 4] true [0, 2, 3] && f.takeOk && f.fillOk
  | .ldc f => f.allows false isElemType [0] false [1] && f.takeOk
  | .sld f => f.allows true isElemType [0, 1, 4] true [0, 1, 3] && f.takeOk && f.saddr
  | .sst f => f.allows true isElemType [0, 2, 4] true [0, 3] && f.takeOk && f.fillOk && f.saddr
  | .gath f => f.allows false isElemType [0] false [0, 3] && f.takeOk
  | .scat f => f.allows false isElemType [0] false [0, 3] && f.takeOk && (f.subop == 15 || f.atomType)
  | .gathp f => f.allows false isElemType [0] false [0] && f.takeOk
  | .atom f => f.allows false isElemType [0, 1, 2, 3, 4] true [0, 3] && f.takeOk && f.atomType &&
      (f.subop != 7 || (f.ext.getLsbD 0 && !f.data.getLsbD 0))
  | .amaxr f => f.allows false isElemType [0, 1, 2, 3, 4] true [0] && f.takeOk && f.wide
  | .fence f => f.allows false (only 0) [1, 2, 3, 4] true [0]
  | .pfence f => f.allows false (only 0) [0] true [0, 1, 2, 3] && f.ext.toNat % 4 != f.path.toNat
  | .spempty f => f.allows false (only 0) [0] false [3]
  | .pgreq f => f.allows false (only 6) [0] false [0]
  | .stst f => f.allows f.g.u isElemType [0, 2] true [0] && f.takeOk
  | .ldas f => f.allows false isElemType [0, 1] true [0] && f.takeOk
  | .qpush f | .qpop f | .fbopen f | .fbnext f | .fbend f | .fbclose f => f.allows false (only 0) [0] false
  | .cpy f => f.allows true (only 0) [0] true && f.sb.toNat ≤ 124
  | .tnow f => f.allows true (only 0) [0] false && f.sd != f.sb
  | .spmap f | .spwb f | .cpysel f | .nlbin f | .nlsweep f | .collw f => f.allows true (only 0) [0] true
  | .bankcfg f | .vacq f | .vrel f | .nlstat f | .pfxh f | .pfxl f => f.allows true (only 0) [0] false
  | .dqpush f | .dqpop f | .dqsteal f => f.allows false (only 7) [0, 1, 2, 3] true
  | .bndup f => f.allows false (fun c => c == 3 || c == 7 || c == 10 || c == 11) [0] false
  | .bndrd f => f.allows f.g.u (only 0) [0] false
  | .rngt f => f.allows false (only 0) [0] false
  | .kvx f | .kvins f | .kvref f | .pfxi f => f.allows false (only 0) [0, 1, 2, 3] true
  | .coll f => f.allows true (only 0) [0, 2] true
  | .tsmov f | .tsmovi f | .tsadd f | .tloop f | .tbra f | .tarr f | .twait f | .tfmt f | .wlflr f | .wlst f
  | .wlmrg f | .tend f => f.head && f.type == 0
  | .wlinit f => f.head && f.type == 0 && 1 ≤ f.imm.toNat && f.imm.toNat ≤ 32
  | .tnorm f => f.head && f.tileType && TFmt.desc f.ta
  | .mma f | .mmk f => f.head && f.tileType && TFmt.desc f.ta && TFmt.desc f.tb && f.advGa
  | .mmac f => f.head && f.tileType && TFmt.desc f.ta && TFmt.desc f.tb && TFmt.desc f.tc && f.advGa
  | .aqpop f => f.typed (only 10) false false
  | .wlrd f => f.typed (only 7) false false
  | _ => true

/-! ### Decoding -/

/-- Why a word decodes to no instruction; each is ILLEGAL_OPCODE of the decode checks (R53, R55, R56). -/
inductive Reject where
  /-- The opcode is unassigned (R55): check 2. -/
  | unassigned
  /-- The opcode belongs to the other stream (R56): check 2. -/
  | otherStream
  /-- Check 3 of R53 fails: a code is undefined. -/
  | code
  /-- Check 4 of R53 fails: the entry does not allow a field. -/
  | entry
  /-- Check 5 of R53 fails: an unused field is not zero. -/
  | unused
deriving DecidableEq, Repr

/-- The check of R53 that a rejection names. -/
def Reject.check : Reject → Nat
  | .unassigned | .otherStream => 2
  | .code => 3
  | .entry => 4
  | .unused => 5

/-- The first of checks 3 to 5 that fails on an instruction that is not well formed. -/
def Instr.reject (i : Instr) : Reject := if !i.codes then .code else if !(i.allowed && i.shaped) then .entry else .unused

/-- Decoding of a 96-bit word by itself: checks 2 to 5 of R53 but the stream. -/
def decode (w : IWord) : Except Reject Instr :=
  match instrOfOpcode (w.extractLsb' 87 9).toNat w with
  | none => .error .unassigned
  | some i => if i.wf then .ok i else .error i.reject

/-- Opcodes 0x180 to 0x190, the tile stream's own (R56). -/
def Instr.isTile (i : Instr) : Bool :=
  match i.opcode? with
  | some o => 0x180 ≤ o && o ≤ 0x190
  | none => false
/-- NOP, which stands in both streams (R56). -/
def Instr.isNop : Instr → Bool
  | .nop _ => true
  | _ => false
/-- The opcode is legal in a stream: `tile` tells a tile stream from a group stream (R56). -/
def Instr.inStream (tile : Bool) (i : Instr) : Bool := if tile then i.isTile || i.isNop else !i.isTile

/-- A NOP that a tile stream accepts: PRED = 15, NEG = 0 and U = 0 (R90). -/
def Instr.tileNop : Instr → Bool
  | .nop f => f.g.always && !f.g.u
  | _ => false

/-- Decoding in a stream: checks 2 to 5 of R53 in their order (R56, R90). -/
def decodeIn (tile : Bool) (w : IWord) : Except Reject Instr :=
  match instrOfOpcode (w.extractLsb' 87 9).toNat w with
  | none => .error .unassigned
  | some i =>
    if !i.inStream tile then .error .otherStream
    else if tile && i.isNop && !i.tileNop then .error (if i.codes then .entry else .code)
    else if i.wf then .ok i else .error i.reject

/-- The instruction read from the bits `w`, numbered as the opcode table numbers them; the bits above `nbits` are 0. -/
def decodeTableWord (nbits w : Nat) : Option Instr :=
  match decode (BitVec.ofNat 96 (w % 2 ^ nbits)) with
  | .ok i => some i
  | .error _ => none

/-! ### The encoder -/

/-- The header of a word (R43). -/
def Guard.head (opc : Nat) (g : Guard) : BitVec 15 :=
  BitVec.ofNat 9 opc ++ BitVec.ofBool g.neg ++ g.pred ++ BitVec.ofBool g.u

/-- Bits 58:27 of formats VR and VI. -/
def VSrc.encode : VSrc → BitVec 32
  | .regs b c xa selC => b ++ c ++ xa ++ selC
  | .imm v => v

/-- Formats VR and VI. -/
def VFmt.encode (opc : Nat) (f : VFmt) : IWord :=
  f.g.head opc ++ f.d ++ f.a ++ f.src.encode ++ f.subop ++ f.selB ++ f.selA ++ f.selD ++ BitVec.ofBool f.sat ++ f.rm ++
    f.type2 ++ f.type ++ BitVec.ofBool f.isVI
/-- Format SC. -/
def SFmt.encode (opc : Nat) (f : SFmt) : IWord :=
  f.g.head opc ++ f.sd ++ f.sa ++ f.sb ++ f.imm ++ f.zero ++ f.sx ++ BitVec.ofBool f.immSel ++ BitVec.ofBool f.sat ++
    f.subop ++ f.type
/-- Format MEM. -/
def MFmt.encode (opc : Nat) (f : MFmt) : IWord :=
  f.g.head opc ++ f.data ++ f.addr ++ f.off ++ f.ext ++ BitVec.ofBool f.take ++ f.subop ++ f.selD ++ f.fp ++
    BitVec.ofBool f.saddr ++ f.path ++ f.scope ++ f.order ++ f.type
/-- Format BR. -/
def BFmt.encode (opc : Nat) (f : BFmt) : IWord :=
  f.g.head opc ++ f.off ++ f.vx ++ f.tbl ++ f.sx ++ f.cond ++ f.rsv
/-- Format TS. -/
def TFmt.encode (opc : Nat) (f : TFmt) : IWord :=
  f.g.head opc ++ f.td ++ f.ta ++ f.tb ++ f.tc ++ f.wn ++ f.fa ++ f.fb ++ f.imm ++ f.mod ++ f.type
/-- Format EN. -/
def EFmt.encode (opc : Nat) (f : EFmt) : IWord :=
  f.g.head opc ++ f.sd ++ f.sa ++ f.sb ++ f.sc ++ f.vx ++ f.pf ++ f.imm ++ f.ext ++ f.scope ++ f.order ++ f.type

/-- The word of an instruction, from the same tables (R43 to R54); a step of the machine has none, and gets zero. -/
def encode (i : Instr) : IWord :=
  match i.view with
  | .v o f => f.encode o
  | .s o f => f.encode o
  | .m o f => f.encode o
  | .b o f => f.encode o
  | .t o f => f.encode o
  | .e o f => f.encode o
  | .step => 0

end Sys2Proof
end

