-- ==== Sys2Proof/Machine/RegUse.lean ====
section
/-!
DEFINITION. Which registers each instruction reads and writes: the pair rules (R40), the register range check (R45) and
the interlocks (R89, R152) are made of it.
-/
namespace Sys2Proof.Machine

/-- A register of a group or of a tile context. -/
inductive Reg where
  | v (i : Nat) | s (i : Nat) | p (i : Nat) | t (i : Nat) | f (i : Nat)
deriving DecidableEq, Repr

/-- The registers an instruction names. `fields` are the V registers that fields read as sources, once per field (the
bank rule of R40); `reads` and `writes` are whole registers, guard excepted. -/
structure RegUse where
  fields : List Nat := []
  reads  : List Reg := []
  writes : List Reg := []
deriving DecidableEq, Repr

/-- Reads of V fields. -/
def RegUse.ofV (src : List Nat) (writes : List Reg) : RegUse := RegUse.mk src (src.map .v) writes

/-- Consecutive registers from `i`. -/
def run (k : Nat → Reg) (i n : Nat) : List Reg := (List.range n).map (fun j => k (i + j))

/-- Sources A and B of a two-source vector instruction, B only in VR (R44). -/
def VFmt.srcAB (f : VFmt) : List Nat := if f.isVI then [f.a.toNat] else [f.a.toNat, f.b.toNat]

/-- The address register of a memory instruction (R149). -/
def MFmt.addrUse (f : MFmt) : RegUse :=
  if f.saddr then RegUse.mk [] [.s (f.addr.toNat % 128)] [] else RegUse.ofV [f.addr.toNat] []

/-- A register use with more reads and writes. -/
def RegUse.add (r : RegUse) (fields : List Nat) (reads writes : List Reg) : RegUse :=
  RegUse.mk (r.fields ++ fields) (r.reads ++ fields.map .v ++ reads) (r.writes ++ writes)

/-- P15 discards writes (R21), so it is not a destination. -/
def predOut (p : Nat) : List Reg := if p == 15 then [] else [.p p]

/-- The three T registers of an operand descriptor (R193). -/
def descRegs (a : BitVec 5) : List Reg := run .t a.toNat 3
/-- The format registers a narrow matrix type reads (R195). -/
def narrowRegs (f : TFmt) (two : Bool) : List Reg :=
  if f.type == 12 then (.f f.fa.toNat) :: (if two then [.f f.fb.toNat] else []) else []
/-- The T registers ADVA and ADVB write (R193). -/
def advRegs (f : TFmt) : List Reg :=
  (if f.mod.getLsbD 0 then [.t f.ta.toNat] else []) ++ (if f.mod.getLsbD 1 then [.t f.tb.toNat] else [])

/-- The registers of each instruction, guard excepted. -/
def regUse : Instr → RegUse
  | .brx f => .ofV [f.vx.toNat] []
  | .call f => RegUse.mk [] [] [.v f.vx.toNat]
  | .ret f => .ofV [f.vx.toNat] []
  | .bru f => RegUse.mk [] [.s f.sx.toNat] []
  | .conv f | .bar f | .bara f | .barw f => RegUse.mk [] (if f.subop == 1 then [.s f.sa.toNat] else []) []
  | .getsr f =>
    RegUse.mk [] (if f.isVI then [] else [.s f.a.toNat]) [if f.g.u then .s f.d.toNat else .v f.d.toNat]
  | .setsr f => RegUse.mk [] (if f.isVI then [] else [.s f.a.toNat]) []
  | .launch f => RegUse.mk [] [.s f.sa.toNat] [.s f.sd.toNat]
  | .smov f | .sclz f | .spopc f | .sbfx f => RegUse.mk [] [.s f.sa.toNat] [.s f.sd.toNat]
  | .smovi f => RegUse.mk [] [] [.s f.sd.toNat]
  | .smovh f => RegUse.mk [] [] [.s f.sd.toNat]
  | .saddi f => RegUse.mk [] [.s f.sa.toNat] [.s f.sd.toNat]
  | .sbfi f => RegUse.mk [] [.s f.sa.toNat, .s f.sb.toNat] [.s f.sd.toNat]
  | .ssel f => RegUse.mk [] [.s f.sa.toNat, .s f.sb.toNat, .s f.sx.toNat] [.s f.sd.toNat]
  | .sadd f | .ssub f | .smul f | .smulh f | .sdiv f | .srem f | .sand f | .sor f | .sxor f | .sshl f | .sshr f
  | .ssra f | .smin f | .smax f | .scmp f =>
    RegUse.mk [] (.s f.sa.toNat :: (if f.immSel then [] else [.s f.sb.toNat])) [.s f.sd.toNat]
  | .vmov f | .vnot f | .vabs f | .vclz f | .vpopc f | .fabs f | .fneg f | .fclass f | .frnd f | .fcvt f | .fcvti f
  | .icvtf f | .fpack f | .funpk f | .expq f | .frcp f | .fsqrt f | .frsq f | .fexp2 f | .flog2 f | .fsinp f
  | .fcosp f | .ftanh f | .xscan f => .ofV [f.a.toNat] [.v f.d.toNat]
  | .vmovi f => RegUse.mk [] [] [.v f.d.toNat]
  | .vmovs f => RegUse.mk [] [.s f.a.toNat] [.v f.d.toNat]
  | .vadd f | .vsub f | .vmul f | .vmulh f | .vdiv f | .vrem f | .vand f | .vor f | .vxor f | .vshl f | .vshr f
  | .vsra f | .vmin f | .vmax f | .fadd f | .fsub f | .fmul f | .fdiv f | .fmin f | .fmax f | .fminn f | .fmaxn f
  | .fcpys f => .ofV (VFmt.srcAB f) [.v f.d.toNat]
  | .vbfx f => .ofV [f.a.toNat, f.b.toNat] [.v f.d.toNat]
  | .vmad f | .vbfi f | .vdot4 f | .ffma f => .ofV [f.a.toNat, f.b.toNat, f.c.toNat] [.v f.d.toNat]
  | .fsca f => .ofV ([f.a.toNat, f.b.toNat] ++ (if f.subop == 0 then [f.c.toNat] else [])) [.v f.d.toNat]
  | .vcmp f | .fcmp f => .ofV (VFmt.srcAB f) (predOut f.d.toNat)
  | .vsel f => (RegUse.ofV [f.a.toNat, f.b.toNat] [.v f.d.toNat]).add [] [.p f.c.toNat] []
  | .pset f => .ofV (if f.isVI then [] else [f.a.toNat]) (predOut f.d.toNat)
  | .pand f | .por f | .pxor f => RegUse.mk [] [.p f.a.toNat, .p f.b.toNat] (predOut f.d.toNat)
  | .pnot f => RegUse.mk [] [.p f.a.toNat] (predOut f.d.toNat)
  | .vote f => RegUse.mk [] [.p f.a.toNat] (if f.subop == 3 then [.v f.d.toNat] else predOut f.d.toNat)
  | .xget f => .ofV (if f.xa.getLsbD 5 then [f.a.toNat, f.b.toNat] else [f.a.toNat]) [.v f.d.toNat]
  | .xput f =>
    .ofV (if f.xa.getLsbD 5 then [f.a.toNat, f.b.toNat] else [f.a.toNat]) (.v f.d.toNat :: predOut f.c.toNat)
  | .xbcast f => .ofV [f.a.toNat] [if f.subop == 1 then .s f.d.toNat else .v f.d.toNat]
  | .xred f => .ofV [f.a.toNat] [if f.xa == 1 then .s f.d.toNat else .v f.d.toNat]
  | .xffs f => RegUse.mk [] [.p f.a.toNat] [if f.xa == 1 then .s f.d.toNat else .v f.d.toNat]
  | .ld f | .ldc f => (MFmt.addrUse f).add [] [] [.v f.data.toNat]
  | .ldp f => (MFmt.addrUse f).add [] [] (.v f.data.toNat :: predOut f.fp.toNat)
  | .st f => (MFmt.addrUse f).add [f.data.toNat] [] []
  | .sld f => (MFmt.addrUse f).add [] [] [.s f.data.toNat]
  | .sst f => (MFmt.addrUse f).add [] [.s f.data.toNat] []
  | .gath f => (MFmt.addrUse f).add [] [.s (f.ext.toNat / 4)] [.v f.data.toNat]
  | .gathp f => (MFmt.addrUse f).add [] [.s (f.ext.toNat / 4)] (.v f.data.toNat :: predOut f.fp.toNat)
  | .scat f => (MFmt.addrUse f).add [f.data.toNat] [.s (f.ext.toNat / 4)] []
  | .atom f =>
    (MFmt.addrUse f).add [f.data.toNat] (if f.subop == 7 then [.v (f.data.toNat + 1)] else [])
      (if f.ext == 1 then [.v f.data.toNat] else [])
  | .amaxr f => (MFmt.addrUse f).add [] [] [.v f.data.toNat]
  | .spempty f => MFmt.addrUse f
  | .pgreq f => (MFmt.addrUse f).add [] [] [.v f.data.toNat]
  | .qpush f => RegUse.mk [f.vx.toNat] (run .v f.vx.toNat 4) (if f.ext == 1 then predOut f.pf.toNat else [])
  | .qpop f => RegUse.mk [] [] (run .v f.vx.toNat 4 ++ (if f.ext == 1 then predOut f.pf.toNat else []))
  | .spmap f => RegUse.mk [] [.s f.sa.toNat, .s f.sb.toNat, .s f.sc.toNat] []
  | .cpy f =>
    RegUse.mk [] (.s f.sa.toNat :: run .s f.sb.toNat 4 ++ (if f.ext == 0 then [.s f.sc.toNat] else [])) []
  | .cpysel f => RegUse.mk [] [.s f.sa.toNat, .s f.sb.toNat, .s f.sc.toNat] []
  | .fbopen f => (RegUse.ofV [f.vx.toNat] []).add [] [.s f.sa.toNat] []
  | .fbnext f => RegUse.mk [] [] (.v f.vx.toNat :: predOut f.pf.toNat)
  | .fbend f => RegUse.mk [] [] (predOut f.pf.toNat)
  | .dqpush f => (RegUse.ofV [f.vx.toNat] (predOut f.pf.toNat)).add [] [.s f.sa.toNat] []
  | .dqpop f | .dqsteal f => RegUse.mk [] [.s f.sa.toNat] (.v f.vx.toNat :: predOut f.pf.toNat)
  | .bndup f => .ofV [f.vx.toNat] []
  | .bndrd f => RegUse.mk [] [] [if f.g.u then .s f.sd.toNat else .v f.vx.toNat]
  | .rngt f => RegUse.mk [] (if f.ext == 1 then [.s f.sa.toNat] else []) [.v f.vx.toNat]
  | .tnow f => RegUse.mk [] [] [.s f.sd.toNat, .s f.sb.toNat]
  | .stst f =>
    if f.g.u then (MFmt.addrUse f).add [] [.s f.data.toNat, .s (f.ext.toNat / 4)] []
    else (MFmt.addrUse f).add [f.data.toNat] [.s (f.ext.toNat / 4)] []
  | .ldas f => (MFmt.addrUse f).add [] [.s (f.ext.toNat / 4)] (.v f.data.toNat :: predOut f.fp.toNat)
  | .vacq f | .vrel f => RegUse.mk [] [.s f.sa.toNat, .s f.sb.toNat] [.s f.sd.toNat]
  | .tsmov f => RegUse.mk [] [.t f.ta.toNat] [.t f.td.toNat]
  | .tsmovi f => RegUse.mk [] [] [.t f.td.toNat]
  | .tsadd f => RegUse.mk [] (.t f.ta.toNat :: (if f.mod == 1 then [] else [.t f.tb.toNat])) [.t f.td.toNat]
  | .tloop f => RegUse.mk [] [.t f.ta.toNat] []
  | .tbra f => RegUse.mk [] (if f.mod == 6 then [] else [.t f.ta.toNat]) []
  | .tfmt f => RegUse.mk [] (if f.mod == 1 then [] else [.t f.ta.toNat]) [.f f.fa.toNat]
  | .tnorm f => RegUse.mk [] (descRegs f.ta ++ narrowRegs f false) []
  | .mma f => RegUse.mk [] (descRegs f.ta ++ descRegs f.tb ++ narrowRegs f true) (advRegs f)
  | .mmk f => RegUse.mk [] (descRegs f.ta ++ descRegs f.tb ++ [.t f.tc.toNat] ++ narrowRegs f true) (advRegs f)
  | .mmac f =>
    RegUse.mk [] (descRegs f.ta ++ descRegs f.tb ++ descRegs f.tc ++ [.t f.td.toNat] ++ narrowRegs f true) (advRegs f)
  | .wlst f | .wlmrg f => RegUse.mk [] [.t f.ta.toNat] []
  | .aqpop f | .wlrd f => RegUse.mk [] [] [.v f.d.toNat]
  | .nlbin f | .nlsweep f => RegUse.mk [] [.s f.sa.toNat] []
  | .nlstat f => RegUse.mk [] [.s f.sa.toNat] [.s f.sd.toNat]
  | .kvx f | .kvins f | .kvref f | .pfxi f =>
    (RegUse.ofV [f.vx.toNat] (.v f.vx.toNat :: predOut f.pf.toNat)).add [] [.s f.sa.toNat] []
  | .pfxh f => RegUse.mk [] [.s f.sa.toNat] [.v f.vx.toNat]
  | .pfxl f => RegUse.mk [] [.s f.sa.toNat, .s f.sb.toNat] [.s f.sd.toNat, .v f.vx.toNat]
  | .coll f => RegUse.mk [] [.s f.sa.toNat, .s f.sb.toNat, .s f.sc.toNat] [.s f.sd.toNat]
  | .collw f => RegUse.mk [] [.s f.sa.toNat] [.s f.sd.toNat]
  | _ => RegUse.mk [] [] []

/-- The guard of an instruction; the steps of the machine are unguarded. -/
def guardOf (i : Instr) : Guard :=
  match i.view with
  | .v _ f => f.g
  | .s _ f => f.g
  | .m _ f => f.g
  | .b _ f => f.g
  | .t _ f => f.g
  | .e _ f => f.g
  | .step => Guard.mk false 15 false

/-- Every register read, the guard register included (R40). -/
def allReads (i : Instr) : List Reg :=
  let g := guardOf i
  if g.pred == 15 then (regUse i).reads else .p g.pred.toNat :: (regUse i).reads

/-- The highest V register named, for the range check (R45, R53). -/
def vNamed (i : Instr) : List Nat :=
  ((regUse i).reads ++ (regUse i).writes).filterMap (fun r => match r with | .v k => some k | _ => none)

/-- The heavy classes of R57. -/
def isHeavy (i : Instr) : Bool :=
  match i.opcode? with
  | some o =>
    (0x100 ≤ o && o ≤ 0x109) || (0x10A ≤ o && o ≤ 0x10F) || (0x120 ≤ o && o ≤ 0x134) || o == 0x011 ||
      (0x160 ≤ o && o ≤ 0x170) || o == 0x1A0 || o == 0x1A1 || (0x1C0 ≤ o && o ≤ 0x1CA) || (0x188 ≤ o && o ≤ 0x18F)
  | none => false

/-- Instructions that stand only in the second slot of a pair (R40). -/
def isSecondOnly : Instr → Bool
  | .bra _ | .bru _ | .brx _ | .call _ | .ret _ | .conv _ | .yield _ | .exit _ | .bar _ | .bara _ | .barw _ | .safe _
  | .trap _ | .bkpt _ | .launch _ | .tloop _ | .tbra _ | .tarr _ | .twait _ | .tend _ => true
  | _ => false

/-- No vector bank carries more than two source reads (R40). -/
def banksOk (l : List Nat) : Bool := (List.range 8).all (fun b => (l.filter (fun r => r % 8 == b)).length ≤ 2)

/-- The joint-issue rules of R40 for a pair. -/
def pairOk (i j : Instr) : Bool :=
  let a := regUse i
  let b := regUse j
  a.writes.all (fun r => !b.writes.contains r) && a.writes.all (fun r => !(allReads j).contains r) &&
    banksOk (a.fields ++ b.fields) && !(isHeavy i && isHeavy j) && (guardOf i).u == (guardOf j).u && !isSecondOnly i

end Sys2Proof.Machine
end

