-- ==== Sys2Proof/Machine/Sparse.lean ====
section
/-!
DEFINITION. Sparse tables: a list of key and value pairs, keys strictly rising, no value equal to what an unlisted key
reads as. Memory, register files and every other table of the state are held so.
-/
namespace Sys2Proof.Machine

/-- A sparse table from natural keys. -/
abbrev Sparse (α : Type) := List (Nat × α)

/-- The value at a key, `d` where the key is not listed. -/
def Sparse.get {α : Type} (d : α) (m : Sparse α) (k : Nat) : α :=
  match m with
  | [] => d
  | (j, v) :: r => if j = k then v else Sparse.get d r k

/-- The table with a pair put in its place, before the first greater key. -/
def Sparse.insert {α : Type} (m : Sparse α) (k : Nat) (v : α) : Sparse α :=
  match m with
  | [] => [(k, v)]
  | (j, w) :: r => if k < j then (k, v) :: (j, w) :: r else (j, w) :: Sparse.insert r k v

/-- The table without a key. -/
def Sparse.erase {α : Type} (m : Sparse α) (k : Nat) : Sparse α := m.filter (fun p => p.1 ≠ k)

/-- The table with the value at a key replaced; writing what an unlisted key reads as removes the entry. -/
def Sparse.put {α : Type} [DecidableEq α] (d : α) (m : Sparse α) (k : Nat) (v : α) : Sparse α :=
  if v = d then Sparse.erase m k else Sparse.insert (Sparse.erase m k) k v

/-- The value at a key, if listed. -/
def Sparse.find? {α : Type} (m : Sparse α) (k : Nat) : Option α :=
  match m with
  | [] => none
  | (j, v) :: r => if j = k then some v else Sparse.find? r k

/-- The table with the value at a key set, listed whatever it is. -/
def Sparse.set {α : Type} (m : Sparse α) (k : Nat) (v : α) : Sparse α := Sparse.insert (Sparse.erase m k) k v

/-- The keys of a table strictly rise and no listed value equals `d`. -/
def Sparse.wf {α : Type} [DecidableEq α] (d : α) : Sparse α → Bool
  | [] => true
  | (k, v) :: r => v != d && r.all (fun p => k < p.1) && Sparse.wf d r

end Sys2Proof.Machine
end

