-- ==== Sys2Proof/Machine/State.lean ====
section
/-!
DEFINITION. The state of the module as plain data, the reasons a step can stop, and the state after module reset.
-/
namespace Sys2Proof.Machine

/-- Why the machine itself stops. No step of this model raises it: every fault of the instruction set is a next state, in
which a group or a context is Faulted with its record (R333). Safe. -/
inductive Fault where
  /-- Unused: kept so that the type has a value. Nothing raises it; safe. -/
  | none
deriving DecidableEq, Repr

/-- Why a step has no meaning in a state. -/
inductive Refusal where
  /-- An instruction whose meaning is not modelled; raised by Dispatch only. Safe: the run stops. -/
  | notModelled (mnemonic : String)
  /-- An instruction was executed with no group or context issuing it in the stream it belongs to; raised by the
  meanings of instructions. Safe: no fetch of this machine leads there (R56). -/
  | noIssuer
  /-- A step of the machine was asked for in a state in which the spec does not let it happen; raised by the meanings of
  steps. Safe: the run stops. -/
  | notEnabled (step : String)
deriving DecidableEq, Repr

/-- The classes of the outstanding-operation counters (R108, R165). -/
inductive Cls where
  | ld | st | cp | en
deriving DecidableEq, Repr

/-- The states of a thread (R226). -/
inductive TState where
  | runnable
  | conv (u : Unit53) (mask : Mask)
  | barrier (u : Unit53)
  | safe (u : Unit53)
  | deferred
  | retired
deriving DecidableEq, Repr

/-- One thread: its TPC (R36) and its state (R226). -/
structure Thread where
  tpc : Unit53
  st  : TState
deriving DecidableEq, Repr

/-- The rotation state of a group (R230). -/
structure Rotation where
  c : Nat
  x : Mask
  m : Nat
  e : Mask
deriving DecidableEq, Repr

/-- One fibre slot of one thread (R176); a closed slot has cursor = end = 0. -/
structure Fibre where
  cursor : Nat
  fin    : Nat
  cols   : Nat
  vals   : Nat
  wlog   : Nat
deriving DecidableEq, Repr

/-- A closed fibre slot (R227). -/
def Fibre.closed : Fibre := Fibre.mk 0 0 0 0 0

/-- Who issues: a group or a tile-sequencer context, by its handle. -/
inductive Agent where
  | group (g : Nat)
  | tile (t : Nat)
deriving DecidableEq, Repr

/-- What a fault says about itself (R336). -/
structure FaultInfo where
  cause  : BitVec 8
  thread : Option Nat
  addr   : Nat
  code   : BitVec 32
  malf   : Bool
  write  : Bool
  slot2  : Bool
deriving DecidableEq, Repr

/-- A fault record (R336). -/
structure FaultRec where
  info    : FaultInfo
  lid     : BitVec 32
  bidx    : Nat
  gidx    : Nat
  loc     : Nat
  seq     : Option Nat
  unit    : Nat
  tmask   : Mask
  restart : Nat
  serial  : BitVec 32
  time    : Nat
deriving DecidableEq, Repr

/-- Ready or Waiting; Faulted, with a replay marked by RESUME while the block was taken; Ended (R238, R342). -/
inductive Status where
  | ready
  | faulted (r : FaultRec) (resumed : Option Nat)
  | ended
deriving DecidableEq, Repr

/-- The long-latency dependences of R239 that a group waits on. -/
inductive Wait where
  /-- A WAIT that has not passed: limits for LD, ST, CP and EN (R165). -/
  | counts (ld st cp en : Nat)
  /-- Older LD and ST operations, at BAR, BARA, FENCE or an access with `.sc` (R104, R163, R277). -/
  | memory
  /-- Older stores of some threads on a path, at PFENCE (R164). -/
  | stores (m : Mask) (path : BitVec 2)
  /-- The phase of a set, after BAR or BARW has executed (R102). -/
  | phase (set : Nat)
  /-- The phase of a set in which the group holds an arrival, at BARA or (`bar`) at a BAR that cannot arrive yet (R102). -/
  | previous (set : Nat) (bar : Bool)
  /-- A counter class at 63 (R152). -/
  | full (c : Cls)
  /-- An empty accumulator queue (R199). -/
  | queue
  /-- A generation of a collective that has not completed: descriptor and generation (R224). -/
  | coll (va gen : Nat)
  /-- Every runnable thread deferred, by a YIELD that issued at this clock (R99). -/
  | deferral (at_ : Nat)
  /-- A FIFO instruction being served (R166), or a stamped store being prepared (R347). -/
  | serving
  /-- A random slot claimed by another launch (R364). -/
  | slot (die slot : Nat)
  /-- A bank being switched (R169). -/
  | bank (core bank : Nat)
deriving DecidableEq, Repr

/-- A request of one element to one scratchpad line (R150, R153): the thread, the core and line, the byte within the
line, the count of bytes, the byte of the register it goes to. -/
structure SpReq where
  thread : Nat
  core   : Nat
  line   : Nat
  byte   : Nat
  count  : Nat
  reg    : Nat
deriving DecidableEq, Repr

/-- One request of an element of a gather, scatter or atomic: thread, address, the element's operand, the second operand of `.cas`,
the half of an `.addbf2` element (R85), and the bytes of the element that it moves, first and count: an element that straddles two
lines is two requests (R150, R262). -/
structure Lane where
  thread : Nat
  addr   : Nat
  value  : Nat
  value2 : Nat
  half   : Option Nat
  part   : Nat × Nat
deriving DecidableEq, Repr

/-- A grid descriptor as read at issue (R209, R296). -/
structure Grid where
  origin : List Nat
  box    : List Nat
  mode   : Nat
  ncell  : List Nat
  cap    : Nat
  rc     : Nat
  skin   : Nat
  npart  : Nat
  pos    : Nat
  bins   : Nat
  status : Nat
deriving DecidableEq, Repr

/-- A leaf of a page table as a walk finds it (R323): its value, the physical address it stands at, the size of its page
as a power of two. -/
structure Leaf where
  value : Nat
  at_   : Nat
  log   : Nat
deriving DecidableEq, Repr

/-- What remains to be done for an outstanding operation. -/
inductive Work where
  /-- Its effect is made; it awaits retirement. -/
  | idle
  /-- Scratchpad requests that stall on empty lines (R153). -/
  | spLoad (take : Bool) (reqs : List SpReq)
  /-- Lanes in the gather collector: those of a batch that is open, and those sent, each with the clock at which its batch
  closed (R261). -/
  | gather (open_ : List Lane) (sent : List (Nat × Lane))
  /-- Atomic elements not yet applied, in order (R161). -/
  | atoms (lanes : List Lane)
  /-- Threads that an engine has not served yet, in ascending order. -/
  | threads (left : List Nat)
  /-- A copy; the records still to push of a FIFO copy that has begun (R173). -/
  | copy (left : Option (List (List Byte)))
  /-- The next row of a select-and-copy (R174). -/
  | rows (next : Nat)
  /-- A bound update; whether the cluster's unit has applied it (R180). -/
  | bound (applied : Bool)
  /-- Page requests not yet answered: thread and page (R170). -/
  | pages (left : List (Nat × Nat))
  /-- A range handoff awaited or under way: base and length (R185). -/
  | range (base len : Nat)
  /-- A scalar result written at retirement (R109, R185). -/
  | result (w : Word)
  /-- A bank switch: bank and mode (R169). -/
  | bank (bank mode : Nat)
  /-- A binning (R211). -/
  | bin (g : Grid)
  /-- A sweep: cells left; cells under way, each with its records not yet pushed, or none while it is not tested; pair records
  emitted; the stale cell and particle (R212, R213). -/
  | sweep (g : Grid) (bank : Nat) (left : List Nat) (out : List (Nat × Option (List (List Byte)))) (pairs : Nat)
      (stale : Option (Nat × Nat))
  /-- Stamped stores whose commits are outstanding (R348). -/
  | commits (left : Nat)
  /-- As-of reads not yet answered: thread, address, count of bytes, byte of the register, too new so far (R184). -/
  | asOf (stamp : Nat) (left : List SpReq)
deriving DecidableEq, Repr

/-- An outstanding operation of a group (R152); `issued` is the step of the fetch that issued it. `sargs` and `targs` are the scalar
and per-thread operands read at issue; `pins` the spans of virtual addresses whose translations it uses, `leaves` these translations
by page (R171, R325), `banks` the banks that it targets, by core and bank (R169); a failed one keeps the address at which it failed
(R385); `unit` is the unit of the instruction. -/
structure Op where
  id     : Nat
  instr  : Instr
  cls    : Cls
  mask   : Mask
  holds  : List Reg
  sargs  : List Word
  targs  : List (Nat × Word)
  work   : Work
  pins   : List (Nat × Nat)
  leaves : List (Nat × Leaf)
  banks  : List (Nat × Nat)
  done   : Bool
  failed : Option Nat
  issued : Nat
  unit   : Nat
deriving DecidableEq, Repr

/-- A stamped-store element being prepared: thread, address and bytes (R347). -/
structure StampElt where
  thread : Nat
  addr   : Nat
  data   : List Byte
deriving DecidableEq, Repr

/-- A fetch whose instruction is latched: the agent, the unit, the active set, the instruction, and the second slot of a
pair that issues with it (R39); `slot2` tells that the instruction itself is the second slot of such a pair, fetched at the
unit before its own. -/
structure Issue where
  agent  : Agent
  unit   : Unit53
  active : Mask
  instr  : Instr
  second : Option Instr
  slot2  : Bool := false
deriving DecidableEq, Repr

/-- An instruction that is being served thread by thread before it completes. -/
inductive Cont where
  /-- QPUSH or QPOP: threads not yet served (R166). -/
  | fifo (i : Issue) (left : List Nat)
  /-- STST in its prepare phase: elements left, entries assigned, and the thread and address at which a home raised WIDTH
  (R347). -/
  | stst (i : Issue) (left : List StampElt) (made : Nat) (width : Option (Nat × Nat))
deriving DecidableEq, Repr

/-- A group (R226 to R241). Registers are sparse: key 32 × index + thread for V and P. `failed` lists the classes in which an
operation has retired failed, with the address (R385); `bad` the registers whose stored code cannot be corrected (R384); `issuedAt`
is the clock of its last fetch (R241). -/
structure Group where
  launch   : Nat
  block    : Nat
  gidx     : Nat
  core     : Nat
  part     : Nat
  resident : Bool
  entered  : Bool
  vregs    : Nat
  threads  : List Thread
  v        : Sparse Word
  p        : Sparse (BitVec 8)
  s        : Sparse Word
  flags    : BitVec 6
  fbst     : Bool
  fibres   : Sparse Fibre
  rot      : Rotation
  ops      : List Op
  nextOp   : Nat
  failed   : List (Cls × Nat)
  cont     : Option Cont
  wait     : Option Wait
  status   : Status
  active   : Bool
  placedAt : Nat
  readyAt  : Option Nat
  lastIssue : Nat
  issuedAt : Option Nat
  bad      : List RegAt
deriving DecidableEq, Repr

/-- A matrix or winner-list instruction in flight, with the T and F values when it issued (R196, R286); `floor` is the
sampled floor (R204); `applied` tells that an MMAC has passed its tag step, `lines` the lines not yet applied, `release` the
step at which it was released; `words` its sums, or the image that a WLMRG has read; `leaves` the translations that it
uses, by page (R325); `needs` the scratchpad lines (core and line) of its operands that it has not been handed at a fill, `got`
those it has, with their bytes (R153, R256); `theta` the *k*-th entries of the rows of an MMK's list when it issued, none once the list
has been initialised again (R205, R289); `slot2` tells that it stood in the second slot of a pair (R336). -/
structure Inflight where
  instr   : Instr
  unit    : Unit53
  t       : Sparse Word
  f       : List Word
  floor   : Nat
  applied : Bool
  lines   : List Nat
  words   : List (BitVec 32)
  release : Nat
  leaves  : List (Nat × Leaf)
  needs   : List (Nat × Nat)
  got     : List (Nat × Nat × List Byte)
  theta   : List (BitVec 32 × BitVec 32)
  slot2   : Bool
deriving DecidableEq, Repr

/-- The lease of a tile stream or of an operation (R318). -/
inductive Lease where
  | none | asked | held
deriving DecidableEq, Repr

/-- What a tile-sequencer context waits on. -/
inductive TWait where
  /-- The phase of a set in which the context holds an arrival (R191). -/
  | phase (set : Nat)
  /-- Every older instruction (R191, R192). -/
  | drained
  /-- The lease of its stream (R196, R318). -/
  | lease
  /-- Four matrix instructions in flight (R196). -/
  | flight
  /-- A line of a scratchpad image that is empty: core and line (R153). -/
  | image (core line : Nat)
  /-- A stored image of an older WLST (R191). -/
  | stored
  /-- A bank being switched (R169). -/
  | bank (core bank : Nat)
deriving DecidableEq, Repr

/-- A tile-sequencer context (R187); `got` the lines, with their bytes, that fills have handed to the instruction it waits at
(R256), `bad` the registers whose stored code cannot be corrected (R384). -/
structure Tile where
  launch   : Nat
  block    : Nat
  number   : Nat
  core     : Nat
  resident : Bool
  entered  : Bool
  tpc      : Unit53
  t        : Sparse Word
  f        : List Word
  flight   : List Inflight
  lease    : Lease
  wait     : Option TWait
  status   : Status
  got      : List (Nat × Nat × List Byte)
  bad      : List RegAt
deriving DecidableEq, Repr

/-- Bank modes (R248). -/
inductive BankMode where
  | cache | scratch | fifo
deriving DecidableEq, Repr

/-- Who waits to push a record on a FIFO bank (R259): a group at QPUSH, or an operation of the copy or neighbour-list engine. -/
inductive Producer where
  | group (g : Nat)
  | op (group op : Nat)
deriving DecidableEq, Repr

/-- One bank (R247, R258): mode, holding block, and as a FIFO the slots from HEAD on: a record, or a reservation not yet
complete; HEAD itself; the producers that wait for a slot, in their order of arrival (R259); whether it is being switched, and
whether that is because its block has ended (R169, R247). -/
structure Bank where
  mode      : BankMode
  holder    : Option Nat
  slots     : List (Option (List Byte))
  head      : Nat
  line      : List Producer
  switching : Bool
  ending    : Bool
deriving DecidableEq, Repr

/-- A bank that has just switched: no record, nobody waiting. -/
def Bank.fresh (mode : BankMode) (holder : Option Nat) : Bank := Bank.mk mode holder [] 0 [] false false
/-- A bank after reset (R402). -/
def Bank.idle : Bank := Bank.fresh .cache none

/-- A map slot (R167): region offset in the core's scratchpad, global address, length, and the launch whose context
translates the address. -/
structure MapSlot where
  off   : Nat
  va    : Nat
  len   : Nat
  launch : Nat
deriving DecidableEq, Repr

/-- A winner list (R202). -/
structure WList where
  k     : Nat
  rows  : List (List (BitVec 32 × BitVec 32))
  nans  : List (BitVec 32)
  audit : Option (Nat × Nat × Nat)
  floor : Option Nat
deriving DecidableEq, Repr

/-- An uninitialised winner list (R188). -/
def WList.empty : WList := WList.mk 0 [] [] none none

/-- An operation waiting at the core: a group and the identity of its operation. -/
structure OpRef where
  group : Nat
  op    : Nat
deriving DecidableEq, Repr

/-- The gather collector's open batch (R261): when it opened, the operations with the count of their lanes in it, in order of
entry, its lines. -/
structure Batch where
  opened : Nat
  ops    : List (OpRef × Nat)
  lines  : List Nat
deriving DecidableEq, Repr

/-- One write to a byte of global memory (R267, R268): the step at which it was made, the first byte of its request within the
line, its path (3 for a write of the host, which is on every path), the core of its agent (128 at a home), the die through which it
was made, the byte before it, and the readers that a PFENCE has made see it: 4 × core + path (R164). -/
structure Version where
  time   : Nat
  at_    : Nat
  path   : Nat
  core   : Nat
  die    : Option Nat
  before : Byte
  seen   : List Nat
deriving DecidableEq, Repr

/-- One core (R3, R247 to R262); `cst` and `lay` list the lines that its caches of these paths hold, with the step as of which
(R251); `sent` lists the scatters of closed batches in their order of entry (R261), `poppers` the
groups that wait at an empty accumulator queue in their order of arrival (R199), `bad` the places in its stores whose code cannot
be corrected (R384). -/
structure Core where
  banks   : Sparse Bank
  sp      : Sparse Byte
  full    : Sparse Bool
  mask    : Sparse (BitVec 128)
  maps    : Sparse (Option MapSlot)
  stalled : List OpRef
  cst     : Sparse (Option Nat)
  lay     : Sparse (Option Nat)
  batch   : Option Batch
  sent    : List OpRef
  copies  : List OpRef
  queue   : List (List (BitVec 32))
  lists   : Sparse WList
  holder  : Option Nat
  bnd     : Sparse Word
  bndQ    : List (Nat × Word × OpRef)
  powered : Bool
  idleAt  : Nat
  retired : Bool
  errors  : List Nat
  garnet  : Option Nat
  poppers : List Nat
  bad     : List CoreAt
deriving DecidableEq, Repr

/-- A core after reset (R402): gated, every bank CACHE. -/
def Core.idle : Core :=
  Core.mk [] [] [] [] [] [] [] [] none [] [] [] [] none [] [] false 0 false [] none [] []

/-- Quartz states (R379). -/
inductive QState where
  | unset | locked | free | wide
deriving DecidableEq, Repr

/-- The last probe sent to a party: its clock, whether it awaits its answer, and the interval that a party inside the module
read as it arrived (R376, R377). -/
structure Probe where
  party  : Party
  sent   : Nat
  open_  : Bool
  answer : Option (Nat × Nat)
deriving DecidableEq, Repr

/-- A Quartz unit (R375 to R379): the base interval and the clock at which it was set, the clock of the last accepted
sample, QCFG, CONFLICTS and STATE, and the last probe to each party. -/
structure Quartz where
  e0        : Nat
  l0        : Nat
  base      : Nat
  sampled   : Nat
  qlim      : BitVec 32
  qdrift    : BitVec 16
  period    : BitVec 16
  conflicts : BitVec 16
  state     : QState
  probes    : List Probe
deriving DecidableEq, Repr

/-- A Quartz unit after reset (R378, R379). -/
def Quartz.reset : Quartz := Quartz.mk 0 (2 ^ 64 - 1) 0 0 200000 2500 10 0 .unset []

/-- A random slot (R181, R364): claiming launch, position of the next word, words in the ring, tickets waiting, and the
replay header where the claim runs in replay mode. -/
structure RngSlot where
  claim   : Option Nat
  pos     : Nat
  level   : Nat
  tickets : List OpRef
  replay  : Option Nat
deriving DecidableEq, Repr

/-- An unclaimed slot. -/
def RngSlot.idle : RngSlot := RngSlot.mk none 0 0 [] none

/-- Who asks for a lease (R318). -/
inductive Leaser where
  | tile (t : Nat)
  | op (r : OpRef)
deriving DecidableEq, Repr

/-- One compute die (R3). `lost` is the lost-unit table: the address and size of a DRAM unit of 64 bytes or of a line of 128
bytes (R386); `l2` the lines of system-range pages that its L2 holds, with the step as of which (R400); `scrubbed` and `swept` the clocks
at which its last scrub pass and its last sweep of L2 ended (R388). -/
structure Die where
  quartz  : Quartz
  lost    : List (Nat × Nat)
  slots   : Sparse RngSlot
  frames  : List Nat
  asking  : List Leaser
  granted : List Leaser
  neigh   : List (OpRef × Nat)
  scrubH  : Nat
  l2      : Sparse (Option Nat)
  scrubbed : Nat
  swept   : Nat
deriving DecidableEq, Repr

/-- A die after reset (R380, R388). -/
def Die.reset : Die := Die.mk Quartz.reset [] [] [] [] [] [] 24 [] 0 0

/-- A record for the request ring (R328). -/
structure ReqRec where
  kind : Nat
  arg  : Nat
  va   : Nat
  more : Nat
deriving DecidableEq, Repr

/-- A control-ring command that has been taken and has not completed: TAKE, PREEMPT or MOVE (R327, R337). -/
structure PendCmd where
  op   : Nat
  arg  : Nat
  va   : Nat
  len  : Nat
  done : Nat
deriving DecidableEq, Repr

/-- A context (R312, R322, R327, R328, R336, R337, R365, R398). `vacqs` lists the VACQ and VREL operations that have not
taken effect, in their order of arrival at the control processor (R330). -/
structure Ctx where
  root    : Nat
  ctl     : Nat
  fault   : Nat
  req     : Nat
  hostQ   : List Nat
  devQ    : List Nat
  rung    : List Nat
  nextLid : BitVec 32
  serial  : BitVec 32
  faults  : List FaultRec
  reqs    : List ReqRec
  asked   : List Nat
  vacqs   : List OpRef
  pend    : List PendCmd
  save    : Option (Nat × Nat)
  readback : Bool
  bken    : Bool
  replays : Sparse (Option Nat)
  held    : Sparse (Option Leaf)
deriving DecidableEq, Repr

/-- One entry of a set table (R308): the ranges of groups and the contexts that are members. -/
structure SetDef where
  ranges : List (Nat × Nat)
  tiles  : List Nat
deriving DecidableEq, Repr

/-- A launch (R306 to R317). `sets` is the set table fixed when the launch is taken; `next` the next block to place; `doom` an
outcome other than completed that is decided before the launch ends, with its status or cause; `outcome` how it ended;
`endDie` the die on which its last block ended. -/
structure Launch where
  ctx      : Nat
  lid      : BitVec 32
  entry    : Unit53
  tables   : Nat
  ntab     : Nat
  seed     : Word
  sinit    : Sparse Word
  done     : Nat
  blocks   : Nat
  prio     : Nat
  coop     : Bool
  garnet   : Bool
  strict   : Bool
  irq      : Bool
  deps     : List (BitVec 32)
  vregs    : Nat
  nthr     : Nat
  ngroups  : Nat
  streams  : List Nat
  tsentry  : List Unit53
  scrMask  : Nat
  fifoMask : Nat
  matrix   : Bool
  sets     : Sparse SetDef
  bken     : Bool
  readback : Bool
  next     : Nat
  placed   : Nat
  finished : Nat
  boost    : Nat
  waitFrom : Nat
  doom     : Option (Nat × Nat)
  outcome  : Option (Nat × Nat)
  endDie   : Nat
deriving DecidableEq, Repr

/-- A barrier set of a block (R101): phase number and the members that have arrived: `gidx`, or 2048 + context. -/
structure SetState where
  phase   : BitVec 32
  arrived : List Nat
deriving DecidableEq, Repr

/-- A set at launch (R101). -/
def SetState.fresh : SetState := SetState.mk 0 []

/-- A pending pre-emption request (R339): the clock of its deadline and the contexts and DONE addresses of the PREEMPTs
merged into it; whether taking has begun (R340), whether the distributor asked (R316), the status with which the
PREEMPTs complete if the block ends first, and the fault records that were raised before taking began and have not been posted (R343). -/
structure PreReq where
  deadline : Nat
  dones    : List (Nat × Nat)
  taking   : Bool
  own      : Bool
  onEnd    : Nat
  owed     : List FaultRec
deriving DecidableEq, Repr

/-- The image of a taken block that does not lie in its groups and contexts (R341): banks with their bytes, full bits,
masks and maps, each with the core that held them; the queue with its waiting groups, the lists, the holder of Garnet mode,
each by core; the cores the block used and the bytes that the image takes; the places among these that cannot be corrected, by
core (R384). -/
structure Saved where
  banks  : List (Nat × Nat × Bank)
  sp     : List (Nat × Nat × Byte)
  full   : List (Nat × Nat)
  masks  : List (Nat × Nat × BitVec 128)
  maps   : List (Nat × Nat × MapSlot)
  queue  : List (List (BitVec 32))
  poppers : List Nat
  lists  : Sparse WList
  garnet : List (Nat × Nat)
  cores  : List Nat
  bytes  : Nat
  bad    : List (Nat × CoreAt)
deriving DecidableEq, Repr

/-- Running, taken with an image, being aborted, ended (R314, R338, R340). -/
inductive BlockSt where
  | running
  | taken (i : Saved)
  | aborting
  | ended
deriving DecidableEq, Repr

/-- A block (R242, R339). -/
structure Block where
  launch : Nat
  bidx   : Nat
  groups : List Nat
  tiles  : List Nat
  cores  : List Nat
  sets   : Sparse SetState
  pre    : Option PreReq
  st     : BlockSt
  placedAt : Nat
deriving DecidableEq, Repr

/-- A pending stamped commit (R344): stamp, address and bytes, the store it belongs to, whether it is confirmed. -/
structure Pending where
  stamp     : Nat
  addr      : Nat
  data      : List Byte
  by_       : OpRef
  confirmed : Bool
deriving DecidableEq, Repr

/-- What a home keeps for a stamped line (R344). -/
structure Stamped where
  cstamp  : Nat
  astamp  : Nat
  pending : List Pending
deriving DecidableEq, Repr

/-- The stamps of a line when its page receives the attribute (R344). -/
def Stamped.fresh : Stamped := Stamped.mk 0 0 []

/-- A page's move history and settle end (R332). -/
structure History where
  moves  : List Nat
  settle : Nat
deriving DecidableEq, Repr

/-- A page with no history. -/
def History.fresh : History := History.mk [] 0

/-- A move request (R331): context, page, target (4 is the host), the PGREQ.mig or the MOVE command that asked, whether it
was granted, whether it waits for a record to be answered, its frame. -/
structure Move where
  ctx     : Nat
  va      : Nat
  target  : Nat
  op      : Option OpRef
  done    : Option Nat
  granted : Bool
  posted  : Bool
  frame   : Option Nat
deriving DecidableEq, Repr

/-- A contribution recorded at a collective's home (R223): physical address of the descriptor, the context and the
virtual address under which it was named, contributor, address of the shard; the span of OUT, and the translations with which
OUT and the descriptor were checked (R325, R330). -/
structure Shard where
  desc : Nat
  ctx  : Nat
  va   : Nat
  who  : Nat
  addr : Nat
  out  : Nat
  size : Nat
  leaves : List (Nat × Leaf)
deriving DecidableEq, Repr

/-- The mailbox of firmware commands (R398): addresses of commands that have not been answered, in order; the context that
the command at the head is destroying; the last command answered, with its status. -/
structure Mailbox where
  queue      : List Nat
  destroying : Option Nat
  answered   : Option (Nat × Nat)
deriving DecidableEq, Repr

/-- An attestation report (R394): the nonce, the measurement and the version of each image that ran, the rollback counter, the
counts, and the signature with the attestation key; then the two certificates, of the attestation key and of the identity key.
Keys, signatures and certificates are bytes that only the security engine can form. -/
structure Report where
  nonce     : Nat
  images    : List (Nat × Nat)
  rollback  : Nat
  retired   : Nat
  spared    : Nat
  debugged  : Bool
  earliest  : Nat
  signature : List Byte
  attestation : List Byte
  identity  : List Byte
deriving DecidableEq, Repr

/-- An error-log record (R389). -/
structure LogRec where
  kind  : Nat
  where_ : BitVec 32
  addr  : Nat
  time  : Nat
  count : Nat
deriving DecidableEq, Repr

/-- A step that the outside world or an engine is about to take, and the clocks that pass before it: the model's own
input queue. -/
structure Act where
  after : Nat
  ev    : Instr
deriving DecidableEq, Repr

/-- MSTAT but QLOCK, which the dies hold (R396). -/
structure MStat where
  bootfail : Bool
  therm    : BitVec 2
  fatal    : Bool
  link1    : Bool
  link0    : Bool
  ready    : Bool
deriving DecidableEq, Repr

/-- The module. `turn` is the context that the distributor served last (R316); `hostRead` the last word that a read from outside
returned; `told` the interval last answered to a peer's probe; `listed` the rows listed for sparing and `spared` those mapped at
reset (R390); `irqs` the interrupts to the host; `versions` the writes to each byte of global memory, newest first (R266 to R268);
`trans` the translations that the operation of the step at hand uses, by context and page, empty between steps (R325); `users` the
pages, by context and number, through which each frame of 64 KiB has been reached as stamped memory (R324, R344); `history` is by
2^48 × context + page (R332); `ctlIrqs` the interrupts to the control processor (R376, R379, R401); `booted` the images that ran at
the last reset (R393). -/
structure State where
  clk      : Nat
  stepNo   : Nat
  agenda   : List Act
  issue    : Option Issue
  mem      : Sparse Byte
  groups   : Sparse Group
  tiles    : Sparse Tile
  blocks   : Sparse Block
  launches : Sparse Launch
  ctxs     : Sparse Ctx
  cores    : Sparse Core
  dies     : Sparse Die
  bounds   : Sparse Word
  stamps   : Sparse Stamped
  history  : Sparse History
  moves    : Sparse Move
  shards   : List Shard
  nextId   : Nat
  turn     : Nat
  mstat    : MStat
  mbox     : Mailbox
  aperture : Nat
  peers    : List (Nat × Nat)
  ptmBound : Option Nat
  ptm      : Option (Nat × Nat × Nat)
  ctlDrift : BitVec 16
  log      : List LogRec
  listed   : List Nat
  spared   : List Nat
  retired  : List Nat
  rowErrors : List (Nat × Nat)
  debugged : Bool
  linkErrs : List (Link × Nat)
  downs    : List Link
  hostRead : Option Word
  told     : Option (Nat × Nat)
  report   : Option Report
  irqs     : Nat
  versions : Sparse (List Version)
  trans    : List (Nat × Nat × Leaf)
  users    : Sparse (List (Nat × Nat))
  ctlIrqs  : Nat
  booted   : List FlashImage
deriving DecidableEq, Repr

/-- The state right after module reset (R402): no context, no launch, every core gated with its banks in CACHE mode,
B0 to B15 zero, every Quartz unit UNSET, MSTAT zero; what the spec states no reset value for is named in the log
entries 2 to 5. -/
def State.reset : State where
  clk := 0
  stepNo := 0
  agenda := []
  issue := none
  mem := []
  groups := []
  tiles := []
  blocks := []
  launches := []
  ctxs := []
  cores := []
  dies := []
  bounds := []
  stamps := []
  history := []
  moves := []
  shards := []
  nextId := 0
  turn := 0
  mstat := MStat.mk false 0 false false false false
  mbox := Mailbox.mk [] none none
  aperture := 0
  peers := []
  ptmBound := none
  ptm := none
  ctlDrift := 2500
  log := []
  listed := []
  spared := []
  retired := []
  rowErrors := []
  debugged := false
  linkErrs := []
  downs := []
  hostRead := none
  told := none
  report := none
  irqs := 0
  versions := []
  trans := []
  users := []
  ctlIrqs := 0
  booted := []

end Sys2Proof.Machine
end

