-- ==== Sys2Proof/Machine/Ops.lean ====
section
/-!
DEFINITION. The named operations over memory, registers, translation and time; taking a fault and returning from one; how
an issued instruction completes, waits or faults.
-/
namespace Sys2Proof.Machine

/-! ### Physical memory (R321) -/

/-- What a byte that nothing has written reads as: the spec states no contents (DESIGN CHOICE, log entry 4). -/
def Memory.blank : Byte := 0
/-- The canonical form of memory: addresses strictly rising, no entry equal to what an unlisted address reads as. -/
def Memory.wf (m : Sparse Byte) : Bool := Sparse.wf Memory.blank m

/-- One byte of physical memory. -/
def State.byte (s : State) (pa : Nat) : Byte := Sparse.get Memory.blank s.mem pa
/-- One byte of physical memory written. -/
def State.setByte (s : State) (pa : Nat) (b : Byte) : State :=
  { s with mem := Sparse.put Memory.blank s.mem pa b }
/-- `n` bytes from a physical address. -/
def State.bytes (s : State) (pa n : Nat) : List Byte := (List.range n).map (fun i => s.byte (pa + i))
/-- Bytes written from a physical address on. -/
def State.setBytes (s : State) (pa : Nat) : List Byte → State
  | [] => s
  | b :: r => (s.setByte pa b).setBytes (pa + 1) r
/-- A little-endian number of `n` bytes in physical memory. -/
def State.num (s : State) (pa n : Nat) : Nat := ofLe (s.bytes pa n)
/-- A little-endian number of `n` bytes written. -/
def State.setNum (s : State) (pa n x : Nat) : State := s.setBytes pa (leBytes n x)

/-- The die whose DRAM holds an address (R321). -/
def dramDie (pa : Nat) : Option Nat :=
  if pa < 0x8000000000 && pa % 0x2000000000 < 0x1800000000 then some (pa / 0x2000000000) else none
/-- The system range (R321). -/
def inSystem (pa : Nat) : Bool := 0x10000000000 ≤ pa && pa < 2 ^ 56

/-! ### Cores, dies, groups -/

/-- A core by its number: 32 × die + 8 × cluster + core. -/
def State.core (s : State) (c : Nat) : Core := Sparse.get Core.idle s.cores c
/-- A core replaced. -/
def State.setCore (s : State) (c : Nat) (x : Core) : State := { s with cores := Sparse.put Core.idle s.cores c x }
/-- A die by its number. -/
def State.die (s : State) (d : Nat) : Die := Sparse.get Die.reset s.dies d
/-- A die replaced. -/
def State.setDie (s : State) (d : Nat) (x : Die) : State := { s with dies := Sparse.put Die.reset s.dies d x }
/-- A group by its handle. -/
def State.group? (s : State) (g : Nat) : Option Group := Sparse.find? s.groups g
/-- A group replaced. -/
def State.setGroup (s : State) (g : Nat) (x : Group) : State := { s with groups := Sparse.set s.groups g x }
/-- A group updated, where it exists. -/
def State.updGroup (s : State) (g : Nat) (k : Group → Group) : State :=
  match s.group? g with
  | some x => s.setGroup g (k x)
  | none => s
/-- A tile context by its handle. -/
def State.tile? (s : State) (t : Nat) : Option Tile := Sparse.find? s.tiles t
/-- A tile context replaced. -/
def State.setTile (s : State) (t : Nat) (x : Tile) : State := { s with tiles := Sparse.set s.tiles t x }
/-- A block by its handle. -/
def State.block? (s : State) (b : Nat) : Option Block := Sparse.find? s.blocks b
/-- A block replaced. -/
def State.setBlock (s : State) (b : Nat) (x : Block) : State := { s with blocks := Sparse.set s.blocks b x }
/-- A launch by its handle. -/
def State.launch? (s : State) (l : Nat) : Option Launch := Sparse.find? s.launches l
/-- A launch replaced. -/
def State.setLaunch (s : State) (l : Nat) (x : Launch) : State := { s with launches := Sparse.set s.launches l x }
/-- A context by its number. -/
def State.ctx? (s : State) (c : Nat) : Option Ctx := Sparse.find? s.ctxs c
/-- A context replaced. -/
def State.setCtx (s : State) (c : Nat) (x : Ctx) : State := { s with ctxs := Sparse.set s.ctxs c x }
/-- A context updated, where it exists. -/
def State.updCtx (s : State) (c : Nat) (k : Ctx → Ctx) : State :=
  match s.ctx? c with
  | some x => s.setCtx c (k x)
  | none => s
/-- The context of a launch, by the launch's handle. -/
def State.ctxOf (s : State) (l : Nat) : Nat := match s.launch? l with | some x => x.ctx | none => 0
/-- The die of a core. -/
def dieOf (core : Nat) : Nat := core / 32
/-- The core that CORE field `c` of a .sp address names, seen from core `own` (R295). -/
def spCore (own c : Nat) : Nat := own / 8 * 8 + (own + c) % 8

/-! ### Registers of a group -/

/-- V register `r` of thread `t` (R18). -/
def Group.rv (x : Group) (t r : Nat) : Word := Sparse.get 0 x.v (32 * r + t)
/-- V register `r` of thread `t` written. -/
def Group.wv (x : Group) (t r : Nat) (w : Word) : Group := { x with v := Sparse.put 0 x.v (32 * r + t) w }
/-- P register `r` of thread `t`; P15 reads as all ones (R21). -/
def Group.rp (x : Group) (t r : Nat) : BitVec 8 := if r = 15 then 0xFF else Sparse.get 0 x.p (32 * r + t)
/-- P register `r` of thread `t` written; P15 ignores writes (R21). -/
def Group.wp (x : Group) (t r : Nat) (b : BitVec 8) : Group :=
  if r = 15 then x else { x with p := Sparse.put 0 x.p (32 * r + t) b }
/-- S register `r`. -/
def Group.rs (x : Group) (r : Nat) : Word := Sparse.get 0 x.s r
/-- S register `r` written. -/
def Group.ws (x : Group) (r : Nat) (w : Word) : Group := { x with s := Sparse.put 0 x.s r w }
/-- The element of width `w` at byte offset `e` of V register `r` in thread `t` (R26). -/
def Group.elemV (x : Group) (t r e w : Nat) : Nat := elem (x.rv t r) e w
/-- That element written. -/
def Group.setElemV (x : Group) (t r e w val : Nat) : Group := x.wv t r (setElem (x.rv t r) e w val)
/-- The byte flags of an element of `n` bytes at byte offset `e`, all set to `b` (R115). -/
def setFlags (p : BitVec 8) (e n : Nat) (b : Bool) : BitVec 8 :=
  let m : BitVec 8 := BitVec.ofNat 8 ((2 ^ n - 1) * 2 ^ e)
  if b then p ||| m else p &&& ~~~m
/-- The byte flags of an element in P register `r` of thread `t` written. -/
def Group.setFlagsP (x : Group) (t r e n : Nat) (b : Bool) : Group := x.wp t r (setFlags (x.rp t r) e n b)
/-- Whether the guard enables byte offset `e` in thread `t` (R21). -/
def Group.enabled (x : Group) (g : Guard) (t e : Nat) : Bool := (x.rp t g.pred.toNat).getLsbD e != g.neg
/-- The number of threads. -/
def Group.nthr (x : Group) : Nat := x.threads.length
/-- A thread of the group. -/
def Group.thread (x : Group) (t : Nat) : Thread := x.threads.getD t (Thread.mk 0 .retired)
/-- A thread replaced. -/
def Group.setThread (x : Group) (t : Nat) (y : Thread) : Group := { x with threads := x.threads.set t y }
/-- Every thread of a mask changed. -/
def Group.mapThreads (x : Group) (m : Mask) (k : Thread → Thread) : Group :=
  { x with threads := x.threads.mapIdx (fun t y => if m.getLsbD t then k y else y) }
/-- The lowest thread of a set (R88). -/
def leader (m : Mask) : Nat := ((threadsOf m).head?).getD 0
/-- The threads of the active set whose guard bit `e` is set (R88, R138). -/
def Group.enabledSet (x : Group) (g : Guard) (active : Mask) (e : Nat) : List Nat :=
  (threadsOf active).filter (fun t => x.enabled g t e)
/-- The mask of threads whose state satisfies a test. -/
def Group.maskWhere (x : Group) (k : Thread → Bool) : Mask :=
  maskOf ((List.range x.nthr).filter (fun t => k (x.thread t)))
/-- Threads that have not exited (R108). -/
def Group.live (x : Group) : Mask := x.maskWhere (fun y => y.st != .retired)
/-- Operations outstanding in a class (R152). -/
def Group.count (x : Group) (c : Cls) : Nat := (x.ops.filter (fun o => o.cls == c)).length
/-- FLAGS with bits set (R68). -/
def Group.raiseFlags (x : Group) (f : BitVec 6) : Group := { x with flags := x.flags ||| f }

/-! ### Time (R108, R375, R379) -/

/-- Local time in quarter nanoseconds since a clock: one clock is 1.25 ns (R2). -/
def quartersSince (now base : Nat) : Nat := (now - base) * 5
/-- Earliest of a die (R375, R379). -/
def State.earliest (s : State) (d : Nat) : Nat :=
  let q := (s.die d).quartz
  if q.state = .unset then 0
  else q.e0 + quartersSince s.clk q.base * (100000000 - q.qdrift.toNat) / 400000000
/-- Latest of a die (R375, R379). -/
def State.latest (s : State) (d : Nat) : Nat :=
  let q := (s.die d).quartz
  if q.state = .unset then 2 ^ 64 - 1
  else q.l0 + (quartersSince s.clk q.base * (100000000 + q.qdrift.toNat) + 399999999) / 400000000
/-- The half-width of a die's interval exceeds QLIM (R183, R379). -/
def State.tooWide (s : State) (d : Nat) : Bool :=
  decide (2 * (s.die d).quartz.qlim.toNat < s.latest d - s.earliest d)

/-! ### Lost units and unlisted peers (R386, R399) -/

/-- The lost units and lines that a physical span touches; those of the system range stand in the tables of the dies through which they
were written (R386). -/
def State.lostOn (s : State) (pa n : Nat) : List (Nat × Nat) :=
  (match dramDie pa with
   | some d => (s.die d).lost
   | none => if inSystem pa then List.flatMap (fun (p : Nat × Die) => p.2.lost) s.dies else []).filter (fun u => u.1 < pa + n && pa < u.1 + u.2)
/-- Whether a physical span touches a unit or line that is lost (R386). -/
def State.lostIn (s : State) (pa n : Nat) : Bool := !(s.lostOn pa n).isEmpty
/-- The port that carries an address of a peer: one for each line of 128 bytes, among those assigned to the peer (R399). -/
def State.peerPort (s : State) (pa : Nat) : Option Nat :=
  let ports := (s.peers.filter (fun r => r.1 == bits pa 49 6)).map (·.2)
  ports[Config.portOf (bits pa 49 6) (pa / 128) % ports.length]?
/-- A system-range address of a peer with no assigned port, or over a port that is down (R383, R399). -/
def State.unlistedPeer (s : State) (pa : Nat) : Bool :=
  0x80000000000000 ≤ pa && pa < 2 ^ 56 &&
    (match s.peerPort pa with | some p => s.downs.contains (.stolvin p) | none => true)
/-- The offset at which a physical span first goes over a port that is down or to an unlisted peer, line by line (R383, R399). -/
def State.peerLost (s : State) (pa n : Nat) : Option Nat :=
  if pa + n ≤ 0x80000000000000 then none
  else ((List.range ((pa % 128 + n + 127) / 128)).map (fun k => 128 * k - pa % 128)).find? (fun i => s.unlistedPeer (pa + i))
/-- The offset at which an access to a physical span first meets an uncorrectable error: a lost unit but those that are `spared`, or a
peer out of reach (R384, R386, R399). -/
def State.badAt (s : State) (pa n : Nat) (spared : Nat × Nat → Bool) : Option Nat :=
  least (((s.lostOn pa n).filter (fun u => !spared u)).map (fun u => u.1 - pa) ++ (s.peerLost pa n).toList)
/-- An access to a physical span meets no uncorrectable error. -/
def State.sound (s : State) (pa n : Nat) : Bool := !s.lostIn pa n && (s.peerLost pa n).isNone
/-- A unit lies within physical spans, taken together. -/
def coveredBy (ps : List (Nat × Nat)) (u : Nat × Nat) : Bool :=
  (List.range u.2).all (fun i => ps.any (fun p => p.1 ≤ u.1 + i && u.1 + i < p.1 + p.2))

/-! ### Translation (R320 to R326) -/

/-- A canonical address (R320). -/
def canonical (va : Nat) : Bool := let t := va >>> 56; t == 0 || t == 0xFF

/-- What a walk finds (R324); `lost` is an entry that cannot be read (R384). -/
inductive Walk where
  | leaf (l : Leaf)
  | unmapped
  | malformed
  | lost
deriving DecidableEq, Repr

/-- Fields of a leaf entry (R323). -/
def Leaf.bit (l : Leaf) (i : Nat) : Bool := bitAt l.value i
/-- FRAME as an address (R323). -/
def Leaf.frame (l : Leaf) : Nat := bits l.value 16 40 * 65536
/-- HOME (R323). -/
def Leaf.home (l : Leaf) : Nat := bits l.value 56 2

/-- The tests of R324 on a valid leaf entry at a level that may hold one; `res` aside, the frame is tested only when it
is not ignored (R323). -/
def leafWellFormed (e log : Nat) : Bool :=
  let frame := bits e 16 40 * 65536
  let res := bitAt e 2
  bits e 58 6 == 0 && bits e 9 7 == 0 && (bitAt e 6 || !bitAt e 7) &&
    (!res || (frame % 2 ^ log == 0 &&
      (match dramDie frame with
       | some d => bits e 56 2 == d
       | none => inSystem frame && !bitAt e 5)))

/-- The walk from a table on, through the levels left (R322, R324). -/
def walkFrom (s : State) (va table : Nat) : List (Nat × Nat) → Walk
  | [] => .malformed
  | (log, n) :: rest =>
    let at_ := table + 8 * bits va log n
    let e := s.num at_ 8
    if !s.sound at_ 8 then .lost
    else if !bitAt e 0 then .unmapped
    else if bitAt e 1 then
      if log ≤ 30 && leafWellFormed e log then .leaf (Leaf.mk e at_ log) else .malformed
    else if bits e 2 10 == 0 && bits e 56 8 == 0 then walkFrom s va (bits e 12 44 * 4096) rest
    else .malformed

/-- The address of the entry at which a walk stops because it cannot be read (R384). -/
def lostEntry (s : State) (va table : Nat) : List (Nat × Nat) → Option Nat
  | [] => none
  | (log, n) :: rest =>
    let at_ := table + 8 * bits va log n
    let e := s.num at_ 8
    if !s.sound at_ 8 then some at_
    else if bitAt e 0 && !bitAt e 1 then lostEntry s va (bits e 12 44 * 4096) rest
    else none

/-- The levels of R322: the low bit of each index and its width. -/
def levels : List (Nat × Nat) := [(48, 9), (39, 9), (30, 9), (21, 9), (16, 5)]

/-- The walk of a context's page tables. -/
def State.walk (s : State) (root va : Nat) : Walk := walkFrom s va root levels

/-- The translation that the operation of the step at hand took at its issue (R325). -/
def State.ownTrans (s : State) (c va : Nat) : Option Leaf :=
  (s.trans.find? (fun e => e.1 == c && e.2.1 == va / 65536)).map (·.2.2)
/-- The translation of a page that a cache still holds, whichever part of the page it was used for. -/
def Ctx.heldLeaf (x : Ctx) (va : Nat) : Option Leaf :=
  match Sparse.get none x.held (va / 65536) with
  | some h => some h
  | none => x.held.findSome? (fun e => match e.2 with
    | some h => if e.1 * 65536 / 2 ^ h.log = va / 2 ^ h.log then some h else none
    | none => none)
/-- The translation an access uses, one for all parts of a page: its operation's own, or the page table's, or, until INVAL, the one
a cache still holds (R325, R326). -/
def State.leafFor (s : State) (c va : Nat) : Walk :=
  match s.ownTrans c va, s.ctx? c with
  | some h, _ => .leaf h
  | none, none => .unmapped
  | none, some x =>
    let w := s.walk x.root va
    match x.heldLeaf va with
    | none => w
    | some h =>
      let log := match w with | .leaf l => max l.log h.log | _ => h.log
      if w = .leaf h then w else if Config.usesHeldTranslation s.stepNo (va / 2 ^ log) then .leaf h else w

/-- The physical address of a virtual address under a leaf (R322). -/
def Leaf.pa (l : Leaf) (va : Nat) : Nat := l.frame + va % 2 ^ l.log

/-- The physical address an access reaches, none where no translation exists. -/
def State.pa? (s : State) (c va : Nat) : Option Nat :=
  match s.leafFor c va with
  | .leaf l => if l.bit 2 then some (l.pa va) else none
  | _ => none

/-- The home die of a virtual address: the HOME field of its leaf (R4, R323). -/
def State.homeDie (s : State) (c va : Nat) : Nat :=
  match s.leafFor c va with
  | .leaf l => l.home
  | _ => 0

/-- The physical address that an access reaches, with the die that serves it: the HOME of the leaf (R4, R323, R400). -/
def State.place? (s : State) (c va : Nat) : Option (Nat × Nat) :=
  match s.leafFor c va with
  | .leaf l => if l.bit 2 then some (l.pa va, l.home) else none
  | _ => none

/-! ### The paths of global memory, and the caches that keep older bytes (R251, R266 to R269, R280, R400) -/

/-- The access paths by their codes (R52). -/
def pathGen : Nat := 0
/-- The constant path. -/
def pathCst : Nat := 1
/-- The layout path. -/
def pathLay : Nat := 2
/-- A write that is made on no path of a core, by the host or a peer; every path is its own. -/
def pathAll : Nat := 3
/-- Who reads and writes at a home: an agent of no core (R263). -/
def homeCore : Nat := 128

/-- The cache of a core on a path; .gen has none in this model (log entry 1). -/
def Core.cacheOf (x : Core) (path : Nat) : Sparse (Option Nat) := if path = 1 then x.cst else if path = 2 then x.lay else []
/-- That cache replaced. -/
def Core.setCache (x : Core) (path : Nat) (m : Sparse (Option Nat)) : Core :=
  if path = 1 then { x with cst := m } else if path = 2 then { x with lay := m } else x
/-- What stood in a cache has left it, the codes that could not be corrected too (R384). -/
def Core.mendCache (x : Core) (path : Nat) : Core :=
  { x with bad := x.bad.filter (fun b => match b with | .cache q _ => q != path | _ => true) }
/-- A cache holds a line as it was before a step. -/
def heldBefore (m : Sparse (Option Nat)) (line step : Nat) : Bool :=
  match Sparse.get none m line with | some t => decide (t < step) | none => false
/-- The lines of a span enter a cache at a step; one that it holds already stays as it was. -/
def enterLines (m : Sparse (Option Nat)) (pa n step : Nat) : Sparse (Option Nat) :=
  (List.range ((pa + n + 127) / 128 - pa / 128)).foldl (fun m i =>
    match Sparse.get none m (pa / 128 + i) with
    | some _ => m
    | none => Sparse.put none m (pa / 128 + i) (some step)) m

/-- The writes to a byte, newest first. -/
def State.writesTo (s : State) (pa : Nat) : List Version := Sparse.get [] s.versions pa
/-- A reader on a path, as a tag of the versions that it has been made to see. -/
def readerTag (core path : Nat) : Nat := 4 * core + path
/-- A write on a reader's own path is visible to it, unless the core's cache of the path still holds the line as it was before,
and the write is another core's (R251, R269); a write on another path is when a PFENCE has made it so (R164, R280). -/
def State.seesOnPath (s : State) (core path pa : Nat) (v : Version) : Bool :=
  v.seen.contains (readerTag core path) ||
    ((v.path == path || v.path == pathAll) &&
      (v.core == core || !heldBefore ((s.core core).cacheOf path) (pa / 128) v.time))
/-- A write to a system-range page is visible through a HOME, unless it was made elsewhere and the L2 of that die still holds the
line as it was before (R400). -/
def State.seesAtHome (s : State) (die : Option Nat) (pa : Nat) (v : Version) : Bool :=
  !inSystem pa || (match die with
    | none => true
    | some d => v.die == some d || !heldBefore (s.die d).l2 (pa / 128) v.time)
/-- A write is visible to a reader: a core and its path, through a die. Where nothing makes it so, it becomes visible at a moment
that a free value names, and stays so (R267; log entry 8). -/
def State.sees (s : State) (core path : Nat) (die : Option Nat) (pa : Nat) (v : Version) : Bool :=
  (s.seesOnPath core path pa v && s.seesAtHome die pa v) ||
    decide (v.time + Config.visibleAfter v.time v.at_ (readerTag core path) (if inSystem pa then die.getD 4 else 4) ≤ s.stepNo)
/-- The byte after the newest visible write, where `now` is the byte after them all (R267). -/
def newest (visible : Version → Bool) (now : Byte) : List Version → Byte
  | [] => now
  | v :: older => if visible v then now else newest visible v.before older
/-- The byte that a reader finds. -/
def State.viewByte (s : State) (core path : Nat) (die : Option Nat) (pa : Nat) : Byte :=
  newest (s.sees core path die pa) (s.byte pa) (s.writesTo pa)
/-- The bytes that a reader finds. -/
def State.view (s : State) (core path : Nat) (die : Option Nat) (pa n : Nat) : List Byte :=
  if s.versions.isEmpty then s.bytes pa n else (List.range n).map (fun i => s.viewByte core path die (pa + i))

/-- The writes of a span are noted before they are made: the bytes of one request, within a line, as one write (R150). -/
def State.note (s : State) (path core : Nat) (die : Option Nat) (pa n : Nat) : State :=
  { s with versions := (List.range n).foldl (fun m i =>
      let v := Version.mk s.stepNo (max pa ((pa + i) / 128 * 128)) path core die (s.byte (pa + i)) []
      Sparse.put [] m (pa + i) (v :: Sparse.get [] m (pa + i))) s.versions }
/-- Bytes written at a physical address on a path, by an agent of a core, through a die. -/
def State.putBytes (s : State) (path core : Nat) (die : Option Nat) (pa : Nat) (l : List Byte) : State :=
  (s.note path core die pa l.length).setBytes pa l
/-- A write that stands below the newer ones that its agent has not seen: the byte after them all, where `now` was, and the list
(R268). -/
def insertBelow (visible : Version → Bool) (made : Byte → Version) (b now : Byte) : List Version → Byte × List Version
  | [] => (b, [made now])
  | v :: older =>
    if visible v then (b, made now :: v :: older)
    else
      let (c, l) := insertBelow visible made b v.before older
      (now, { v with before := c } :: l)
/-- One byte of an atomic written at its home: it stands in coherence order where its read stood (R268, R284). -/
def State.putAtomic (s : State) (core : Nat) (die : Option Nat) (start pa : Nat) (b : Byte) : State :=
  let made (old : Byte) : Version := Version.mk s.stepNo (max start (pa / 128 * 128)) pathGen core die old []
  let (now, l) := insertBelow (s.sees core pathGen none pa) made b (s.byte pa) (s.writesTo pa)
  { s with versions := Sparse.put [] s.versions pa l }.setByte pa now
/-- The bytes of an atomic. -/
def State.putAtomics (s : State) (core : Nat) (die : Option Nat) (start pa : Nat) : List Byte → State
  | [] => s
  | b :: r => (s.putAtomic core die start pa b).putAtomics core die start (pa + 1) r

/-- The lines of a system span stay in the L2 of the die that served it (R400). -/
def State.fillL2 (s : State) (d pa n : Nat) : State :=
  if !inSystem pa then s else s.setDie d { s.die d with l2 := enterLines (s.die d).l2 pa n s.stepNo }
/-- An acquire at .sys invalidates the system-range lines of every die (R400). -/
def State.dropL2 (s : State) : State := { s with dies := s.dies.map (fun p => (p.1, { p.2 with l2 := [] })) }

/-- The kinds of access that R324 tells apart. -/
inductive Access where
  | read | write | fetch | probe
deriving DecidableEq, Repr

/-- A failing check: its number in the table of R151, with 8 for uncorrectable data (R384), and the fault. -/
structure Failure where
  order : Nat
  info  : FaultInfo
deriving DecidableEq, Repr

/-- A fault with its cause, address and thread. -/
def mkFault (cause addr : Nat) (thread : Option Nat) : FaultInfo :=
  FaultInfo.mk (BitVec.ofNat 8 cause) thread addr 0 false false false

/-- A failing check. -/
def failure (order cause addr : Nat) (thread : Option Nat) : Failure := Failure.mk order (mkFault cause addr thread)

/-- The failing checks of an access that writes, or that does not (R336). -/
def wrote (w : Bool) (l : List Failure) : List Failure := l.map (fun f => { f with info := { f.info with write := w } })

/-- The range of an ownership instruction that a context's list names: whether it is VREL, base and length (R185). -/
def State.ownRange (s : State) (r : OpRef) : Option (Bool × Nat × Nat) :=
  match s.group? r.group with
  | none => none
  | some x => match x.ops.find? (fun o => o.id == r.op) with
    | none => none
    | some o => match o.work, o.instr with
      | .range b n, .vrel _ => some (true, b, n)
      | .range b n, .vacq _ => some (false, b, n)
      | _, _ => none
/-- Two ranges of addresses meet. -/
def meets (a m b n : Nat) : Bool := a < b + n && b < a + m
/-- Entries of a list after which no earlier entry of the other kind meets them: they have taken their turn (R330). -/
def begunRels (l : List (Bool × Nat × Nat)) : List (Nat × Nat) :=
  (l.foldl (fun (acc : List (Bool × Nat × Nat) × List (Nat × Nat)) e =>
    let held := acc.1.any (fun q => q.1 != e.1 && meets q.2.1 q.2.2 e.2.1 e.2.2)
    (acc.1 ++ [e], if e.1 && !held then acc.2 ++ [e.2] else acc.2)) ([], [])).2
/-- A VREL has begun on a page (R329). -/
def State.releasing (s : State) (c va : Nat) : Bool :=
  match s.ctx? c with
  | none => false
  | some x => !x.vacqs.isEmpty &&
    (begunRels (x.vacqs.filterMap s.ownRange)).any (fun r => r.1 ≤ va && va < r.1 + r.2)

/-- The failing checks of one page of an access (R324, checks 3 to 6 of R151, and R386). `stamped` is the STAMPED
attribute the instruction needs, if it cares. -/
def State.pageFailures (s : State) (c va n : Nat) (k : Access) (stamped : Option Bool) (th : Option Nat) : List Failure :=
  let mark (f : Failure) (m : Bool) : Failure :=
    { f with info := { f.info with malf := m, write := k == .write } }
  match s.leafFor c va with
  | .malformed => [mark (failure 4 0x09 va th) true]
  | .unmapped => [mark (failure 4 0x09 va th) false]
  | .lost => [mark (failure 8 0x0D va th) false]
  | .leaf l =>
    if !l.bit 2 then (if k == .probe then [] else [mark (failure 3 0x08 va th) false])
    else if (k == .write && !l.bit 3) || (k == .fetch && !l.bit 4) then [mark (failure 4 0x09 va th) false]
    else if l.bit 6 && (l.bit 7 || s.releasing c va) then [mark (failure 5 0x0A va th) false]
    else if (match stamped with | some b => l.bit 5 != b | none => false) then [mark (failure 6 0x0B va th) false]
    else if (k != .write && s.lostIn (l.pa va) n) || (s.peerLost (l.pa va) n).isSome then [mark (failure 8 0x0D va th) false]
    else []

/-- The pieces of a span that lie in distinct 64 KiB pages: address and length. -/
def pagePieces (va n : Nat) : List (Nat × Nat) :=
  if n = 0 then []
  else
    let first := va / 65536
    let count := (va + n - 1) / 65536 - first + 1
    (List.range count).map (fun i =>
      let lo := max va ((first + i) * 65536)
      let hi := min (va + n) ((first + i + 1) * 65536)
      (lo % 2 ^ 64, hi - lo))

/-- The pieces of an element of `n` bytes that lie in distinct lines: address and first byte (R183, R150). -/
def linePieces (a n : Nat) : List (Nat × Nat × Nat) :=
  ((List.range n).filter (fun i => i = 0 || (a + i) % 128 = 0)).map (fun i =>
    (wrap64 (a + i), i, min (n - i) (128 - (a + i) % 128)))
/-- The failing checks of a span of global memory (checks 1 and 3 to 6 of R151). -/
def State.spanFailures (s : State) (c va n : Nat) (k : Access) (stamped : Option Bool) (th : Option Nat) : List Failure :=
  if !canonical va || !canonical (wrap64 (va + n - 1)) then wrote (k == .write) [failure 1 0x09 va th]
  else (pagePieces va n).flatMap (fun p => s.pageFailures c p.1 p.2 k stamped th)

/-- The checks that an engine operation makes at issue: uncorrectable data it reports as it meets it (R151, R385). -/
def atIssue (l : List Failure) : List Failure := l.filter (fun e => e.order != 8)
/-- The physical spans of a list of spans. -/
def State.physOf (s : State) (c : Nat) (l : List (Nat × Nat)) : List (Nat × Nat) :=
  l.flatMap (fun q => (pagePieces q.1 q.2).filterMap (fun p => (s.pa? c p.1).map (fun pa => (pa, p.2))))
/-- The first address at which an access to a list of spans meets an uncorrectable error: a lost unit that it reads, or of which it
writes a part, a peer that no port reaches, or a table entry that cannot be read (R384, R386, R399). -/
def State.badIn (s : State) (c : Nat) (l : List (Nat × Nat)) (read : Bool) : Option Nat :=
  let spared (u : Nat × Nat) : Bool := !read && coveredBy (s.physOf c l) u
  (l.flatMap (fun q => pagePieces q.1 q.2)).findSome? (fun p => match s.leafFor c p.1 with
    | .lost => some p.1
    | .leaf y => if y.bit 2 then (s.badAt (y.pa p.1) p.2 spared).map (fun i => p.1 + i) else none
    | _ => none)
/-- That of one span. -/
def State.badSpan (s : State) (c va n : Nat) (read : Bool) : Option Nat := s.badIn c [(va, n)] read
/-- The failing checks of the elements that a store writes: one that writes a part of a lost unit which the store does not cover whole
(R384, R386). -/
def State.partFailures (s : State) (c n : Nat) (es : List (Nat × Nat)) : List Failure :=
  let spared := coveredBy (s.physOf c (es.map (fun e => (e.2, n))))
  es.flatMap (fun e => if (s.physOf c [(e.2, n)]).all (fun p => (s.lostOn p.1 p.2).all spared) then []
    else wrote true [failure 8 0x0D e.2 (some e.1)])

/-- The failure that R151 reports: the lowest check, and within it the first listed. -/
def firstFailure : List Failure → Option FaultInfo
  | [] => none
  | f :: r =>
    match r.filter (fun g => g.order < f.order) with
    | [] => some f.info
    | _ => match (List.range f.order).findSome? (fun o => r.find? (fun g => g.order == o)) with
      | some g => some g.info
      | none => some f.info

/-- Bytes that an agent of a core reads on a path at a virtual address, translated page by page; a byte without translation reads 0
(the checks come first). -/
def State.cachedRead (s : State) (core c path va n : Nat) : List Byte :=
  (pagePieces va n).flatMap (fun p =>
    match s.place? c p.1 with
    | some (pa, d) => s.view core path (some d) pa p.2
    | none => List.replicate p.2 0)
/-- Bytes of global memory as the home of an address serves them on .gen (R372). -/
def State.vread (s : State) (c va n : Nat) : List Byte := s.cachedRead homeCore c pathGen va n

/-- Lost units that written physical spans cover whole between them are usable again (R386). -/
def State.mend (s : State) (ps : List (Nat × Nat)) : State :=
  if s.dies.any (fun p => p.2.lost.any (coveredBy ps)) then
    { s with dies := s.dies.map (fun p => (p.1, { p.2 with lost := p.2.lost.filter (fun u => !coveredBy ps u) })) }
  else s
/-- Those that one span covers. -/
def State.heal (s : State) (pa n : Nat) : State := s.mend [(pa, n)]

/-- Bytes written on a path at a virtual address, by an agent of a core (R251). -/
def State.pathWrite (s : State) (core c path va : Nat) (l : List Byte) : State :=
  (pagePieces va l.length).foldl (fun s p =>
    match s.place? c p.1 with
    | some (pa, d) => (s.putBytes path core (some d) pa ((l.drop (wrap64 (p.1 + 2 ^ 64 - wrap64 va))).take p.2)).heal pa p.2
    | none => s) s
/-- Bytes written to global memory on .gen, at the home of an address (R372). -/
def State.vwrite (s : State) (c va : Nat) (l : List Byte) : State := s.pathWrite homeCore c pathGen va l

/-- Those that the spans of one store or copy cover between them. -/
def State.healAll (s : State) (c : Nat) (spans : List (Nat × Nat)) : State := s.mend (s.physOf c spans)

/-- A little-endian number of `n` bytes at a virtual address. -/
def State.vnum (s : State) (c va n : Nat) : Nat := ofLe (s.vread c va n)
/-- A little-endian number of `n` bytes written at a virtual address. -/
def State.vsetNum (s : State) (c va n x : Nat) : State := s.vwrite c va (leBytes n x)

/-- Stamps of every line of a physical span discarded (R344). -/
def State.dropStamps (s : State) (pa n : Nat) : State :=
  { s with stamps := s.stamps.filter (fun p => !(pa ≤ p.1 * 128 && p.1 * 128 < pa + n)) }
/-- A page, by context and number, is mapped onto a frame of 64 KiB as stamped memory. -/
def State.mapsFrame (s : State) (u : Nat × Nat) (k : Nat) : Bool :=
  match s.ctx? u.1 with
  | some x => (match s.walk x.root (u.2 * 65536) with
    | .leaf l => l.bit 5 && l.bit 2 && l.pa (u.2 * 65536) / 65536 == k
    | _ => false)
  | none => false
/-- A commit is pending on a frame. -/
def State.framePending (s : State) (k : Nat) : Bool :=
  s.stamps.any (fun p => p.1 / 512 == k && !p.2.pending.isEmpty)
/-- A page is one of those through which its frame is stamped memory. One that reaches a frame onto which no other is mapped any longer has
received the attribute there since, so that its stamps read 0 (R324, R344; log entry 106). -/
def State.noteStamped (s : State) (c page : Nat) (l : Leaf) : State :=
  if !l.bit 5 then s
  else
    let k := l.pa (page * 65536) / 65536
    let us := Sparse.get [] s.users k
    if us.contains (c, page) then s
    else if us.any (fun u => s.mapsFrame u k) || s.framePending k then { s with users := Sparse.put [] s.users k (us ++ [(c, page)]) }
    else { s with users := Sparse.put [] s.users k [(c, page)] }.dropStamps (k * 65536) 65536
/-- The translations of a span kept by the caches after a use: what some cache of the context holds of a page stays until it is
invalidated, for another agent may still use it (R325, R326; log entry 7); and the span's lines where they are of the system range
(R400). -/
def State.hold (s : State) (c va n : Nat) : State :=
  (pagePieces va n).foldl (fun s p =>
    match s.leafFor c p.1 with
    | .leaf l =>
      if l.bit 2 then
        ((s.fillL2 l.home (l.pa p.1) p.2).noteStamped c (p.1 / 65536) l).updCtx c
          (fun x => match x.heldLeaf p.1 with
            | some _ => x
            | none => { x with held := Sparse.put none x.held (p.1 / 65536) (some l) })
      else s
    | _ => s) s

/-! ### Reads and PFENCE on the paths of global memory (R164, R251, R280) -/

/-- The failing check of a read on a path: a word that the core's cache of the path still holds has a code that cannot be corrected;
a free value tells whether the line has left the cache since (R384; log entry 8). -/
def State.cacheFailures (s : State) (core c path va n : Nat) (th : Option Nat) : List Failure :=
  let hit (pa m : Nat) : Bool := (s.core core).bad.any (fun b => match b with
    | .cache q w => q == path && meets pa m (8 * w) 8 && Config.cacheStillHolds s.stepNo (8 * w)
    | _ => false)
  if (s.core core).bad.isEmpty then []
  else if (pagePieces va n).any (fun p => match s.pa? c p.1 with | some pa => hit pa p.2 | none => false) then [failure 8 0x0D va th]
  else []
/-- The lines that a read on a path touches stay in the core's cache of the path. -/
def State.cacheFill (s : State) (core c path va n : Nat) : State :=
  (pagePieces va n).foldl (fun s p =>
    match s.pa? c p.1 with
    | some pa => s.setCore core ((s.core core).setCache path (enterLines ((s.core core).cacheOf path) pa p.2 s.stepNo))
    | none => s) s
/-- PFENCE from `p` to `q`: every write that the core's agents see on `p` is visible to their later reads on `q`, and where `q` is
.gen to what they have a home do (R164). -/
def State.joinPaths (s : State) (core p q : Nat) : State :=
  let tags := if 3 ≤ p || 3 ≤ q then [] else if q = pathGen then [readerTag core q, readerTag homeCore pathGen] else [readerTag core q]
  { s with versions := s.versions.map (fun e => (e.1, e.2.map (fun v =>
      if s.sees core p none e.1 v then { v with seen := nubNat (v.seen ++ tags) } else v))) }

/-! ### Acquires and `.sc` fences (R264, R275 to R277, R283, R400) -/

/-- The cores of a scope around a core (R264). -/
def State.coresIn (s : State) (core scope : Nat) : List Nat :=
  if scope ≤ 1 then [core]
  else (s.cores.map (·.1)).filter (fun k => if scope = 2 then k / 8 == core / 8 else if scope = 3 then dieOf k == dieOf core else true)
/-- What a core's layout cache holds leaves it, so that its later reads on .lay find every write on .lay. -/
def State.dropLay (s : State) (core : Nat) : State := s.setCore core ({ s.core core with lay := [] }.mendCache 2)
/-- An acquire by an agent of a core at a scope: no later read on a path finds what was older than a write that it makes
visible (R275), and at .sys the lines of the system range leave every L2 (R400). An acquire at .grp or .core synchronises only
with the core's own agents, whose writes its caches hold already (log entry 75). -/
def State.acquire (s : State) (core scope : Nat) : State :=
  let s1 := if scope ≤ 1 then s else s.dropLay core
  if scope = 5 then s1.dropL2 else s1
/-- A FENCE.sc: besides, no core within the scope goes on reading what is older than a write visible to the thread (R276). -/
def State.scFence (s : State) (core scope : Nat) : State :=
  ((s.coresIn core scope).foldl (fun s k => s.dropLay k) s).acquire core scope
/-- The orders that acquire and that release (R52, R272, R274). -/
def acquires (order : Nat) : Bool := order == 1 || order == 3 || order == 4
/-- The acquire of an access that carries one (R274, R275). -/
def State.acquireBy (s : State) (core order scope : Nat) : State := if acquires order then s.acquire core scope else s
/-- The orders that release. -/
def releases (order : Nat) : Bool := order == 2 || order == 3 || order == 4

/-! ### Scratchpad (R149, R252, R255) -/

/-- A scratchpad byte of a core, by its 19-bit offset. -/
def State.spByte (s : State) (core off : Nat) : Byte := Sparse.get 0 (s.core core).sp off
/-- A scratchpad byte written. -/
def State.setSpByte (s : State) (core off : Nat) (b : Byte) : State :=
  let x := s.core core
  s.setCore core { x with sp := Sparse.put 0 x.sp off b }
/-- A bank of a core. -/
def Core.bank (x : Core) (b : Nat) : Bank := Sparse.get Bank.idle x.banks b
/-- A bank replaced. -/
def Core.setBank (x : Core) (b : Nat) (y : Bank) : Core := { x with banks := Sparse.put Bank.idle x.banks b y }
/-- Where a .sp address leads, seen from a core: core and offset (R252, R295). -/
def spDecode (own a : Nat) : Nat × Nat := (spCore own (bits a 19 3), bits a 0 19)
/-- A .sp byte address is good for a block: bits 63:22 zero, the bank in SCRATCH mode and held by it (R149, R252). -/
def State.spOk (s : State) (own block a : Nat) : Bool :=
  a < 2 ^ 22 &&
    (let (c, off) := spDecode own a
     let b := (s.core c).bank (off / 16384)
     b.mode == .scratch && b.holder == some block)
/-- The failing check of a scratchpad span: SP_MAP under check 1 (R149). -/
def State.spFailures (s : State) (own block a n : Nat) (th : Option Nat) : List Failure :=
  let starts := (List.range n).filter (fun i => i = 0 || (a + i) % 16384 = 0)
  if starts.all (fun i => s.spOk own block (a + i)) then [] else [failure 1 0x0E a th]
/-- Bytes of scratchpad at a .sp address. -/
def State.spRead (s : State) (own a n : Nat) : List Byte :=
  (List.range n).map (fun i => let (c, off) := spDecode own (a + i); s.spByte c off)
/-- Bytes put one by one into scratchpad at a .sp address. -/
def State.spPut (s : State) (own a : Nat) : List Byte → State
  | [] => s
  | b :: r => (let (c, off) := spDecode own a; s.setSpByte c off b).spPut own (a + 1) r
/-- The words of SRAM that a .sp span covers whole: core and word. -/
def spWords (own a n : Nat) : List (Nat × Nat) :=
  ((List.range n).filter (fun i => (a + i) % 8 = 0 && i + 8 ≤ n)).map (fun i => let (c, off) := spDecode own (a + i); (c, off / 8))
/-- Words of SRAM that are written whole are encoded anew, and their errors are gone (R382, R384). -/
def State.mendWords (s : State) (l : List (Nat × Nat)) : State :=
  if s.cores.all (fun p => p.2.bad.isEmpty) then s
  else l.foldl (fun s q =>
    let x := s.core q.1
    if x.bad.contains (.sram q.2) then s.setCore q.1 { x with bad := x.bad.filter (· != .sram q.2) } else s) s
/-- Bytes written to scratchpad at a .sp address. -/
def State.spWrite (s : State) (own a : Nat) (l : List Byte) : State := (s.spPut own a l).mendWords (spWords own a l.length)
/-- A core has an uncorrectable code in the words of an SRAM span, offset and length (R384). -/
def Core.badSram (x : Core) (off n : Nat) : Bool :=
  x.bad.any (fun b => match b with | .sram w => meets off n (8 * w) 8 | _ => false)
/-- The full/empty bit of a line of a core (R255). -/
def State.isFull (s : State) (core line : Nat) : Bool := Sparse.get false (s.core core).full line
/-- The full/empty bit set. -/
def State.setFull (s : State) (core line : Nat) (b : Bool) : State :=
  let x := s.core core
  s.setCore core { x with full := Sparse.put false x.full line b }
/-- The lines that a .sp span touches: core and line. -/
def spLines (own a n : Nat) : List (Nat × Nat) :=
  ((List.range n).filter (fun i => i = 0 || (a + i) % 128 = 0)).map (fun i =>
    let (c, off) := spDecode own (a + i); (c, off / 128))
/-- The map slot that covers a line of a core (R257). -/
def Core.mapOf (x : Core) (line : Nat) : Option (Nat × MapSlot) :=
  (List.range 16).findSome? (fun i =>
    match Sparse.get none x.maps i with
    | some m => if m.off ≤ line * 128 && line * 128 < m.off + m.len then some (i, m) else none
    | none => none)
/-- The failing check of a .sp span that is read: a word of it whose code cannot be corrected. In an empty mapped line the fill
still writes it (R257, R384). -/
def State.sramFailures (s : State) (own a n : Nat) (th : Option Nat) : List Failure :=
  let bad (i : Nat) : Bool :=
    let (c, off) := spDecode own (a + i)
    (s.core c).badSram off 1 && (s.isFull c (off / 128) || ((s.core c).mapOf (off / 128)).isNone)
  if s.cores.all (fun p => p.2.bad.isEmpty) then []
  else if (List.range n).any bad then [failure 8 0x0D a th] else []
/-- The written mask of a mapped line gains the bytes that a .sp store writes (R257). -/
def State.markWritten (s : State) (own a n : Nat) : State :=
  (List.range n).foldl (fun s i =>
    let (c, off) := spDecode own (a + i)
    let x := s.core c
    match x.mapOf (off / 128) with
    | some _ =>
      let m := Sparse.get 0 x.mask (off / 128)
      s.setCore c { x with mask := Sparse.put 0 x.mask (off / 128) (m ||| BitVec.ofNat 128 (2 ^ (off % 128))) }
    | none => s) s
/-- A store through .sp: the bytes, and the written mask of mapped lines (R255, R257). -/
def State.spStore (s : State) (own a : Nat) (l : List Byte) : State := (s.spWrite own a l).markWritten own a l.length

/-! ### Launches and places -/

/-- Effective priority: own, boost, and that of the unended launches that wait on this one, through at most `fuel`
dependence steps (R315). -/
def State.effPrio (s : State) (fuel l : Nat) : Nat :=
  match s.launch? l with
  | none => 0
  | some x =>
    let own := max x.prio x.boost
    match fuel with
    | 0 => own
    | k + 1 =>
      (s.launches.filter (fun p => p.2.ctx == x.ctx && p.2.outcome.isNone && p.2.deps.contains x.lid)).foldl
        (fun m p => max m (s.effPrio k p.1)) own
/-- Bits 9:0 of `loc` (R108). -/
def locOf (core part : Nat) : Nat := part * 128 + core
/-- The set a group or context names in its block (R242). -/
def State.setDef (s : State) (launch set : Nat) : SetDef :=
  match s.launch? launch with
  | some l => Sparse.get (SetDef.mk [] []) l.sets set
  | none => SetDef.mk [] []
/-- A group is a member of a set (R308). -/
def SetDef.hasGroup (d : SetDef) (gidx : Nat) : Bool := d.ranges.any (fun r => r.1 ≤ gidx && gidx ≤ r.2)
/-- The phase and arrivals of a set of a block (R101). -/
def State.setState (s : State) (block set : Nat) : SetState :=
  match s.block? block with
  | some b => Sparse.get SetState.fresh b.sets set
  | none => SetState.fresh
/-- A set of a block replaced. -/
def State.putSet (s : State) (block set : Nat) (x : SetState) : State :=
  match s.block? block with
  | some b => s.setBlock block { b with sets := Sparse.put SetState.fresh b.sets set x }
  | none => s

/-! ### The error log (R389) -/

/-- An event for the error log: repeats of one unit within 1 s are merged (R389). -/
def State.logError (s : State) (kind : Nat) (where_ : BitVec 32) (addr : Nat) : State :=
  let t := s.earliest (where_.toNat % 4)
  let same (r : LogRec) : Bool := r.kind == kind && r.where_ == where_ && r.addr == addr && decide (t ≤ r.time + 1000000000)
  if s.log.any same then { s with log := s.log.map (fun r => if same r then { r with count := r.count + 1 } else r) }
  else { s with log := s.log ++ [LogRec.mk kind where_ addr t 1] }
/-- WHERE of a log record: die, core in die, bank or layer, store (R389). -/
def whereWord (die core bank store : Nat) : BitVec 32 := BitVec.ofNat 32 (die % 4 + core % 32 * 4 + bank % 32 * 128 + store % 16 * 4096)
/-- WHERE of a DRAM unit: its layer, of the 12 of a die (R3, R389). -/
def dramWhere (die addr : Nat) : BitVec 32 := whereWord die 0 (Config.layerOf addr % 12) 4
/-- The key of the DRAM row of an address: the row and its die. -/
def rowKey (die addr : Nat) : Nat := Config.rowOf addr * 4 + die
/-- An access to a physical span meets a lost unit or a peer out of reach: the event is logged, with the unit's physical address (R389). -/
def State.logPa (s : State) (pa n : Nat) : State :=
  match s.lostOn pa n, s.peerLost pa n with
  | u :: _, _ =>
    let d := match dramDie u.1 with | some d => d | none => ((List.find? (fun (p : Nat × Die) => p.2.lost.contains u) s.dies).map (·.1)).getD 0
    s.logError 2 (if u.2 = 64 then dramWhere d u.1 else whereWord d 0 0 3) u.1
  | [], some i => s.logError 2 (whereWord 0 0 0 5) (pa + i)
  | [], none => s
/-- So is one at a virtual address, or at an entry of the page table on the way to it. -/
def State.logBad (s : State) (c va n : Nat) : State :=
  match s.leafFor c va with
  | .leaf l => if l.bit 2 then s.logPa (l.pa va) n else s
  | .lost => (match (s.ctx? c).bind (fun x => lostEntry s va x.root levels) with | some a => s.logPa a 8 | none => s)
  | _ => s
/-- A line of 128 bytes at most: what one element, descriptor or fetch of an instruction reads. -/
def checkSpan : Nat := 128
/-- WHERE of the store of a core that a failing read of an instruction meets: a bank, a register (with no address), a cache (R382, R389);
none where it is none of these. -/
def State.storeWhere (s : State) (core addr : Nat) : Option (BitVec 32) :=
  let (k, off) := (core / 8 * 8 + (core + bits addr 19 3) % 8, bits addr 0 19)
  if addr < 2 ^ 22 && (s.core k).bad.any (fun b => match b with | .sram w => off < 8 * w + 8 && 8 * w < off + checkSpan | _ => false) then
    some (whereWord (dieOf k) k (off / 16384) 2)
  else if addr = 0 then some (whereWord (dieOf core) core 0 1)
  else if (s.core core).bad.any (fun b => match b with | .cache .. => true | _ => false) then some (whereWord (dieOf core) core 0 2)
  else none
/-- A fault with MACHINE_CHECK is an event of the error log (R384, R389). -/
def State.logCheck (s : State) (c core : Nat) (info : FaultInfo) : State :=
  if info.cause ≠ 0x0D then s
  else
    let t := s.logBad c info.addr checkSpan
    if t.log ≠ s.log then t
    else match s.storeWhere core info.addr with
      | some w => s.logError 2 w 0
      | none => s

/-! ### Taking a fault and returning from one (R333, R334, R336) -/

/-- The record of a group's fault (R336). -/
def State.groupRec (s : State) (x : Group) (info : FaultInfo) (unit restart : Nat) (tmask : Mask) : FaultRec :=
  let c := s.ctxOf x.launch
  FaultRec.mk info (match s.launch? x.launch with | some l => l.lid | none => 0)
    (match s.block? x.block with | some b => b.bidx | none => 0) x.gidx (locOf x.core x.part) none unit tmask restart
    (match s.ctx? c with | some y => y.serial + 1 | none => 1) (s.earliest (dieOf x.core))

/-- The record of a context's fault (R336). -/
def State.tileRec (s : State) (x : Tile) (info : FaultInfo) (unit restart : Nat) : FaultRec :=
  let c := s.ctxOf x.launch
  FaultRec.mk info (match s.launch? x.launch with | some l => l.lid | none => 0)
    (match s.block? x.block with | some b => b.bidx | none => 0) 0 (locOf x.core 0) (some x.number) unit 0 restart
    (match s.ctx? c with | some y => y.serial + 1 | none => 1) (s.earliest (dieOf x.core))

/-- A fault record queued for the context's fault ring; serials count from 1 (R336). -/
def State.queueFault (s : State) (c : Nat) (r : FaultRec) : State :=
  s.updCtx c (fun x => { x with faults := x.faults ++ [r], serial := x.serial + 1 })

/-- A group takes a fault: it enters Faulted, its threads keep their TPCs and states, and its record is queued (R333,
R336). -/
def State.faultGroup (s : State) (g : Nat) (info : FaultInfo) (unit restart : Nat) (tmask : Mask) : State :=
  match s.group? g with
  | none => s
  | some x =>
    let r := s.groupRec x info unit restart tmask
    (({ s with issue := none }.setGroup g { x with status := .faulted r none }).queueFault (s.ctxOf x.launch) r).logCheck
      (s.ctxOf x.launch) x.core info

/-- A group returns from a fault: Ready at its saved TPC, or with a new TPC in every unretired thread (R334, R337). A QPOP of which some
threads had been served before the fault goes on with the others (log entry 95), unless its group is sent elsewhere. -/
def Group.replay (x : Group) (unit : Nat) : Group :=
  let y := { x with status := .ready, readyAt := none }
  if unit = 0 then y
  else { y with cont := none, wait := none, entered := true, threads := y.threads.map (fun th => if th.st = .retired then th else { th with tpc := BitVec.ofNat 53 unit }) }

/-! ### How an issued instruction ends -/

/-- The next latch: the second slot of a pair issues for the same active set (R39). -/
def Issue.follow (i : Issue) : Option Issue :=
  match i.second with
  | some j => some (Issue.mk i.agent (i.unit + 1) i.active j none true)
  | none => none

/-- The fetch TPC of a latched instruction: its own unit, or that of the first slot of its pair (R39, R228). -/
def Issue.fetchUnit (i : Issue) : Nat := if i.slot2 then i.unit.toNat - 1 else i.unit.toNat
/-- A failing check of an instruction: the record tells whether it stands in the second slot of a pair (R41, R336). -/
def Issue.mark (i : Issue) (info : FaultInfo) : FaultInfo := { info with slot2 := info.slot2 || i.slot2 }

/-- The threads for which the guard of an instruction enables some place; of a uniform one the leader alone (R21, R88). -/
def Group.touched (x : Group) (i : Issue) : List Nat :=
  let g := guardOf i.instr
  (if g.u then [leader i.active] else threadsOf i.active).filter (fun t => (List.range 8).any (x.enabled g t))
/-- The byte offsets whose guard bits enable all of a register that the instruction writes, none where its element is a part of one
(R21, R48, R88, R111). -/
def wholeOffsets (i : Instr) : Option (List Nat) :=
  let of (sel : BitVec 4) (ty : BitVec 4) : Option (List Nat) :=
    let w := (typeWidth? ty).getD 64
    if sel = 15 || w = 64 then some (packedOffsets w) else none
  match i.view with
  | .v _ f => of f.selD f.type
  | .s _ f => some (packedOffsets ((typeWidth? f.type).getD 64))
  | .m _ f => if f.selD = 15 || typeWidth? f.type = some 64 then some [0] else none
  | _ => some [0]
/-- A register that the instruction writes whole is encoded anew, and its error is gone (R382, R384). -/
def Group.rewrites (x : Group) (i : Issue) (r : RegAt) : Bool :=
  let g := guardOf i.instr
  let whole (t : Nat) : Bool := match wholeOffsets i.instr with | some l => l.all (x.enabled g t) | none => false
  match r with
  | .v t k => (x.touched i).contains t && whole t && (regUse i.instr).writes.contains (.v k)
  | .p t k => (x.touched i).contains t && whole t && (regUse i.instr).writes.contains (.p k)
  | .s k => (x.touched i).any whole && (regUse i.instr).writes.contains (.s k)
  | _ => false
/-- The threads of the active set continue at u + 1 (R88). -/
def Group.advance (x : Group) (i : Issue) : Group :=
  { x.mapThreads i.active (fun y => { y with tpc := i.unit + 1 }) with bad := x.bad.filter (fun r => !x.rewrites i r) }

/-- The instruction completes: the group becomes `x`, its active set continues at u + 1. -/
def State.complete (s : State) (i : Issue) (g : Nat) (x : Group) : State :=
  { s with issue := i.follow }.setGroup g (x.advance i)

/-- The instruction completes and has set every TPC itself. -/
def State.completeAt (s : State) (i : Issue) (g : Nat) (x : Group) : State := { s with issue := i.follow }.setGroup g x

/-- The group waits at the instruction, which has no effect and is fetched again (R239). -/
def State.stall (s : State) (g : Nat) (w : Wait) : State :=
  { s with issue := none }.updGroup g (fun x => { x with wait := some w })

/-- The instruction faults at its unit with the enabled threads given (R333, R336). -/
def State.fail (s : State) (i : Issue) (g : Nat) (info : FaultInfo) (tmask : Mask) : State :=
  s.faultGroup g (i.mark info) i.unit.toNat i.unit.toNat tmask

/-- A check of R151 fails: where it belongs to no element of its own, the record names the lowest enabled thread (R151,
R336). -/
def State.failFor (s : State) (i : Issue) (g : Nat) (info : FaultInfo) (tmask : Mask) : State :=
  s.fail i g { info with thread := if info.thread.isSome then info.thread else (threadsOf tmask).head? } tmask

/-- The meaning of a group's instruction: what it makes of the state, given the fetch that issued it, the group's handle
and the group. With no group issuing, there is no meaning. -/
def withGroup (s : State) (k : Issue → Nat → Group → State) : Host.Outcome State Fault Refusal :=
  match s.issue with
  | some i =>
    match i.agent with
    | .group g =>
      match s.group? g with
      | some x => .next (k i g x)
      | none => .refused .noIssuer
    | .tile _ => .refused .noIssuer
  | none => .refused .noIssuer

/-- The meaning of a tile context's instruction. -/
def withTile (s : State) (k : Issue → Nat → Tile → State) : Host.Outcome State Fault Refusal :=
  match s.issue with
  | some i =>
    match i.agent with
    | .tile t =>
      match s.tile? t with
      | some x => .next (k i t x)
      | none => .refused .noIssuer
    | .group _ => .refused .noIssuer
  | none => .refused .noIssuer

/-- The meaning of a step of the machine that has its effect only where the spec lets it happen. -/
def whenEnabled (name : String) (r : Option State) : Host.Outcome State Fault Refusal :=
  match r with
  | some s => .next s
  | none => .refused (.notEnabled name)

/-! ### Outstanding operations (R152) -/

/-- The group holds one more operation; its registers are interlocked while it is outstanding. -/
def Group.issueOp (x : Group) (i : Instr) (c : Cls) (m : Mask) (holds : List Reg) (sargs : List Word)
    (targs : List (Nat × Word)) (w : Work) : Group :=
  let done := w = .idle
  { x with ops := x.ops ++ [Op.mk x.nextOp i c m holds sargs targs w [] [] [] done none x.lastIssue (x.thread (leader m)).tpc.toNat], nextOp := x.nextOp + 1 }
/-- The translations of a list of spans, by page (R325). -/
def State.leavesOf (s : State) (c : Nat) (l : List (Nat × Nat)) : List (Nat × Leaf) :=
  (nubNat (l.flatMap (fun q => (pagePieces q.1 q.2).map (fun p => p.1 / 65536)))).filterMap (fun p =>
    match s.leafFor c (p * 65536) with | .leaf y => some (p, y) | _ => none)
/-- The operation issued last uses the translations of these spans from its issue on (R171, R325). -/
def Group.pin (x : Group) (s : State) (l : List (Nat × Nat)) : Group :=
  let t := s.leavesOf (s.ctxOf x.launch) l
  { x with ops := x.ops.map (fun o => if o.id + 1 = x.nextOp then { o with pins := l, leaves := t } else o) }
/-- The banks of a list of scratchpad lines: core and bank. -/
def banksOf (l : List (Nat × Nat)) : List (Nat × Nat) := (l.map (fun q => (q.1, q.2 / 128))).eraseDups
/-- The operation issued last has met uncorrectable data at an address, or has met none (R385). -/
def Group.metBad (x : Group) (a : Option Nat) : Group :=
  { x with ops := x.ops.map (fun o => if o.id + 1 = x.nextOp then { o with failed := a } else o) }
/-- The operation issued last targets these banks until it retires (R169). -/
def Group.aim (x : Group) (l : List (Nat × Nat)) : Group :=
  { x with ops := x.ops.map (fun o => if o.id + 1 = x.nextOp then { o with banks := l } else o) }
/-- An operation of a group, by its identity. -/
def Group.op? (x : Group) (n : Nat) : Option Op := x.ops.find? (fun o => o.id == n)
/-- An operation replaced. -/
def Group.setOp (x : Group) (o : Op) : Group := { x with ops := x.ops.map (fun p => if p.id == o.id then o else p) }
/-- An operation's effect is complete; it awaits retirement. -/
def Group.opDone (x : Group) (o : Op) : Group := x.setOp { o with work := .idle, done := true }
/-- The registers an outstanding operation still interlocks: engine operations until they retire, others until their
value has arrived (R152, R179, R216). -/
def Group.interlocked (x : Group) : List Reg :=
  x.ops.flatMap (fun o => if o.done && o.cls != .en then [] else o.holds)
/-- A class holds 63 operations (R152). -/
def Group.classFull (x : Group) (c : Cls) : Bool := 63 ≤ x.count c

/-- An instruction that counts waits while its class is full, and otherwise acts (R152). -/
def State.counted (s : State) (g : Nat) (x : Group) (c : Cls) (k : State) : State :=
  if x.classFull c then s.stall g (.full c) else k

/-- The state as an operation of a group sees it at one of its steps: its pages translate as they did at its issue (R325). -/
def State.as (s : State) (g n : Nat) : State :=
  match s.group? g with
  | none => s
  | some x => match x.op? n with
    | none => s
    | some o => { s with trans := o.leaves.map (fun e => (s.ctxOf x.launch, e.1, e.2)) }
/-- A step of an operation under its own translations. -/
def State.asOp (s : State) (g n : Nat) (k : State → Option State) : Option State :=
  (k (s.as g n)).map (fun t => { t with trans := s.trans })

/-- Registers held as a list of reads for later use. -/
def Group.readS (x : Group) (l : List Nat) : List Word := l.map x.rs

end Sys2Proof.Machine
end

