-- ==== Sys2Proof/Machine/Rings.lean ====
section
/-!
DEFINITION. Command queues and rings: descriptors, slots, the records the device posts and the statuses it answers with
(R312, R327, R328, R336).
-/
namespace Sys2Proof.Machine

/-- RING of a queue descriptor (R312). -/
def State.ringBase (s : State) (q : Nat) : Nat := s.num q 8
/-- The capacity 2^CLOG of a queue, CLOG 1 to 16 (R312); of a greater CLOG only bits 4:0 are read (log entry 13). -/
def State.ringSlots (s : State) (q : Nat) : Nat := 2 ^ (s.num (q + 0x08) 4 % 32)
/-- HEAD of a queue (R312). -/
def State.ringHead (s : State) (q : Nat) : Nat := s.num (q + 0x10) 8
/-- TAIL of a queue (R312). -/
def State.ringTail (s : State) (q : Nat) : Nat := s.num (q + 0x18) 8
/-- The address of slot `n` of a ring whose slots have `z` bytes (R312). -/
def State.slotAt (s : State) (q z n : Nat) : Nat := s.ringBase q + z * (n % s.ringSlots q)
/-- A slot is free for the producer, and the descriptor can be read (R384). -/
def State.ringRoom (s : State) (q : Nat) : Bool := q != 0 && s.sound q 64 && wrap64 (s.ringTail q + 2 ^ 64 - s.ringHead q) < s.ringSlots q
/-- A slot waits for the consumer, and the descriptor can be read (R384). -/
def State.ringReady (s : State) (q : Nat) : Bool := q != 0 && s.sound q 64 && s.ringHead q != s.ringTail q
/-- What the control processor writes at a physical address: where it would write a part of a lost unit, or a peer is out of reach, nothing
is written, and the error log has the event; a lost unit that it writes whole is usable again (R384, R386, R389, R399). -/
def State.writeOut (s : State) (pa : Nat) (l : List Byte) : State :=
  if (s.badAt pa l.length (coveredBy [(pa, l.length)])).isSome then s.logPa pa l.length
  else (s.setBytes pa l).heal pa l.length
/-- A record written into slot TAIL, and TAIL advanced (R312). -/
def State.ringPut (s : State) (q z : Nat) (rec : List Byte) : State :=
  let t := s.ringTail q
  (s.writeOut (s.slotAt q z t) rec).setNum (q + 0x18) 8 (wrap64 (t + 1))
/-- HEAD advanced past the slot taken (R312). -/
def State.ringTake (s : State) (q : Nat) : State := s.setNum (q + 0x10) 8 (wrap64 (s.ringHead q + 1))
/-- The host is interrupted. -/
def State.interrupt (s : State) : State := { s with irqs := s.irqs + 1 }
/-- The control processor is interrupted (R376, R379, R401). -/
def State.ctlInterrupt (s : State) : State := { s with ctlIrqs := s.ctlIrqs + 1 }
/-- A command completes: its status is written at DONE, unless DONE is zero (R327). -/
def State.answer (s : State) (done status : Nat) : State := if done = 0 then s else s.writeOut done (leBytes 8 status)
/-- A record is raised for a context's request ring (R328). -/
def State.request (s : State) (c : Nat) (r : ReqRec) : State := s.updCtx c (fun x => { x with reqs := x.reqs ++ [r] })

/-- The 32 bytes of a request record (R328). -/
def ReqRec.bytes (r : ReqRec) : List Byte :=
  leBytes 4 r.kind ++ leBytes 4 r.arg ++ leBytes 8 r.va ++ leBytes 8 r.more ++ leBytes 8 0

/-- The 64 bytes of a fault record (R336). -/
def FaultRec.bytes (r : FaultRec) : List Byte :=
  let i := r.info
  let b (c : Bool) (k : Nat) : Nat := if c then 2 ^ k else 0
  let cause := i.cause.toNat + b r.seq.isSome 8 + (r.seq.getD 0) % 4 * 2 ^ 9 + b i.malf 11 + b i.write 12 + b i.slot2 13
  leBytes 4 cause ++ leBytes 4 r.lid.toNat ++ leBytes 4 r.bidx ++ leBytes 4 (r.gidx % 2048 + r.loc % 1024 * 2048) ++
    leBytes 8 r.unit ++ leBytes 4 r.tmask.toNat ++ leBytes 4 (i.thread.getD 0xFFFFFFFF) ++ leBytes 8 i.addr ++
    leBytes 4 i.code.toNat ++ leBytes 4 r.serial.toNat ++ leBytes 8 r.time ++ leBytes 8 r.restart

/-- FAULT_RECORD_POST: the oldest fault record goes to the context's fault ring when it has room, and the host is
interrupted (R336). -/
def State.postFault (s : State) (c : Nat) : Option State :=
  match s.ctx? c with
  | none => none
  | some x =>
    match x.faults with
    | [] => none
    | r :: rest =>
      if s.ringRoom x.fault then
        some ((s.setCtx c { x with faults := rest }).ringPut x.fault 64 r.bytes).interrupt
      else none
/-- FAULT_RECORD_POST (R336). -/
def execFaultRecordPost (ctx : Nat) (s : State) : Host.Outcome State Fault Refusal :=
  whenEnabled "FAULT_RECORD_POST" (s.postFault ctx)

/-- REQUEST_RECORD_POST: the oldest waiting record goes to the request ring when it has room, and the host is
interrupted (R328). -/
def State.postRequest (s : State) (c : Nat) : Option State :=
  match s.ctx? c with
  | none => none
  | some x =>
    match x.reqs with
    | [] => none
    | r :: rest =>
      if s.ringRoom x.req then
        some ((s.setCtx c { x with reqs := rest }).ringPut x.req 32 r.bytes).interrupt
      else none
/-- REQUEST_RECORD_POST (R328). -/
def execRequestRecordPost (ctx : Nat) (s : State) : Host.Outcome State Fault Refusal :=
  whenEnabled "REQUEST_RECORD_POST" (s.postRequest ctx)

end Sys2Proof.Machine
end

