-- ==== Sys2Proof/Machine/Groups.lean ====
section
/-!
DEFINITION. Threads, groups and blocks: candidates and fetch selection, the rotation rule, release from CONV and from
convergence, phases of sets, Garnet's holder, draining of banks, the end of a group and of a block (chapter 08, R98 to
R104, R169, R247).
-/
namespace Sys2Proof.Machine

/-! ### Fetch selection (R228) -/

/-- Threads that are runnable and not deferred. -/
def Group.runnable (x : Group) : List Nat := (List.range x.nthr).filter (fun t => (x.thread t).st == .runnable)
/-- Deferred threads. -/
def Group.deferredThreads (x : Group) : List Nat := (List.range x.nthr).filter (fun t => (x.thread t).st == .deferred)
/-- The candidate set (R228). -/
def Group.candidates (x : Group) : List Nat := if x.runnable.isEmpty then x.deferredThreads else x.runnable
/-- The TPC of a thread. -/
def Group.tpcOf (x : Group) (t : Nat) : Nat := (x.thread t).tpc.toNat
/-- The minimum TPC over a list of threads. -/
def Group.minTpc (x : Group) (l : List Nat) : Option Nat := least (l.map x.tpcOf)
/-- Deferred threads become runnable again when no other thread is (R99, R226). -/
def Group.undefer (x : Group) : Group :=
  if x.runnable.isEmpty then
    { x with threads := x.threads.map (fun y => if y.st = .deferred then { y with st := .runnable } else y) }
  else x
/-- A rotation state with no escort and nothing counted. -/
def Rotation.calm (m : Nat) : Rotation := Rotation.mk 0 0 m 0
/-- The members of the escort set that are candidates. -/
def Group.escorted (x : Group) : List Nat := x.candidates.filter (fun t => x.rot.e.getLsbD t)
/-- The fetch TPC and the rotation state with which the fetch is made: escort ends when no member of E is a candidate, or
when its TPC is the minimum (R228, R232). -/
def Group.selectFetch (x : Group) : Option (Nat × Rotation) :=
  match x.minTpc x.candidates with
  | none => none
  | some lo =>
    if x.rot.e = 0 then some (lo, x.rot)
    else match x.minTpc x.escorted with
      | none => some (lo, Rotation.calm x.rot.m)
      | some u => if u = lo then some (lo, Rotation.calm x.rot.m) else some (u, x.rot)
/-- The active set of a fetch at `u` (R228, R232). -/
def Group.activeAt (x : Group) (u : Nat) : Mask := maskOf (x.candidates.filter (fun t => x.tpcOf t == u))

/-! ### The rotation rule (R231, R232) -/

/-- Escort begins: the smallest candidate TPC above `u` that exceeds M, or else the smallest (R232). -/
def Group.beginEscort (x : Group) (u : Nat) : Group :=
  let h := (x.candidates.map x.tpcOf).filter (fun v => u < v)
  match least (h.filter (fun v => x.rot.m < v)) with
  | some m => { x with rot := Rotation.mk 0 0 m (maskOf (x.candidates.filter (fun t => x.tpcOf t == m))) }
  | none => match least h with
    | some m => { x with rot := Rotation.mk 0 0 m (maskOf (x.candidates.filter (fun t => x.tpcOf t == m))) }
    | none => x

/-- A fetch at `u` by `active` has taken a backward branch; the group already has its new TPCs (R231, R232). -/
def Group.noteBackward (x : Group) (u : Nat) (active : Mask) : Group :=
  if x.rot.e != 0 then { x with rot := Rotation.calm x.rot.m }
  else if x.candidates.any (fun t => u < x.tpcOf t) then
    let c := if active = x.rot.x then x.rot.c + 1 else 1
    let y := { x with rot := { x.rot with c := c, x := active } }
    if 256 ≤ c then y.beginEscort u else y
  else { x with rot := Rotation.calm x.rot.m }

/-! ### Release from parking (R98, R102) -/

/-- The threads parked at the CONV of unit `u` are released if every thread their masks name has parked there or exited
(R98). -/
def Group.releaseAt (x : Group) (u : Unit53) : Group :=
  let parkedHere (y : Thread) : Bool := match y.st with | .conv v _ => v == u | _ => false
  let here := (List.range x.nthr).filter (fun t => parkedHere (x.thread t))
  let need := here.foldl (fun m t => match (x.thread t).st with | .conv _ k => m ||| k | _ => m) (0 : Mask)
  if (threadsOf need).all (fun t => parkedHere (x.thread t) || (x.thread t).st == .retired) then
    x.mapThreads (maskOf here) (fun y => { y with st := .runnable })
  else x
/-- Every CONV whose threads can be released releases them (R98). -/
def Group.releaseConv (x : Group) : Group :=
  (List.range x.nthr).foldl (fun y t => match (y.thread t).st with | .conv u _ => y.releaseAt u | _ => y) x
/-- A barrier at which every unexited thread is now parked is fetched again by all of them, and executes (R102). -/
def Group.releaseBarrier (x : Group) : Group :=
  match (List.range x.nthr).findSome? (fun t => match (x.thread t).st with | .barrier u => some u | _ => none) with
  | none => x
  | some u =>
    if x.threads.all (fun y => y.st == .retired || y.st == .barrier u) then
      { x with threads := x.threads.map (fun y => if y.st = .retired then y else { y with st := .runnable }) }
    else x

/-! ### Sets (R101) -/

/-- A member of a set has ended: a group by `gidx`, a context by 2048 + its number (R101). -/
def State.memberGone (s : State) (b : Block) (m : Nat) : Bool :=
  if m < 2048 then
    match b.groups[m]? with
    | some g => (match s.group? g with | some x => x.status == .ended | none => true)
    | none => true
  else
    b.tiles.all (fun t => match s.tile? t with | some y => y.number != m - 2048 || y.status == .ended | none => true)
/-- The members of a set (R308). -/
def SetDef.members (d : SetDef) : List Nat :=
  d.ranges.flatMap (fun r => (List.range (r.2 + 1 - r.1)).map (r.1 + ·)) ++ d.tiles.map (2048 + ·)
/-- The current phase of a set completes when every member has arrived or ended (R101); the completion is an acquire at .clu for
those that wait on it (R104, R283). -/
def State.settleSet (s : State) (b set : Nat) : State :=
  match s.block? b with
  | none => s
  | some k =>
    let st := Sparse.get SetState.fresh k.sets set
    let ms := (s.setDef k.launch set).members
    if !st.arrived.isEmpty && ms.all (fun m => st.arrived.contains m || s.memberGone k m) then
      k.cores.foldl (fun s c => s.acquire c 2) (s.putSet b set (SetState.mk (st.phase + 1) []))
    else s
/-- Every set of a block settles, after a member has ended. -/
def State.settleSets (s : State) (b : Nat) : State :=
  match s.block? b with
  | none => s
  | some k => k.sets.foldl (fun s p => s.settleSet b p.1) s
/-- A member arrives in the current phase of a set (R101). -/
def State.arrive (s : State) (b set m : Nat) : State :=
  let st := s.setState b set
  (s.putSet b set { st with arrived := st.arrived ++ [m] }).settleSet b set

/-! ### Garnet (R244) -/

/-- The logical index of a group (R244). -/
def State.logical (s : State) (x : Group) : Nat :=
  match s.block? x.block, s.launch? x.launch with
  | some b, some l => b.bidx * l.ngroups + x.gidx
  | _, _ => x.gidx
/-- The wait is one that BAR or BARW made for a phase (R244). A BAR that still waits for older accesses (R104) keeps the
core, so that no order of groups depends on the timing of memory (R246). -/
def Wait.isBar : Wait → Bool
  | .phase _ | .previous _ true => true
  | _ => false
/-- A group that waits at a barrier: its wait is of that kind and still holds (R102, R244). -/
def State.atBarrier (s : State) (x : Group) : Bool :=
  match x.wait with
  | some (.phase n) | some (.previous n true) => (s.setState x.block n).arrived.contains x.gidx
  | _ => false
/-- Groups resident on a core that have not ended: handle and logical index. -/
def State.garnetGroups (s : State) (core : Nat) : List (Nat × Nat × Group) :=
  (s.groups.filter (fun p => p.2.core == core && p.2.resident && p.2.status != .ended)).map
    (fun p => (p.1, s.logical p.2, p.2))
/-- The next holder after logical index `h`, ascending and cyclic, among groups not waiting at a barrier: handle and index
(R244). -/
def State.nextHolder (s : State) (core : Nat) (h : Nat) : Option (Nat × Nat) :=
  let l := (s.garnetGroups core).filter (fun p => !s.atBarrier p.2.2)
  let pick (m : List (Nat × Nat × Group)) : Option (Nat × Nat) :=
    match least (m.map (fun p => p.2.1)) with
    | some k => (m.find? (fun p => p.2.1 == k)).map (fun p => (p.1, k))
    | none => none
  match pick (l.filter (fun p => h < p.2.1)) with
  | some k => some k
  | none => pick l
/-- The holder of a core; the first is the lowest logical index (R244). -/
def State.holder (s : State) (core : Nat) : Option Nat :=
  match (s.core core).garnet with
  | none => least ((s.garnetGroups core).map (fun p => p.2.1))
  | some h => some h
/-- The launch of a group runs in Garnet mode. -/
def State.isGarnet (s : State) (x : Group) : Bool := match s.launch? x.launch with | some l => l.garnet | none => false
/-- The holder of a core is remembered. -/
def State.setHolder (s : State) (core : Nat) (h : Option Nat) : State := s.setCore core { s.core core with garnet := h }
/-- The core passes on from logical index `h`; with every group waiting at a barrier it stays (R244). -/
def State.passFrom (s : State) (core h : Nat) : State :=
  match s.nextHolder core h with
  | none => s
  | some (g, k) => (s.updGroup g (fun x => { x with wait := if (x.wait.map Wait.isBar).getD false then none else x.wait })).setHolder core (some k)
/-- A switch point at which the group itself stays eligible (R244). -/
def State.passCore (s : State) (x : Group) : State := if s.isGarnet x then s.passFrom x.core (s.logical x) else s
/-- A holder that has ended, or whose BAR or BARW had to wait, has passed the core on (R244). -/
def State.settleHolder (s : State) (core : Nat) : State :=
  match (s.core core).garnet with
  | none => s
  | some h =>
    if (s.garnetGroups core).any (fun p => p.2.1 == h && !(p.2.2.wait.map Wait.isBar).getD false) then s else s.passFrom core h

/-! ### Draining banks (R167, R169, R247, R257) -/

/-- A line of a core's scratchpad that is mapped at an address cannot be recovered: it enters the lost-unit table of the die that holds
the address, or through which it goes to the system range; a table that is already full is fatal at the end of the step (R386, R387,
R389). -/
def State.loseLine (s : State) (core line c va : Nat) : State :=
  match s.place? c va with
  | none => s
  | some (pa, home) =>
    let d := (dramDie pa).getD home
    let s1 := s.logError 2 (whereWord (dieOf core) core (line / 128) 2) pa
    let x := s1.die d
    if x.lost.contains (pa, 128) then s1 else s1.setDie d { x with lost := x.lost ++ [(pa, 128)] }
/-- A byte of a line that is to be written back cannot be corrected (R384). -/
def State.badDirty (s : State) (core line : Nat) : Bool :=
  let x := s.core core
  !x.bad.isEmpty && (List.range 128).any (fun i => (Sparse.get 0 x.mask line).getLsbD i && x.badSram (line * 128 + i) 1)
/-- The dirty bytes of a line of a mapped region are written to global memory, and its mask is cleared (R257); with one of them
uncorrectable nothing is written, and the line is lost (R386). -/
def State.writeBackLine (s : State) (core : Nat) (m : MapSlot) (line : Nat) : State :=
  let x := s.core core
  let mask := Sparse.get 0 x.mask line
  if mask = 0 then s
  else if s.badDirty core line then
    let s1 := s.loseLine core line (s.ctxOf m.launch) (m.va + (line * 128 - m.off))
    let y := s1.core core
    s1.setCore core { y with mask := Sparse.put 0 y.mask line 0 }
  else
    let c := s.ctxOf m.launch
    let base := m.va + (line * 128 - m.off)
    let dirty := (List.range 128).filter (fun i => mask.getLsbD i)
    let s1 := (dirty.foldl (fun s i => s.vwrite c (base + i) [Sparse.get 0 x.sp (line * 128 + i)]) s).healAll c
      (dirty.map (fun i => (base + i, 1)))
    let y := s1.core core
    s1.setCore core { y with mask := Sparse.put 0 y.mask line 0 }
/-- The lines of a map slot's region. -/
def MapSlot.lines (m : MapSlot) : List Nat := (List.range (m.len / 128)).map (m.off / 128 + ·)
/-- The address at which the write-back of a line meets an uncorrectable error: a dirty byte of it, a lost unit of which it writes a part, a
peer out of reach, or a page that cannot be written (R385, R386; log entry 103). -/
def State.lineBad (s : State) (core : Nat) (m : MapSlot) (line : Nat) : Option Nat :=
  let c := s.ctxOf m.launch
  let base := m.va + (line * 128 - m.off)
  let dirty := (List.range 128).filter (fun i => (Sparse.get 0 (s.core core).mask line).getLsbD i)
  if dirty.isEmpty then none
  else if s.badDirty core line || !(s.spanFailures c base 128 .write (some false) none).all (fun e => e.order == 8) then some base
  else s.badIn c (dirty.map (fun i => (base + i, 1))) false
/-- The first such address of slots (R385). -/
def State.badSlots (s : State) (core : Nat) (slots : List Nat) : Option Nat :=
  slots.findSome? (fun k => match Sparse.get none (s.core core).maps k with
    | some m => m.lines.findSome? (s.lineBad core m)
    | none => none)
/-- Every dirty line of a slot is written back (R167). -/
def State.writeBackSlot (s : State) (core : Nat) (m : MapSlot) : State :=
  m.lines.foldl (fun s l => s.writeBackLine core m l) s
/-- A slot is written back and freed (R167). -/
def State.unmapSlot (s : State) (core slot : Nat) : State :=
  match Sparse.get none (s.core core).maps slot with
  | none => s
  | some m =>
    let s1 := s.writeBackSlot core m
    let x := s1.core core
    s1.setCore core { x with maps := Sparse.put none x.maps slot none }
/-- The dirty lines of a slot are written back one after another, up to the first that meets an uncorrectable error, where the operation
stops (R385); whether it has not. -/
def State.writeLines (s : State) (core : Nat) (m : MapSlot) : List Nat → State × Bool
  | [] => (s, true)
  | l :: rest =>
    if (s.lineBad core m l).isSome then (if s.badDirty core l then s.writeBackLine core m l else s, false)
    else (s.writeBackLine core m l).writeLines core m rest
/-- Slots are written back and freed by an operation that stops at such a line (R167, R385); whether it has not. -/
def State.unmapSlots (s : State) (core : Nat) : List Nat → State × Bool
  | [] => (s, true)
  | k :: rest =>
    match Sparse.get none (s.core core).maps k with
    | none => s.unmapSlots core rest
    | some m =>
      let (s1, ok) := s.writeLines core m m.lines
      if !ok then (s1, false)
      else
        let x := s1.core core
        (s1.setCore core { x with maps := Sparse.put none x.maps k none }).unmapSlots core rest
/-- The slots whose region touches a bank. -/
def Core.slotsOf (x : Core) (bank : Nat) : List Nat :=
  (List.range 16).filter (fun i => match Sparse.get none x.maps i with
    | some m => m.off < (bank + 1) * 16384 && bank * 16384 < m.off + m.len
    | none => false)
/-- Entries of a table in a range of keys removed. -/
def dropRange {α : Type} (m : Sparse α) (lo n : Nat) : Sparse α := m.filter (fun p => !(lo ≤ p.1 && p.1 < lo + n))
/-- A drained bank is written back, its slots are freed and it changes mode; as SCRATCH it holds zeros with every line
empty, as FIFO no record (R169, R249). -/
def State.switchBank (s : State) (core bank : Nat) (mode : BankMode) (holder : Option Nat) : State :=
  let s1 := ((s.core core).slotsOf bank).foldl (fun s i => s.unmapSlot core i) s
  let x := s1.core core
  let y := { x with sp := dropRange x.sp (bank * 16384) 16384, full := dropRange x.full (bank * 128) 128,
                    mask := dropRange x.mask (bank * 128) 128,
                    bad := x.bad.filter (fun b => match b with | .sram w => w / 2048 != bank | _ => true) }
  s1.setCore core (y.setBank bank (Bank.fresh mode holder))
/-- The EN fields of an instruction. -/
def enFmt? (i : Instr) : Option EFmt := match i.view with | .e _ f => some f | _ => none
/-- A FIFO instruction in progress on a bank; that of a Faulted group has stopped (R334). -/
def Group.fifoOn (x : Group) (core bank : Nat) : Bool :=
  match x.cont with
  | some (.fifo i _) => x.core == core && x.status == .ready && (match enFmt? i.instr with | some f => f.imm.toNat % 32 == bank | none => false)
  | _ => false
/-- A matrix or winner-list instruction in flight whose operands, or whose image, lie in a bank: of an image the whole span that
its greatest size takes. -/
def Inflight.onBank (e : Inflight) (home core bank : Nat) : Bool :=
  (e.needs ++ e.got.map (fun q => (q.1, q.2.1))).any (fun l => l.1 == core && l.2 / 128 == bank) ||
    (match e.instr with
     | .wlst f => f.mod.getLsbD 0 && (spLines home (Sparse.get 0 e.t f.ta.toNat).toNat (0x140 + 8 * 32 * 64)).any (fun l =>
         l.1 == core && l.2 / 128 == bank)
     | .tnorm f => (spLines home (Sparse.get 0 e.t (f.ta.toNat + 2)).toNat 2048).any (fun l => l.1 == core && l.2 / 128 == bank)
     | _ => false)
/-- Something outstanding or stalled still targets a bank (R169). -/
def State.bankBusy (s : State) (core bank : Nat) : Bool :=
  s.groups.any (fun p => p.2.ops.any (fun o => o.banks.contains (core, bank)) || p.2.fifoOn core bank) ||
    s.tiles.any (fun p => p.2.flight.any (fun e => e.onBank p.2.core core bank))
/-- A bank of an ended block drains: it returns to CACHE at once, or once no operation of another block targets it (R169, R247). -/
def State.drainBank (s : State) (core bank : Nat) : State :=
  if s.bankBusy core bank then
    let x := s.core core
    s.setCore core (x.setBank bank { x.bank bank with switching := true, ending := true })
  else s.switchBank core bank .cache none
/-- Every bank that a block holds on a core drains and returns to CACHE (R247). -/
def State.releaseBanks (s : State) (core block : Nat) : State :=
  (List.range 32).foldl (fun s i => if ((s.core core).bank i).holder = some block then s.drainBank core i else s) s
/-- The banks of ended blocks that no operation targets any longer return to CACHE (R247). -/
def State.settleBanks (s : State) (core : Nat) : State :=
  ((s.core core).banks.filter (fun p => p.2.ending)).foldl (fun s p => s.drainBank core p.1) s

/-! ### The end of a group and of a block (R100, R188, R247, R314) -/

/-- The groups of running blocks that still wait at a core's accumulator queue, in order of arrival (R199); one of an aborted block has
stopped (R338). -/
def State.waitingPoppers (s : State) (core : Nat) : List Nat :=
  (s.core core).poppers.filter (fun g => match s.group? g with
    | some x => x.core == core && x.resident && x.status == .ready && x.wait == some .queue &&
      (match s.block? x.block with | some k => k.st == .running | none => true)
    | none => false)
/-- The place lies in the banks or in a cache, not in the queue or the lists. -/
def placeInBank : CoreAt → Bool
  | .sram _ | .cache .. => true
  | _ => false
/-- The accumulator queue and the winner lists of a core are discarded if the block holds them (R188). -/
def State.dropMatrix (s : State) (core block : Nat) : State :=
  let x := s.core core
  if x.holder = some block then s.setCore core { x with queue := [], lists := [], holder := none, poppers := [], bad := x.bad.filter placeInBank } else s
/-- The leases that contexts of a block hold or ask for are given up (R318). -/
def State.dropLeases (s : State) (tiles : List Nat) : State :=
  tiles.foldl (fun s t => match s.tile? t with
    | none => s
    | some y =>
      let d := s.die (dieOf y.core)
      (s.setDie (dieOf y.core)
        { d with asking := d.asking.filter (· != .tile t), granted := d.granted.filter (· != .tile t) }).setTile t
        { y with lease := .none }) s
/-- The pending request of a block ends: every PREEMPT merged into it completes with a status (R339). -/
def State.endRequest (s : State) (b status : Nat) : State :=
  match s.block? b with
  | none => s
  | some k =>
    match k.pre with
    | none => s
    | some r => r.dones.foldl (fun s d => s.answer d.2 status) (s.setBlock b { k with pre := none })
/-- The cores of a block stand idle from now on if no group is resident there (R311). -/
def State.noteIdle (s : State) (cores : List Nat) : State :=
  cores.foldl (fun s c =>
    if s.groups.any (fun p => p.2.core == c && p.2.resident) then s
    else s.setCore c { s.core c with idleAt := s.clk, garnet := none }) s
/-- A block leaves its cores: banks, queue, lists and leases are released (R247, R188). -/
def State.releaseBlock (s : State) (b : Nat) (k : Block) : State :=
  ((k.cores.foldl (fun s c => (s.releaseBanks c b).dropMatrix c b) s).dropLeases k.tiles).noteIdle k.cores
/-- A group whose kernel has ended: registers, TPCs, FLAGS, rotation state and fibre slots are lost (R6). What debug readback then shows of
them is open: here they read 0, and its threads as retired (DESIGN CHOICE, log entry 104). -/
def Group.lost (x : Group) : Group :=
  { x with threads := x.threads.map (fun _ => Thread.mk 0 .retired), v := [], p := [], s := [], flags := 0, fbst := false,
           fibres := [], rot := Rotation.calm 0, failed := [], bad := [] }
/-- A context whose kernel has ended. -/
def Tile.lost (x : Tile) : Tile := { x with tpc := 0, t := [], f := [], flight := [], wait := none, got := [], bad := [] }
/-- What a kernel holds is lost as its last group exits, or as its block is aborted: the state of its groups and contexts and of its
sets (R6). -/
def State.loseKernel (s : State) (groups tiles : List Nat) (b : Nat) : State :=
  let s1 := groups.foldl (fun s g => s.updGroup g Group.lost) s
  let s2 := tiles.foldl (fun s t => match s.tile? t with | some y => s.setTile t y.lost | none => s) s1
  match s2.block? b with
  | some k => s2.setBlock b { k with sets := [] }
  | none => s2
/-- A block has ended (R314): the launch counts it. -/
def State.endBlock (s : State) (b : Nat) : State :=
  match s.block? b with
  | none => s
  | some k =>
    let s1 := s.releaseBlock b k
    let s2 := ((s1.setBlock b { k with st := .ended }).loseKernel k.groups k.tiles b).endRequest b (match k.pre with | some r => r.onEnd | none => 1)
    match s2.launch? k.launch with
    | some l => s2.setLaunch k.launch { l with finished := l.finished + 1, endDie := dieOf (k.cores.headD 0) }
    | none => s2
/-- A running block whose groups are all freed and whose contexts have all ended has ended. -/
def State.settleBlock (s : State) (b : Nat) : State :=
  match s.block? b with
  | none => s
  | some k =>
    let groupsOver := k.groups.all (fun g => match s.group? g with | some x => x.status == .ended && !x.resident | none => true)
    let tilesOver := k.tiles.all (fun t => match s.tile? t with | some y => y.status == .ended | none => true)
    if k.st = .running && groupsOver && tilesOver then s.endBlock b else s
/-- An ended group whose counters are zero is freed (R100). -/
def State.freeGroup (s : State) (g : Nat) : State :=
  match s.group? g with
  | none => s
  | some x =>
    if x.status = .ended && x.ops.isEmpty && x.resident then
      ((s.setGroup g { x with resident := false, active := false }).noteIdle [x.core]).settleBlock x.block
    else s
/-- A group whose last thread has retired ends: it leaves every set, and is freed once its counters are zero (R100,
R101). -/
def State.endGroup (s : State) (g : Nat) : State :=
  match s.group? g with
  | none => s
  | some x =>
    ((s.setGroup g { x with status := .ended, wait := none, readyAt := none, active := false }).settleSets x.block).freeGroup g

end Sys2Proof.Machine
end

