-- ==== Sys2Proof/Machine/Flags.lean ====
section
/-!
DEFINITION. The bits of FLAGS (R67).
-/
namespace Sys2Proof.Machine

/-- A contribution to FLAGS (R67, R68). -/
abbrev Fl := BitVec 6

/-- Invalid operation. -/
def flNV : Fl := 1
/-- Division by zero. -/
def flDZ : Fl := 2
/-- Overflow. -/
def flOF : Fl := 4
/-- Underflow. -/
def flUF : Fl := 8
/-- Inexact. -/
def flNX : Fl := 16
/-- A block scale with its sign bit set was used. -/
def flSCALE : Fl := 32
/-- A flag, if a condition holds. -/
def flIf (b : Bool) (f : Fl) : Fl := if b then f else 0

end Sys2Proof.Machine
end

