-- ==== Sys2Proof/Machine/Float.lean ====
section
/-!
DEFINITION. Numbers and formats of chapter 03: exact values, the one rounding into a format, saturation, the arithmetic
of IEEE 754 on exact values, and enclosures of the special functions (R60 to R81).
-/
namespace Sys2Proof.Machine

/-- A floating format (R60, R70): sign bit, exponent bits, mantissa bits, bias, and policy: 0 IEEE-like, 1 no infinity
and all-ones codes NaN, 2 all codes finite. `ieee` tells the four element types from the narrow formats. -/
structure Fmt where
  signed : Bool
  eb     : Nat
  mb     : Nat
  bias   : Int
  pol    : Nat
  ieee   : Bool
deriving DecidableEq, Repr

/-- binary16 (R60). -/
def fmtF16 : Fmt := Fmt.mk true 5 10 15 0 true
/-- bf16 (R60). -/
def fmtBF16 : Fmt := Fmt.mk true 8 7 127 0 true
/-- binary32 (R60). -/
def fmtF32 : Fmt := Fmt.mk true 8 23 127 0 true
/-- binary64 (R60). -/
def fmtF64 : Fmt := Fmt.mk true 11 52 1023 0 true
/-- The format of a floating type code (R50). -/
def fmtOf (c : BitVec 4) : Fmt :=
  if c = 8 then fmtF16 else if c = 9 then fmtBF16 else if c = 10 then fmtF32 else fmtF64
/-- The format that a format register describes (R70). -/
def fmtOfReg (w : Nat) : Fmt :=
  Fmt.mk (bitAt w 0) (bits w 1 3) (bits w 4 3) (sint 8 (bits w 8 8)) (bits w 16 2) false
/-- The format-register values of the prebuilt formats (R74). -/
def prebuilt (fsel : Nat) : Nat :=
  match fsel with
  | 0 => 0x00010739
  | 1 => 0x00000F2B
  | 2 => 0x00020327
  | 3 => 0x00020135
  | _ => 0x00020115
/-- A format register value satisfies R71. -/
def fmtRegOk (w : Nat) : Bool :=
  let n := bits w 0 1 + bits w 1 3 + bits w 4 3
  bits w 18 46 == 0 && bits w 7 1 == 0 && 1 ≤ bits w 1 3 && 2 ≤ n && n ≤ 8 && bits w 16 2 != 3 &&
    !(bits w 16 2 == 0 && bits w 4 3 == 0)

/-- Bits of a code. -/
def Fmt.width (f : Fmt) : Nat := (if f.signed then 1 else 0) + f.eb + f.mb
/-- Bits of the stored unit of a narrow format (R75). -/
def Fmt.unit (f : Fmt) : Nat := if f.width ≤ 4 then 4 else 8
/-- The code of the largest finite magnitude. -/
def Fmt.maxMag (f : Fmt) : Nat :=
  match f.pol with
  | 0 => (2 ^ f.eb - 1) * 2 ^ f.mb - 1
  | 1 => 2 ^ (f.eb + f.mb) - 2
  | _ => 2 ^ (f.eb + f.mb) - 1
/-- The sign bit of a code. -/
def Fmt.signBit (f : Fmt) (neg : Bool) : Nat := if neg && f.signed then 2 ^ (f.eb + f.mb) else 0
/-- The code of infinity, policy 0. -/
def Fmt.infCode (f : Fmt) (neg : Bool) : Nat := f.signBit neg + (2 ^ f.eb - 1) * 2 ^ f.mb
/-- The canonical NaN (R60, R72); zero where the format has none (R73). -/
def Fmt.nanCode (f : Fmt) : Nat :=
  match f.pol with
  | 0 => (2 ^ f.eb - 1) * 2 ^ f.mb + 2 ^ (f.mb - 1)
  | 1 => 2 ^ (f.eb + f.mb) - 1
  | _ => 0

/-- An exact value: a NaN, signalling or not; an infinity; or ± m × 2^e, with `st` telling that the magnitude lies
strictly between m × 2^e and (m + 1) × 2^e. -/
inductive Num where
  | nan (sig : Bool)
  | inf (neg : Bool)
  | fin (neg : Bool) (m : Nat) (e : Int) (st : Bool)
deriving DecidableEq, Repr

/-- The value of a code (R60, R72). -/
def Fmt.decode (f : Fmt) (code : Nat) : Num :=
  let neg := f.signed && bitAt code (f.eb + f.mb)
  let ex := bits code f.mb f.eb
  let ma := code % 2 ^ f.mb
  let top := ex == 2 ^ f.eb - 1
  if f.pol == 0 && top && ma == 0 then .inf neg
  else if f.pol == 0 && top then .nan (f.ieee && ma < 2 ^ (f.mb - 1))
  else if f.pol == 1 && top && ma == 2 ^ f.mb - 1 then .nan false
  else if ex == 0 then .fin neg ma (1 - f.bias - f.mb) false
  else .fin neg (2 ^ f.mb + ma) (ex - f.bias - f.mb) false

/-- Bits in the binary numeral of `m`. -/
def bitLen (m : Nat) : Nat := if m = 0 then 0 else Nat.log2 m + 1

/-- `m × 2^s` with `s` an integer, and whether bits were lost below. -/
def shiftInt (m : Nat) (s : Int) : Nat × Bool :=
  if 0 ≤ s then (m <<< s.toNat, false) else (m >>> (-s).toNat, m % 2 ^ (-s).toNat != 0)

/-- Rounding codes (R52): 0 .rn, 1 .rz, 2 .rp, 3 .rm. A magnitude with remainder `r` of `2^sh` and sticky bit goes up. -/
def goesUp (rm : Nat) (neg : Bool) (n r sh : Nat) (st : Bool) : Bool :=
  let inexact := r != 0 || st
  match rm with
  | 0 => sh != 0 && (2 * r > 2 ^ sh || (2 * r == 2 ^ sh && (st || n % 2 == 1)))
  | 1 => false
  | 2 => inexact && !neg
  | _ => inexact && neg

/-- The rounding of a non-zero finite magnitude m × 2^e (+ sticky) to the quantum 2^q: the multiple of the quantum and
whether it is inexact. -/
def roundAt (rm : Nat) (neg : Bool) (m : Nat) (e : Int) (st : Bool) (q : Int) : Nat × Bool :=
  if q ≤ e then (m <<< (e - q).toNat, st)
  else
    let sh := (q - e).toNat
    let n := m >>> sh
    let r := m % 2 ^ sh
    (if goesUp rm neg n r sh st then n + 1 else n, r != 0 || st)

/-- The code and flags of a finite value rounded into a format (R64 to R66, R73). -/
def Fmt.roundFin (f : Fmt) (rm : Nat) (neg : Bool) (m0 : Nat) (e0 : Int) (st : Bool) : Nat × Fl :=
  -- room below the last place, so that a sticky bit never decides a tie
  let m := m0 <<< (f.mb + 4)
  let e := e0 - (f.mb + 4 : Nat)
  if m0 = 0 && !st then (f.signBit neg, 0)
  else
    let emin : Int := 1 - f.bias
    let ex := e + bitLen m - 1
    let q := max (ex - f.mb) (emin - f.mb)
    let (n, inexact) := roundAt rm neg m e st q
    let mag := (q - (emin - f.mb)).toNat * 2 ^ f.mb + n
    let tiny := ex < emin && (ex < emin - 1 || (roundAt rm neg m e st (ex - f.mb)).1 < 2 ^ (f.mb + 1))
    if mag > f.maxMag then
      match f.pol with
      | 0 =>
        let toInf := match rm with | 0 => true | 1 => false | 2 => !neg | _ => neg
        (if toInf then f.infCode neg else f.signBit neg + f.maxMag, flOF ||| flNX)
      | 1 => (f.nanCode, flOF ||| flNX)
      | _ => (f.signBit neg + f.maxMag, flOF ||| flNX)
    else (f.signBit neg + mag, flIf inexact flNX ||| flIf (inexact && tiny) flUF)

/-- `Round(fmt, x, mode)`: code and flags (R64, R73). -/
def Fmt.round (f : Fmt) (rm : Nat) (x : Num) : Nat × Fl :=
  match x with
  | .nan _ => if f.pol == 2 then (0, flNV) else (f.nanCode, 0)
  | .inf neg =>
    if neg && !f.signed then (0, flNV)
    else match f.pol with
      | 0 => (f.infCode neg, 0)
      | 1 => (f.nanCode, flNV)
      | _ => (f.signBit neg + f.maxMag, flNV)
  | .fin neg m e st =>
    if neg && !f.signed then (if m = 0 && !st then (0, 0) else (0, flNV))
    else f.roundFin rm neg m e st

/-- The largest finite value of a format as m × 2^e. -/
def Fmt.maxFin (f : Fmt) : Nat × Int :=
  match f.decode f.maxMag with
  | .fin _ m e _ => (m, e)
  | _ => (0, 0)

/-- Comparison of magnitudes m × 2^e: less, equal or greater, sticky bits aside. -/
def cmpMag (m1 : Nat) (e1 : Int) (m2 : Nat) (e2 : Int) : Ordering :=
  let lo := min e1 e2
  compare (m1 <<< (e1 - lo).toNat) (m2 <<< (e2 - lo).toNat)

/-- `Sat(fmt, x)` with its flags (R73, R127). -/
def Fmt.sat (f : Fmt) (x : Num) : Num × Fl :=
  let (mm, me) := f.maxFin
  match x with
  | .nan s => (.nan s, 0)
  | .inf neg => if neg && !f.signed then (.fin false 0 0 false, flNV) else (.fin neg mm me false, flOF ||| flNX)
  | .fin neg m e st =>
    if neg && !f.signed then (.fin false 0 0 false, flIf (m != 0 || st) flNV)
    else
      match cmpMag m e mm me with
      | .gt => (.fin neg mm me false, flOF ||| flNX)
      | .eq => if st then (.fin neg mm me false, flOF ||| flNX) else (x, 0)
      | .lt => (x, 0)

/-- Round after an optional Sat (R127, R128). -/
def Fmt.satRound (f : Fmt) (sat : Bool) (rm : Nat) (x : Num) : Nat × Fl :=
  if sat then
    let (y, a) := f.sat x
    let (c, b) := f.round rm y
    (c, a ||| b)
  else f.round rm x

/-! ### Exact arithmetic -/

/-- A signalling NaN. -/
def Num.isSig : Num → Bool
  | .nan s => s
  | _ => false
/-- A NaN. -/
def Num.isNan : Num → Bool
  | .nan _ => true
  | _ => false
/-- The sign of a value that is not a NaN. -/
def Num.neg? : Num → Bool
  | .nan _ => false
  | .inf n => n
  | .fin n _ _ _ => n
/-- A zero. -/
def Num.isZero : Num → Bool
  | .fin _ m _ st => m == 0 && !st
  | _ => false
/-- The value with its sign changed. -/
def Num.negate : Num → Num
  | .nan s => .nan s
  | .inf n => .inf (!n)
  | .fin n m e st => .fin (!n) m e st
/-- Zero. -/
def Num.zero : Num := .fin false 0 0 false
/-- The result of an operation with a NaN source, and its flag (R62, R63). -/
def nanOf (l : List Num) : Option (Num × Fl) :=
  if l.any Num.isNan then some (.nan false, flIf (l.any Num.isSig) flNV) else none

/-- x + y, exact; `rm` decides the sign of an exact zero sum (R66). -/
def Num.add (rm : Nat) (x y : Num) : Num × Fl :=
  match nanOf [x, y] with
  | some r => r
  | none =>
    match x, y with
    | .inf a, .inf b => if a == b then (.inf a, 0) else (.nan false, flNV)
    | .inf a, _ => (.inf a, 0)
    | _, .inf b => (.inf b, 0)
    | .fin n1 m1 e1 _, .fin n2 m2 e2 _ =>
      let lo := min e1 e2
      let a := m1 <<< (e1 - lo).toNat
      let b := m2 <<< (e2 - lo).toNat
      if n1 == n2 then (.fin n1 (a + b) lo false, 0)
      else if a == b then (.fin (rm == 3) 0 lo false, 0)
      else if b < a then (.fin n1 (a - b) lo false, 0)
      else (.fin n2 (b - a) lo false, 0)
    | _, _ => (.nan false, 0)

/-- x × y, exact. -/
def Num.mul (x y : Num) : Num × Fl :=
  match nanOf [x, y] with
  | some r => r
  | none =>
    let s := x.neg? != y.neg?
    match x, y with
    | .fin _ m1 e1 _, .fin _ m2 e2 _ => (.fin s (m1 * m2) (e1 + e2) false, 0)
    | _, _ => if x.isZero || y.isZero then (.nan false, flNV) else (.inf s, 0)

/-- x × y + z, exact before its one rounding; ∞ × 0 is invalid whatever z is (R128). -/
def Num.fma (rm : Nat) (x y z : Num) : Num × Fl :=
  let (p, a) := x.mul y
  let (r, b) := p.add rm z
  (r, a ||| b)

/-- The quotient m1 / m2 × 2^e with 72 bits or more, and a sticky bit. -/
def divMag (m1 : Nat) (e1 : Int) (m2 : Nat) (e2 : Int) : Nat × Int × Bool :=
  let k := bitLen m2 + 72 - bitLen m1
  let n := m1 <<< k
  (n / m2, e1 - e2 - k, n % m2 != 0)

/-- x ÷ y (R78, R79). -/
def Num.div (x y : Num) : Num × Fl :=
  match nanOf [x, y] with
  | some r => r
  | none =>
    let s := x.neg? != y.neg?
    match x, y with
    | .inf _, .inf _ => (.nan false, flNV)
    | .inf _, _ => (.inf s, 0)
    | _, .inf _ => (.fin s 0 0 false, 0)
    | .fin _ m1 e1 _, .fin _ m2 e2 _ =>
      if m2 == 0 then (if m1 == 0 then (.nan false, flNV) else (.inf s, flDZ))
      else if m1 == 0 then (.fin s 0 0 false, 0)
      else
        let (q, e, st) := divMag m1 e1 m2 e2
        (.fin s q e st, 0)
    | _, _ => (.nan false, 0)

/-- The integer square root, bit by bit from bit `n - 1` down, over a root found so far. -/
def isqrtGo (m : Nat) : Nat → Nat → Nat
  | 0, r => r
  | k + 1, r =>
    let t := r + 2 ^ k
    isqrtGo m k (if t * t ≤ m then t else r)
/-- The integer square root. -/
def isqrt (m : Nat) : Nat := isqrtGo m (bitLen m / 2 + 1) 0

/-- The square root of a finite positive m × 2^e. -/
def sqrtMag (m : Nat) (e : Int) : Nat × Int × Bool :=
  let k0 := 150 - bitLen m
  let k := if (e - k0) % 2 == 0 then k0 else k0 + 1
  let n := m <<< k
  let s := isqrt n
  (s, (e - k) / 2, s * s != n)

/-- √x (R79). -/
def Num.sqrt (x : Num) : Num × Fl :=
  match x with
  | .nan s => (.nan false, flIf s flNV)
  | .inf neg => if neg then (.nan false, flNV) else (.inf false, 0)
  | .fin neg m e _ =>
    if m == 0 then (x, 0)
    else if neg then (.nan false, flNV)
    else let (s, f, st) := sqrtMag m e; (.fin false s f st, 0)

/-- 1/√x (R79). -/
def Num.rsqrt (x : Num) : Num × Fl :=
  match x with
  | .nan s => (.nan false, flIf s flNV)
  | .inf neg => if neg then (.nan false, flNV) else (.fin false 0 0 false, 0)
  | .fin neg m e _ =>
    if m == 0 then (.inf neg, flDZ)
    else if neg then (.nan false, flNV)
    else
      let (m, e) := if e % 2 == 0 then (m, e) else (2 * m, e - 1)
      let k := bitLen m + 80
      let n := 2 ^ (2 * k)
      let s := isqrt (n / m)
      (.fin false s (-(k : Int) - e / 2) (s * s * m != n), 0)

/-! ### Comparison, minimum and maximum (R77) -/

/-- The order of two values that are not NaN; −0 equals +0. -/
def Num.cmp (x y : Num) : Ordering :=
  match x, y with
  | .inf a, .inf b => if a == b then .eq else if a then .lt else .gt
  | .inf a, _ => if a then .lt else .gt
  | _, .inf b => if b then .gt else .lt
  | .fin n1 m1 e1 _, .fin n2 m2 e2 _ =>
    if m1 == 0 && m2 == 0 then .eq
    else if m1 == 0 then (if n2 then .gt else .lt)
    else if m2 == 0 then (if n1 then .lt else .gt)
    else if n1 != n2 then (if n1 then .lt else .gt)
    else if n1 then cmpMag m2 e2 m1 e1 else cmpMag m1 e1 m2 e2
  | _, _ => .eq

/-- The order of two values that are not NaN, with −0 below +0 (R77). -/
def Num.cmpZ (x y : Num) : Ordering :=
  match x.cmp y with
  | .eq => if x.neg? == y.neg? then .eq else if x.neg? then .lt else .gt
  | o => o

/-- The IEEE minimum or maximum of two codes, with NaN or number preferred (R77, R129): result code and flags. -/
def minMaxCode (f : Fmt) (wantMax numberFirst : Bool) (a b : Nat) : Nat × Fl :=
  let x := f.decode a
  let y := f.decode b
  let fl := flIf (x.isSig || y.isSig) flNV
  if x.isNan || y.isNan then
    if numberFirst && !x.isNan then (a, fl)
    else if numberFirst && !y.isNan then (b, fl)
    else (f.nanCode, fl)
  else
    match x.cmpZ y with
    | .lt => (if wantMax then b else a, fl)
    | .gt => (if wantMax then a else b, fl)
    | .eq => (a, fl)

/-- The FCMP conditions (R131): result and flags. -/
def fcmpCond (cond : Nat) (x y : Num) : Bool × Fl :=
  let un := x.isNan || y.isNan
  let sig := x.isSig || y.isSig
  let o := x.cmp y
  let quiet := flIf sig flNV
  let loud := flIf un flNV
  match cond with
  | 0 => (!un && o == .eq, quiet)
  | 1 => (un || o != .eq, quiet)
  | 2 => (!un && o == .lt, loud)
  | 3 => (!un && o != .gt, loud)
  | 4 => (!un && o == .gt, loud)
  | 5 => (!un && o != .lt, loud)
  | 6 => (un, quiet)
  | _ => (!un, quiet)

/-- The FCLASS bit of a value (R132). -/
def fclassBit (f : Fmt) (x : Num) : Nat :=
  match x with
  | .nan s => if s then 8 else 9
  | .inf neg => if neg then 0 else 7
  | .fin neg m _ _ =>
    if m == 0 then (if neg then 3 else 4)
    else if m < 2 ^ f.mb then (if neg then 2 else 5)
    else (if neg then 1 else 6)

/-- A finite value rounded to an integer magnitude, and whether it is inexact (R133, R76). -/
def toIntegral (rm : Nat) (neg : Bool) (m : Nat) (e : Int) : Nat × Bool := roundAt rm neg m e false 0

/-- FRND: code and whether the value changed (R133). -/
def frndCode (f : Fmt) (rm : Nat) (x : Num) : Nat × Fl × Bool :=
  match x with
  | .nan s => (f.nanCode, flIf s flNV, false)
  | .inf neg => (f.infCode neg, 0, false)
  | .fin neg m e _ =>
    if 0 ≤ e then ((f.round 0 x).1, 0, false)
    else
      let (n, inexact) := toIntegral rm neg m e
      ((f.round 0 (.fin neg n 0 false)).1, 0, inexact)

/-- The range of an integer type of width `w` (R58). -/
def intRange (signed : Bool) (w : Nat) : Int × Int :=
  if signed then (-((2 ^ (w - 1) : Nat) : Int), ((2 ^ (w - 1) : Nat) : Int) - 1) else (0, ((2 ^ w : Nat) : Int) - 1)
/-- A value clamped to a range. -/
def clampInt (r : Int × Int) (v : Int) : Int := if v < r.1 then r.1 else if r.2 < v then r.2 else v

/-- Conversion to an integer type (R76): pattern and flags. -/
def toIntCode (signed : Bool) (w rm : Nat) (x : Num) : Nat × Fl :=
  let r := intRange signed w
  match x with
  | .nan _ => (0, flNV)
  | .inf neg => (pat w (if neg then r.1 else r.2), flNV)
  | .fin neg m e _ =>
    let (n, inexact) := if 0 ≤ e then (m <<< e.toNat, false) else toIntegral rm neg m e
    let v : Int := if neg then -(n : Int) else n
    if v < r.1 || r.2 < v then (pat w (clampInt r v), flNV) else (pat w v, flIf inexact flNX)

/-- An integer as an exact value; zero is +0. -/
def Num.ofInt (v : Int) : Num := .fin (v < 0) v.natAbs 0 false

/-! ### Enclosures of the special functions (R78, R81)

Fixed point with `w` fraction bits. Each function answers an integer within `slack w` units of its exact value. -/

/-- The error bound of the fixed-point functions below, in units of the last place: each adds up fewer than `w` terms. -/
def slack (w : Nat) : Nat := 2 ^ 32 * (w + 1)

/-- The series z + z³/3 + z⁵/5 + …, from term 2k + 1 on, with `n` terms left: z² and the current odd power. -/
def atanhGo (w z2 : Nat) : Nat → Nat → Nat → Nat
  | 0, _, _ => 0
  | n + 1, k, p => p / (2 * k + 1) + atanhGo w z2 n (k + 1) ((p * z2) >>> w)
/-- atanh of a fixed-point z in [0, 1/3]. -/
def atanhFix (w z : Nat) : Nat := atanhGo w ((z * z) >>> w) (w / 3 + 4) 0 z
/-- ln 2 = 2 atanh(1/3). -/
def ln2Fix (w : Nat) : Nat := 2 * atanhFix w (2 ^ w / 3)
/-- The exponential series from term `k` on, with `n` terms left. -/
def expGo (w t : Nat) : Nat → Nat → Nat → Nat
  | 0, _, _ => 0
  | n + 1, k, p => p + expGo w t n (k + 1) (((p * t) >>> w) / (k + 1))
/-- exp of a fixed-point t in [0, 1]. -/
def expFix (w t : Nat) : Nat := expGo w t (w / 2 + 8) 0 (2 ^ w)
/-- arctan of 1/q as an alternating series. -/
def atanInvGo (w q2 : Nat) : Nat → Nat → Nat → Int
  | 0, _, _ => 0
  | n + 1, k, p => ((p / (2 * k + 1) : Nat) : Int) - atanInvGo w q2 n (k + 1) (p / q2)
/-- arctan(1/q). -/
def atanInv (w q : Nat) : Int := atanInvGo w (q * q) (w / 4 + 4) 0 (2 ^ w / q)
/-- π = 16 arctan(1/5) − 4 arctan(1/239). -/
def piFix (w : Nat) : Nat := (16 * atanInv w 5 - 4 * atanInv w 239).toNat
/-- The series 1 − u/(2·3) + u²/(2·3·4·5) − …, from term `k` on. -/
def sincGo (w u : Nat) : Nat → Nat → Nat → Int
  | 0, _, _ => 0
  | n + 1, k, p => (p : Int) - sincGo w u n (k + 1) (((p * u) >>> w) / ((2 * k + 2) * (2 * k + 3)))
/-- sin(πx)/x for a fixed-point x in [0, 1/2]. -/
def sincFix (w x : Nat) : Nat :=
  let pi := piFix w
  let a := (pi * x) >>> w
  ((sincGo w ((a * a) >>> w) (w / 4 + 12) 0 (2 ^ w)).toNat * pi) >>> w

/-- A value within `slack w` units of `y × 2^k`, positive and not exactly representable, rounded if the enclosure
decides it. -/
def decideFix (f : Fmt) (sat : Bool) (rm w : Nat) (neg : Bool) (y : Int) (k : Int) : Option (Nat × Fl) :=
  let lo := (y - slack w).toNat
  let hi := (y + slack w).toNat
  if y ≤ slack w then none
  else
    let a := f.satRound sat rm (.fin neg lo k true)
    let b := f.satRound sat rm (.fin neg hi k true)
    if a = b then some a else none

/-- The first precision that decides. -/
def firstDecided (ws : List Nat) (k : Nat → Option (Nat × Fl)) : Option (Nat × Fl) := ws.findSome? k

/-- The working precisions tried, in bits. The last lies beyond the distance that any of the results keeps from a rounding boundary
(DEDUCED, log entry 10). -/
def precisions : List Nat := [256, 420, 900, 2 ^ 200]

/-- The fraction bits of m × 2^e in fixed point. -/
def fixOf (w m : Nat) (e : Int) : Nat := (shiftInt m (e + w)).1

/-- Just above 1, or just below 1, within 2^-80. -/
def nearOne (below : Bool) : Num := if below then .fin false (2 ^ 80 - 1) (-80) true else .fin false 1 0 true

/-- What a special function makes of a finite source: an exact value with its flags, or an enclosure by precision. -/
inductive Spec where
  | exact (x : Num) (f : Fl)
  | approx (k : Nat → Option (Nat × Fl))

/-- The code of a special function's result (R78, R79): the first enclosure that decides the rounding, and one of the precisions does
(log entry 10). -/
def Spec.finish (f : Fmt) (sat : Bool) (rm : Nat) (s : Spec) : Nat × Fl :=
  match s with
  | .exact x fl => let (c, g) := f.satRound sat rm x; (c, fl ||| g)
  | .approx k => (firstDecided precisions k).getD (f.nanCode, flNX)

/-- 2^x. -/
def exp2Spec (f : Fmt) (sat : Bool) (rm : Nat) (x : Num) : Spec :=
  match x with
  | .nan s => .exact (.nan false) (flIf s flNV)
  | .inf neg => if neg then .exact Num.zero 0 else .exact (.inf false) 0
  | .fin neg m e _ =>
    if m == 0 then .exact (.fin false 1 0 false) 0
    else if (bitLen m : Int) + e > 13 then .exact (.fin false 1 (if neg then -8200 else 8200) true) 0
    else if (bitLen m : Int) + e < -80 then .exact (nearOne neg) 0
    else
      -- x = k + r, 0 ≤ r < 1, in units of 2^e
      let v : Int := if neg then -(m : Int) else m
      let u : Int := if 0 ≤ e then 1 else ((2 ^ (-e).toNat : Nat) : Int)
      let vv : Int := if 0 ≤ e then v * ((2 ^ e.toNat : Nat) : Int) else v
      let k := vv / u
      let r := (vv % u).toNat
      if r == 0 then .exact (.fin false 1 k false) 0
      else .approx (fun w =>
        let t := (fixOf w r (min e 0) * ln2Fix w) >>> w
        decideFix f sat rm w false (expFix w t) (k - w))

/-- exp(x) × 2^j for a finite non-zero x. -/
def expSpec (f : Fmt) (sat : Bool) (rm : Nat) (j : Int) (neg : Bool) (m : Nat) (e : Int) : Spec :=
  if (bitLen m : Int) + e > 13 then .exact (.fin false 1 (if neg then -8200 else 8200) true) 0
  else if (bitLen m : Int) + e < -80 then
    .exact (match nearOne neg with | .fin a b c d => .fin a b (c + j) d | y => y) 0
  else .approx (fun w =>
    let l := ln2Fix w
    let a : Int := (shiftInt m (e + w)).1
    let v : Int := if neg then -a else a
    let k := v / l
    let t := (v % l).toNat
    decideFix f sat rm w false (expFix w t) (k + j - w))

/-- log₂ x. -/
def log2Spec (f : Fmt) (sat : Bool) (rm : Nat) (x : Num) : Spec :=
  match x with
  | .nan s => .exact (.nan false) (flIf s flNV)
  | .inf neg => if neg then .exact (.nan false) flNV else .exact (.inf false) 0
  | .fin neg m e _ =>
    if m == 0 then .exact (.inf true) flDZ
    else if neg then .exact (.nan false) flNV
    else
      let n := bitLen m
      let k : Int := e + n - 1
      if m == 2 ^ (n - 1) then .exact (Num.ofInt k) 0
      else .approx (fun w =>
        let g := fixOf w m (1 - (n : Int))          -- in [1, 2)
        let z := ((g - 2 ^ w) <<< w) / (g + 2 ^ w)
        let y : Int := k * ((2 ^ w : Nat) : Int) + (((2 * atanhFix w z) <<< w) / ln2Fix w : Nat)
        decideFix f sat rm w (y < 0) y.natAbs (-(w : Int)))

/-- sin(πx) for x = m × 2^e in (0, 1/2), with a sign. -/
def sinSmall (f : Fmt) (sat : Bool) (rm : Nat) (neg : Bool) (m : Nat) (e : Int) : Spec :=
  .approx (fun w =>
    let s := sincFix w (fixOf w m e)
    let lo := m * (s - slack w)
    let hi := m * (s + slack w)
    let a := f.satRound sat rm (.fin neg lo (e - w) true)
    let b := f.satRound sat rm (.fin neg hi (e - w) true)
    if a = b then some a else none)

/-- sin(πx). -/
def sinpSpec (f : Fmt) (sat : Bool) (rm : Nat) (x : Num) : Spec :=
  match x with
  | .nan s => .exact (.nan false) (flIf s flNV)
  | .inf _ => .exact (.nan false) flNV
  | .fin neg m e _ =>
    if m == 0 || 0 ≤ e then .exact (.fin neg 0 0 false) 0
    else
      let one := 2 ^ (-e).toNat
      let n := m % (2 * one)
      let s := neg != decide (one ≤ n)
      let r := n % one
      let r := if one < 2 * r then one - r else r
      if r == 0 then .exact (.fin neg 0 0 false) 0
      else if 2 * r == one then .exact (.fin s 1 0 false) 0
      else sinSmall f sat rm s r e

/-- cos(πx). -/
def cospSpec (f : Fmt) (sat : Bool) (rm : Nat) (x : Num) : Spec :=
  match x with
  | .nan s => .exact (.nan false) (flIf s flNV)
  | .inf _ => .exact (.nan false) flNV
  | .fin _ m e _ =>
    if 1 ≤ e || m == 0 then .exact (.fin false 1 0 false) 0
    else
      let one := 2 ^ (-e).toNat
      let n := m % (2 * one)
      let r := if one < n then 2 * one - n else n
      let s := decide (one < 2 * r)
      let r := if one < 2 * r then one - r else r
      if r == 0 then .exact (.fin s 1 0 false) 0
      else if 2 * r == one then .exact Num.zero 0
      else if (bitLen r : Int) + e < -42 then
        .exact (match nearOne true with | .fin _ b c d => .fin s b c d | y => y) 0
      else sinSmall f sat rm s (one - 2 * r) (e - 1)

/-- tanh x. -/
def tanhSpec (f : Fmt) (sat : Bool) (rm : Nat) (x : Num) : Spec :=
  match x with
  | .nan s => .exact (.nan false) (flIf s flNV)
  | .inf neg => .exact (.fin neg 1 0 false) 0
  | .fin neg m e _ =>
    if m == 0 then .exact x 0
    else if (bitLen m : Int) + e > 6 then
      .exact (match nearOne true with | .fin _ b c d => .fin neg b c d | y => y) 0
    else if (bitLen m : Int) + e < -42 then
      let k := 80 - bitLen m
      .exact (.fin neg (m <<< k - 1) (e - k) true) 0
    else .approx (fun w =>
      -- F = exp(−2x); tanh x = (1 − F) / (1 + F)
      let l := ln2Fix w
      let v : Int := -(((shiftInt m (e + 1 + w)).1 : Nat) : Int)
      let k := v / l
      let t := (v % l).toNat
      let ff := expFix w t >>> (-k).toNat
      decideFix f sat rm w neg (((2 ^ w - ff) <<< w) / (2 ^ w + ff) : Nat) (-(w : Int)))

/-- The special functions by opcode (R137): code and flags. -/
def specialCode (f : Fmt) (sat : Bool) (rm opc code : Nat) : Nat × Fl :=
  let x := f.decode code
  let plain (r : Num × Fl) : Nat × Fl := let (c, g) := f.satRound sat rm r.1; (c, r.2 ||| g)
  match opc with
  | 0x101 => plain (Num.div (.fin false 1 0 false) x)
  | 0x102 => plain x.sqrt
  | 0x103 => plain x.rsqrt
  | 0x104 => (exp2Spec f sat rm x).finish f sat rm
  | 0x105 => (log2Spec f sat rm x).finish f sat rm
  | 0x106 => (sinpSpec f sat rm x).finish f sat rm
  | 0x107 => (cospSpec f sat rm x).finish f sat rm
  | _ => (tanhSpec f sat rm x).finish f sat rm

/-- EXPQ: Round(e4m3, Sat(e4m3, exp(x) × 256), rn) (R81). -/
def expqCode (f : Fmt) (code : Nat) : Nat × Fl :=
  let q := fmtOfReg (prebuilt 0)
  match f.decode code with
  | .nan s => (q.nanCode, flIf s flNV)
  | .inf neg => q.satRound true 0 (if neg then Num.zero else .inf false)
  | .fin neg m e _ =>
    if m == 0 then q.satRound true 0 (.fin false 1 8 false)
    else (expSpec q true 0 8 neg m e).finish q true 0

/-- Round(f32, exp(x), rn) of an exact difference x (R175). -/
def expRoundF32 (x : Num) : Nat :=
  match x with
  | .nan _ => fmtF32.nanCode
  | .inf neg => if neg then 0 else fmtF32.infCode false
  | .fin neg m e _ =>
    if m == 0 then 0x3F800000 else ((expSpec fmtF32 false 0 0 neg m e).finish fmtF32 false 0).1

/-! ### Sums of matrix and norm instructions (R82, R83, R197, R205) -/

/-- The exact sum of products of one step, with the special cases of R83. -/
def exactSum (l : List Num) : Num := l.foldl (fun a x => (Num.add 0 a x).1) Num.zero

/-- The FP32 sum of a list of codes added one at a time, each rounded RNE. -/
def addF32 (a b : Nat) : Nat :=
  (fmtF32.round 0 ((Num.add 0 (fmtF32.decode a) (fmtF32.decode b)).1)).1

end Sys2Proof.Machine
end

