-- ==== Sys2Proof/Machine/Operands.lean ====
section
/-!
DEFINITION. The operand forms: sub-element selectors, immediates, packed and single shapes, guarded element writes, and
the effective addresses of memory instructions (R21, R26, R46, R48, R88, R111, R149, R150).
-/
namespace Sys2Proof.Machine

/-- The byte offset a selector names for element `e` of width `w`: the element itself when the whole register is
selected (R48, R111). -/
def selOff (w : Nat) (sel : BitVec 4) (e : Nat) : Nat := if sel = 15 then e else sel.toNat * (w / 8)
/-- The byte offsets of D's elements: all of them, or the selected one (R111). -/
def dstOffsets (w : Nat) (sel : BitVec 4) : List Nat := if sel = 15 then packedOffsets w else [sel.toNat * (w / 8)]

/-- A binary32 encoding widened exactly to binary64, a NaN's payload kept (R46, R62). -/
def widenF32 (v : Nat) : Nat :=
  if bits v 23 8 = 255 then bits v 31 1 * 2 ^ 63 + 0x7FF * 2 ^ 52 + bits v 0 23 * 2 ^ 29
  else (fmtF64.round 0 (fmtF32.decode v)).1

/-- IMM32 as an element of a type (R46). -/
def immElem (ty : BitVec 4) (v : BitVec 32) : Nat :=
  let w := (typeWidth? ty).getD 64
  if ty.toNat < 4 then pat w (sint (min w 32) v.toNat)
  else if ty = 11 then widenF32 v.toNat
  else v.toNat % 2 ^ w

/-- Source A of a vector instruction at element `e`. -/
def Group.srcA (x : Group) (f : VFmt) (w t e : Nat) : Nat := x.elemV t f.a.toNat (selOff w f.selA e) w
/-- Source B, or the immediate. -/
def Group.srcB (x : Group) (f : VFmt) (w t e : Nat) : Nat :=
  match f.src with
  | .imm v => immElem f.type v
  | .regs b _ _ _ => x.elemV t b.toNat (selOff w f.selB e) w
/-- Source C. -/
def Group.srcC (x : Group) (f : VFmt) (w t e : Nat) : Nat := x.elemV t f.c.toNat (selOff w f.selC e) w

/-- A register with the enabled elements replaced: `k e` is the new element at byte offset `e` (R111). -/
def newWord (old : Word) (en : Nat → Bool) (w : Nat) (offs : List Nat) (k : Nat → Nat) : Word :=
  offs.foldl (fun acc e => if en e then setElem acc e w (k e) else acc) old

/-- The flags of the enabled elements of one thread. -/
def newFlags (en : Nat → Bool) (offs : List Nat) (k : Nat → Fl) : Fl :=
  offs.foldl (fun acc e => if en e then acc ||| k e else acc) 0

/-- A vector instruction writes D in every enabled element of every active thread; every source is read before any
write, and every computed element contributes to FLAGS (R68, R111). -/
def Group.elementwise (x : Group) (g : Guard) (active : Mask) (d w : Nat) (offs : List Nat) (k : Nat → Nat → Nat × Fl) :
    Group :=
  ((threadsOf active).foldl
    (fun y t => y.wv t d (newWord (x.rv t d) (x.enabled g t) w offs (fun e => (k t e).1))) x).raiseFlags
    ((threadsOf active).foldl (fun fl t => fl ||| newFlags (x.enabled g t) offs (fun e => (k t e).2)) 0)

/-- The elementwise effect of format VR or VI over D's selector. -/
def Group.vecOp (x : Group) (f : VFmt) (active : Mask) (w : Nat) (k : Nat → Nat → Nat × Fl) : Group :=
  x.elementwise f.g active f.d.toNat w (dstOffsets w f.selD) k

/-- The byte flags of the enabled elements replaced by a test (R115). -/
def newPred (old : BitVec 8) (en : Nat → Bool) (w : Nat) (offs : List Nat) (k : Nat → Bool) : BitVec 8 :=
  offs.foldl (fun acc e => if en e then setFlags acc e (w / 8) (k e) else acc) old

/-- A compare writes a predicate in every enabled element of every active thread (R115, R131). -/
def Group.cmpOp (x : Group) (f : VFmt) (active : Mask) (w : Nat) (k : Nat → Nat → Bool × Fl) : Group :=
  ((threadsOf active).foldl
    (fun y t => y.wp t f.d.toNat
      (newPred (x.rp t f.d.toNat) (x.enabled f.g t) w (dstOffsets w f.selD) (fun e => (k t e).1))) x).raiseFlags
    ((threadsOf active).foldl
      (fun fl t => fl ||| newFlags (x.enabled f.g t) (dstOffsets w f.selD) (fun e => (k t e).2)) 0)

/-- A scalar instruction writes the packed elements of Sd that the leader's guard enables (R88, R121). -/
def Group.scalarOp (x : Group) (g : Guard) (active : Mask) (d w : Nat) (k : Nat → Nat) : Group :=
  x.ws d (newWord (x.rs d) (x.enabled g (leader active)) w (packedOffsets w) k)

/-- The leader's guard bit 0 enables a uniform instruction's 64-bit element (R88). -/
def Group.leaderOn (x : Group) (g : Guard) (active : Mask) : Bool := x.enabled g (leader active) 0

/-- The threads of the active set that a per-thread instruction without elements enables: bit 0 of the guard (R88). -/
def Group.onSet (x : Group) (g : Guard) (active : Mask) : Mask := maskOf (x.enabledSet g active 0)

/-! ### Memory operands -/

/-- The element of a memory instruction is `.w` wide under `.addbf2`, else as its type (R150, R160). -/
def mWidth (f : MFmt) : Nat :=
  if f.selD = 15 then 64 else if f.subop = 8 && f.type = 9 then 32 else (typeWidth? f.type).getD 64
/-- Its byte offset in the register. -/
def mOff (f : MFmt) : Nat := if f.selD = 15 then 0 else f.selD.toNat * (mWidth f / 8)
/-- EA of a thread: base and offset modulo 2^64 (R149). -/
def Group.ea (x : Group) (f : MFmt) (t : Nat) : Nat :=
  let base := if f.saddr then (x.rs (f.addr.toNat % 128)).toNat else (x.rv t f.addr.toNat).toNat
  pat 64 ((base : Int) + sint 24 f.off.toNat)
/-- EA of a gather or scatter lane: S[SBASE] + index × 2^SCL + offset, the index signed (R157). -/
def Group.gatherEa (x : Group) (f : MFmt) (t : Nat) : Nat :=
  pat 64 (((x.rs (f.ext.toNat / 4)).toNat : Int) + sint 64 (x.rv t f.addr.toNat).toNat * ((2 ^ (f.ext.toNat % 4) : Nat) : Int)
    + sint 24 f.off.toNat)
/-- The threads whose element is enabled (R21, R150). -/
def Group.memThreads (x : Group) (f : MFmt) (active : Mask) : List Nat := x.enabledSet f.g active (mOff f)
/-- An address with the low bits of an element of `n` bytes cleared (R161). -/
def alignDown (a n : Nat) : Nat := a / n * n

/-- A path code of .sp (R52). -/
def spPath (f : MFmt) : Bool := f.path == 3

end Sys2Proof.Machine
end

