-- ==== Sys2Proof/Machine/SpAccess.lean ====
section
/-!
DEFINITION. Loads of scratchpad lines that wait on full/empty bits, what a line that becomes full releases, and the fill
of mapped lines (R153, R255 to R257); the end of an operation and its retirement (R152).
-/
namespace Sys2Proof.Machine

/-! ### Operations of a group, by reference -/

/-- An outstanding operation with its group. -/
def State.opAt? (s : State) (r : OpRef) : Option (Group × Op) :=
  match s.group? r.group with
  | none => none
  | some x => (x.op? r.op).map (fun o => (x, o))
/-- The acquire that the ORDER and SCOPE of a table instruction ask for as its accesses are performed (R274, R283). -/
def State.acquireFor (s : State) (core : Nat) (i : Instr) : State :=
  match i.view with
  | .e _ f => s.acquireBy core f.order.toNat f.scope.toNat
  | _ => s
/-- An operation's effect is complete (R152); a table instruction that acquires has now performed its reads. -/
def State.finishOp (s : State) (r : OpRef) : State :=
  match s.opAt? r with
  | some (x, o) => (s.setGroup r.group (x.opDone o)).acquireFor x.core o.instr
  | none => s
/-- What remains of an operation. -/
def State.setWork (s : State) (r : OpRef) (w : Work) : State :=
  s.updGroup r.group (fun x => match x.op? r.op with | some o => x.setOp { o with work := w } | none => x)
/-- An operation stops at an address, and will retire marked failed (R385). -/
def State.stopOp (s : State) (r : OpRef) (addr : Nat) : State :=
  s.updGroup r.group (fun x => match x.op? r.op with
    | some o => x.setOp { o with work := .idle, done := true, failed := some addr }
    | none => x)
/-- An engine operation meets uncorrectable data at an address of global memory (R385). -/
def State.failOp (s : State) (r : OpRef) (addr : Nat) : State :=
  (s.stopOp r addr).logBad (match s.group? r.group with | some x => s.ctxOf x.launch | none => 0) addr 1

/-! ### The data register of a memory instruction -/

/-- The fields of a MEM instruction. -/
def memFmt? (i : Instr) : Option MFmt := match i.view with | .m _ f => some f | _ => none
/-- Bytes of a value put into DATA from byte `b` of the register on: V of a thread, or S of a uniform load (R155). -/
def Group.putData (x : Group) (i : Instr) (t b : Nat) (l : List Byte) : Group :=
  match memFmt? i with
  | none => x
  | some f =>
    let put (w : Word) : Word := setElem w b (8 * l.length) (ofLe l)
    if f.g.u then x.ws (f.data.toNat % 128) (put (x.rs (f.data.toNat % 128)))
    else x.wv t f.data.toNat (put (x.rv t f.data.toNat))

/-! ### Full and empty lines (R256) -/

/-- The requests of an operation that name a line. -/
def Op.reqsOn (o : Op) (core line : Nat) : List SpReq :=
  match o.work with
  | .spLoad _ l => l.filter (fun r => r.core == core && r.line == line)
  | _ => []
/-- The operation's loads carry `.take`. -/
def Op.takes (o : Op) : Bool := match o.work with | .spLoad t _ => t | _ => false
/-- An operation that has left issue meets a word of scratchpad that cannot be corrected, at an offset of a core (R384, R385). -/
def State.failSram (s : State) (r : OpRef) (core off : Nat) : State :=
  (s.stopOp r (match s.group? r.group with | some x => (core + 8 - x.core % 8) % 8 * 2 ^ 19 + off | none => off)).logError 2
    (whereWord (dieOf core) core (off / 16384) 2) 0
/-- Every request of an operation on a line is served: its bytes go to DATA, and an operation with none left is done. A word that cannot be
corrected stops it (log entry 87). -/
def State.serveOp (s : State) (core line : Nat) (r : OpRef) : State :=
  match s.opAt? r with
  | none => s
  | some (x, o) =>
    match o.work with
    | .spLoad take l =>
      match (o.reqsOn core line).find? (fun q => (s.core core).badSram (line * 128 + q.byte) q.count) with
      | some q => s.failSram r core (line * 128 + q.byte)
      | none =>
      let y := (o.reqsOn core line).foldl
        (fun y q => y.putData o.instr q.thread q.reg
          ((List.range q.count).map (fun i => s.spByte core (line * 128 + q.byte + i)))) x
      let rest := l.filter (fun q => !(q.core == core && q.line == line))
      let o2 : Op := if rest.isEmpty then { o with work := .idle, done := true } else { o with work := .spLoad take rest }
      s.setGroup r.group (y.setOp o2)
    | _ => s
/-- The waiting operations of a core that name a line, in order of arrival. -/
def State.waitersOn (s : State) (core line : Nat) : List OpRef :=
  (s.core core).stalled.filter (fun r => match s.opAt? r with | some (_, o) => !(o.reqsOn core line).isEmpty | none => false)
/-- Operations with nothing left on a core leave its list. -/
def State.tidyStalled (s : State) (core : Nat) : State :=
  let x := s.core core
  s.setCore core { x with stalled := x.stalled.filter (fun r => match s.opAt? r with
    | some (_, o) => (match o.work with | .spLoad _ l => l.any (fun q => q.core == core) | _ => false)
    | none => false) }
/-- The line is empty, and the written mask of a mapped line clear (R153, R257). -/
def State.emptyLine (s : State) (core line : Nat) : State :=
  let s1 := s.setFull core line false
  let x := s1.core core
  s1.setCore core { x with mask := Sparse.put 0 x.mask line 0 }
/-- The waiting operations of a core that a full line serves: those that do not take it, and the first in order of arrival that does
(R256). -/
def State.servedOn (s : State) (core line : Nat) : List OpRef :=
  let ws := s.waitersOn core line
  let isTake (r : OpRef) : Bool := match s.opAt? r with | some (_, o) => o.takes | none => false
  ws.filter (fun r => !isTake r) ++ (ws.find? isTake).toList
/-- A full line releases every access that waits on it; the first `.take` in order of arrival reads it last and empties it (R256). -/
def State.serveLine (s : State) (core line : Nat) : State :=
  if !s.isFull core line then s
  else
    let ws := s.servedOn core line
    let took := ws.any (fun r => match s.opAt? r with | some (_, o) => o.takes | none => false)
    let s1 := ws.foldl (fun s r => s.serveOp core line r) s
    (if took then s1.emptyLine core line else s1).tidyStalled core
/-- The cores whose groups and contexts wait on a line (R256). -/
def State.waitingCores (s : State) (core line : Nat) : List Nat :=
  nubNat ((s.servedOn core line).filterMap (fun r => (s.opAt? r).map (fun p => p.1.core)) ++
    (s.tiles.filter (fun p => p.2.wait == some (.image core line) ||
      p.2.flight.any (fun e => !e.applied && e.needs.contains (core, line)))).map (fun p => p.2.core))
/-- The 128 bytes of a scratchpad line. -/
def State.lineBytes (s : State) (core line : Nat) : List Byte := (List.range 128).map (fun i => s.spByte core (line * 128 + i))
/-- An operand fetch of the matrix engine that waits on a line takes it as the line becomes full. -/
def Inflight.takeLine (e : Inflight) (core line : Nat) (l : List Byte) : Inflight :=
  if !e.applied && e.needs.contains (core, line) then
    { e with needs := e.needs.filter (· != (core, line)), got := e.got ++ [(core, line, l)] }
  else e
/-- So do an instruction of a context that waits on the line and every operand fetch in flight (R153, R256). -/
def State.handLine (s : State) (core line : Nat) : State :=
  let l := s.lineBytes core line
  let hand (y : Tile) : Tile :=
    { y with flight := y.flight.map (fun e => e.takeLine core line l),
             got := if y.wait == some (.image core line) then y.got ++ [(core, line, l)] else y.got }
  { s with tiles := s.tiles.map (fun p => (p.1, hand p.2)) }
/-- A line becomes full, and releases every access that waits on it, loads, operand fetches and contexts, before a `.take`
empties it; each acquires at .clu (R255, R256, R283). -/
def State.fillLine (s : State) (core line : Nat) : State :=
  let s1 := ((s.setFull core line true).handLine core line).serveLine core line
  (s.waitingCores core line).foldl (fun s k => s.acquire k 2) s1
/-- Scratchpad as an instruction sees it that has been handed lines at their fills. -/
def State.overlay (s : State) (got : List (Nat × Nat × List Byte)) : State :=
  got.foldl (fun s e => (e.2.2.mapIdx (fun i b => (i, b))).foldl (fun s p => s.setSpByte e.1 (e.2.1 * 128 + p.1) p.2) s) s
/-- Every line of a list of .sp spans becomes full, once each. -/
def State.fillSpans (s : State) (own : Nat) (l : List (Nat × Nat)) : State :=
  ((l.flatMap (fun q => spLines own q.1 q.2)).eraseDups).foldl (fun s l => s.fillLine l.1 l.2) s

/-- The requests of an element of `n` bytes at a .sp address, one for each line; `b` is its first byte in the register. -/
def spRequests (own thread a n b : Nat) : List SpReq :=
  ((List.range n).filter (fun i => i = 0 || (a + i) % 128 = 0)).map (fun i =>
    let (c, off) := spDecode own (a + i)
    SpReq.mk thread c (off / 128) (off % 128) (min (n - i) (128 - off % 128)) (b + i))
/-- The failing checks of a .sp read: words whose code cannot be corrected (R384), and those of a first-touch fill of the lines that
the span touches empty, which are raised at the touching instruction (R167). -/
def State.touchFailures (s : State) (own a n : Nat) (th : Option Nat) : List Failure :=
  (spLines own a n).flatMap (fun l =>
    if s.isFull l.1 l.2 then []
    else match (s.core l.1).mapOf l.2 with
      | some (_, m) => s.spanFailures (s.ctxOf m.launch) (m.va + (l.2 * 128 - m.off)) 128 .read none th
      | none => []) ++ s.sramFailures own a n th
/-- A load through .sp joins the accesses at its lines, in order of arrival; the full ones serve it at once (R153, R256). -/
def State.queueSp (s : State) (r : OpRef) (reqs : List SpReq) : State :=
  let cores := nubNat (reqs.map (·.core))
  let s1 := cores.foldl (fun s c => let x := s.core c; s.setCore c { x with stalled := x.stalled ++ [r] }) s
  reqs.foldl (fun s q => s.serveLine q.core q.line) s1

/-- The mapped spans of global memory whose first touch a list of .sp spans makes: the lines that are empty (R167). -/
def State.touchSpans (s : State) (own : Nat) (l : List (Nat × Nat)) : List (Nat × Nat) :=
  ((l.flatMap (fun q => spLines own q.1 q.2)).filterMap (fun k =>
    if s.isFull k.1 k.2 then none
    else ((s.core k.1).mapOf k.2).map (fun m => (m.2.va + (k.2 * 128 - m.2.off), 128)))).eraseDups

/-! ### Retirement (R152) -/

/-- The operation can retire: its effect is made, or its result is written now. -/
def Op.ripe (o : Op) : Bool := o.done || (match o.work with | .result _ => true | _ => false)
/-- The scalar destination of an engine instruction. -/
def enDest? (i : Instr) : Option Nat := match i.view with | .e _ f => some f.sd.toNat | _ => none
/-- A lease held for an operation ends with it (R318). -/
def State.dropOpLease (s : State) (d : Nat) (r : OpRef) : State :=
  let x := s.die d
  s.setDie d { x with asking := x.asking.filter (· != .op r), granted := x.granted.filter (· != .op r) }
/-- OPERATION_RETIRE: the oldest operation of its class leaves its counter (R152); a failed one leaves its mark (R385); the
last one of an ended group frees it (R100). -/
def State.retire (s : State) (g n : Nat) : Option State :=
  match s.opAt? (OpRef.mk g n) with
  | none => none
  | some (x, o) =>
    if !o.ripe || (x.ops.find? (fun p => p.cls == o.cls)).map (·.id) != some n then none
    else
      let y := { x with ops := x.ops.filter (fun p => p.id != n),
                        failed := match o.failed with
                          | some a => if x.failed.any (fun p => p.1 == o.cls) then x.failed else x.failed ++ [(o.cls, a)]
                          | none => x.failed }
      let z := match o.work, enDest? o.instr with
        | .result w, some d => y.ws d w
        | _, _ => y
      some (((s.setGroup g z).dropOpLease (dieOf x.core) (OpRef.mk g n)).freeGroup g)
/-- OPERATION_RETIRE (R152). -/
def execOperationRetire (group op : Nat) (s : State) : Host.Outcome State Fault Refusal :=
  whenEnabled "OPERATION_RETIRE" (s.retire group op)

end Sys2Proof.Machine
end

