-- ==== Sys2Proof/Machine/VecInt.lean ====
section
/-!
DEFINITION. Vector integer instructions, compares, selects, bit fields, dot products and predicates (R110 to R120).
-/
namespace Sys2Proof.Machine

/-- The reading of an element by a type's signedness (R112). -/
def ival (signed : Bool) (w x : Nat) : Int := if signed then sint w x else ((x % 2 ^ w : Nat) : Int)
/-- An exact integer result narrowed: clamped under `.sat`, else modulo 2^w (R59). -/
def ifinish (sat signed : Bool) (w : Nat) (v : Int) : Nat := pat w (if sat then clampInt (intRange signed w) v else v)
/-- A type code is signed (R50). -/
def signedTy (c : BitVec 4) : Bool := c.toNat < 4

/-- The two-source integer functions of R112, exact; the shift count reads y as natural. -/
inductive IOp where
  | add | sub | mul | mulh | div | rem | and_ | or_ | xor_ | shl | shr | sra | min | max
deriving DecidableEq, Repr

/-- f(x, y) of R112 before narrowing. -/
def IOp.eval (o : IOp) (signed : Bool) (w x y : Nat) : Int :=
  let a := ival signed w x
  let b := ival signed w y
  let k := (y % 2 ^ w) % w
  match o with
  | .add => a + b
  | .sub => a - b
  | .mul => a * b
  | .mulh => a * b / ((2 ^ w : Nat) : Int)
  | .div => a.tdiv b
  | .rem => a.tmod b
  | .and_ => ((x % 2 ^ w &&& y % 2 ^ w : Nat) : Int)
  | .or_ => ((x % 2 ^ w ||| y % 2 ^ w : Nat) : Int)
  | .xor_ => ((x % 2 ^ w ^^^ y % 2 ^ w : Nat) : Int)
  | .shl => a * ((2 ^ k : Nat) : Int)
  | .shr => ((x % 2 ^ w / 2 ^ k : Nat) : Int)
  | .sra => sint w x / ((2 ^ k : Nat) : Int)
  | .min => if a < b then a else b
  | .max => if a < b then b else a

/-- A two-source integer element (R112). -/
def IOp.elem (o : IOp) (ty : BitVec 4) (sat : Bool) (w x y : Nat) : Nat := ifinish sat (signedTy ty) w (o.eval (signedTy ty) w x y)

/-- A two-source vector integer instruction (R112). -/
def Group.int2 (x : Group) (o : IOp) (f : VFmt) (active : Mask) : Group :=
  x.vecOp f active f.w (fun t e => (o.elem f.type f.sat f.w (x.srcA f f.w t e) (x.srcB f f.w t e), 0))

/-- The instruction's meaning: its elements, then u + 1. -/
def vec2 (o : IOp) (f : VFmt) (s : State) : Host.Outcome State Fault Refusal :=
  withGroup s (fun i g x => s.complete i g (x.int2 o f i.active))

def execVadd (f : VFmt) (s : State) := vec2 .add f s
def execVsub (f : VFmt) (s : State) := vec2 .sub f s
def execVmul (f : VFmt) (s : State) := vec2 .mul f s
def execVmulh (f : VFmt) (s : State) := vec2 .mulh f s
def execVdiv (f : VFmt) (s : State) := vec2 .div f s
def execVrem (f : VFmt) (s : State) := vec2 .rem f s
def execVand (f : VFmt) (s : State) := vec2 .and_ f s
def execVor (f : VFmt) (s : State) := vec2 .or_ f s
def execVxor (f : VFmt) (s : State) := vec2 .xor_ f s
def execVshl (f : VFmt) (s : State) := vec2 .shl f s
def execVshr (f : VFmt) (s : State) := vec2 .shr f s
def execVsra (f : VFmt) (s : State) := vec2 .sra f s
def execVmin (f : VFmt) (s : State) := vec2 .min f s
def execVmax (f : VFmt) (s : State) := vec2 .max f s

/-- Leading zero bits of `x` within `w` (R113). -/
def clz (w x : Nat) : Nat := w - bitLen (x % 2 ^ w)
/-- One bits of `x` within `w` (R113). -/
def popc (w x : Nat) : Nat := ((List.range w).filter (fun i => bitAt x i)).length

/-- The one-source functions of R113, exact. -/
inductive IUn where
  | not_ | abs | clz | popc
deriving DecidableEq, Repr

/-- f(x) of R113 before narrowing. -/
def IUn.eval (o : IUn) (signed : Bool) (w x : Nat) : Int :=
  match o with
  | .not_ => ((2 ^ w - 1 - x % 2 ^ w : Nat) : Int)
  | .abs => ((ival signed w x).natAbs : Int)
  | .clz => (Machine.clz w x : Nat)
  | .popc => (Machine.popc w x : Nat)

/-- A one-source integer element (R113). -/
def IUn.elem (o : IUn) (ty : BitVec 4) (sat : Bool) (w x : Nat) : Nat := ifinish sat (signedTy ty) w (o.eval (signedTy ty) w x)

/-- A one-source vector integer instruction (R113). -/
def vec1 (o : IUn) (f : VFmt) (s : State) : Host.Outcome State Fault Refusal :=
  withGroup s (fun i g x =>
    s.complete i g (x.vecOp f i.active f.w (fun t e => (o.elem f.type f.sat f.w (x.srcA f f.w t e), 0))))

def execVnot (f : VFmt) (s : State) := vec1 .not_ f s
def execVabs (f : VFmt) (s : State) := vec1 .abs f s
def execVclz (f : VFmt) (s : State) := vec1 .clz f s
def execVpopc (f : VFmt) (s : State) := vec1 .popc f s

/-- VMAD: x × y + z, exact before narrowing (R113). -/
def madElem (ty : BitVec 4) (sat : Bool) (w x y z : Nat) : Nat :=
  let sg := signedTy ty
  ifinish sat sg w (ival sg w x * ival sg w y + ival sg w z)

/-- VMAD (R113). -/
def execVmad (f : VFmt) (s : State) : Host.Outcome State Fault Refusal :=
  withGroup s (fun i g x =>
    s.complete i g (x.vecOp f i.active f.w (fun t e =>
      (madElem f.type f.sat f.w (x.srcA f f.w t e) (x.srcB f f.w t e) (x.srcC f f.w t e), 0))))

/-- VMOV copies elements (R114). -/
def execVmov (f : VFmt) (s : State) : Host.Outcome State Fault Refusal :=
  withGroup s (fun i g x => s.complete i g (x.vecOp f i.active f.w (fun t e => (x.srcA f f.w t e, 0))))
/-- VMOVI writes the immediate (R114). -/
def execVmovi (f : VFmt) (s : State) : Host.Outcome State Fault Refusal :=
  withGroup s (fun i g x => s.complete i g (x.vecOp f i.active f.w (fun _ _ => (immElem f.type f.imm, 0))))
/-- VMOVS copies elements of an S register (R114). -/
def execVmovs (f : VFmt) (s : State) : Host.Outcome State Fault Refusal :=
  withGroup s (fun i g x =>
    s.complete i g (x.vecOp f i.active f.w (fun _ e => (elem (x.rs f.a.toNat) (selOff f.w f.selA e) f.w, 0))))

/-- The integer conditions of R115. -/
def icond (cond : Nat) (a b : Int) : Bool :=
  match cond with
  | 0 => a == b
  | 1 => a != b
  | 2 => a < b
  | 3 => a ≤ b
  | 4 => b < a
  | _ => b ≤ a

/-- VCMP (R115). -/
def execVcmp (f : VFmt) (s : State) : Host.Outcome State Fault Refusal :=
  withGroup s (fun i g x =>
    let sg := signedTy f.type
    s.complete i g (x.cmpOp f i.active f.w (fun t e =>
      (icond f.subop.toNat (ival sg f.w (x.srcA f f.w t e)) (ival sg f.w (x.srcB f f.w t e)), 0))))

/-- VSEL (R116). -/
def execVsel (f : VFmt) (s : State) : Host.Outcome State Fault Refusal :=
  withGroup s (fun i g x =>
    s.complete i g (x.vecOp f i.active f.w (fun t e =>
      (if (x.rp t f.c.toNat).getLsbD e then x.srcA f f.w t e else x.srcB f f.w t e, 0))))

/-- The position and clipped length of a bit field (R117). -/
def fieldOf (w k : Nat) : Nat × Nat :=
  let p := bits k 0 6
  let n := bits k 8 6
  (p, min n (w - min p w))

/-- VBFX: the field of A, extended by the type's signedness (R117). -/
def bfxElem (signed : Bool) (w a k : Nat) : Nat :=
  let (p, l) := fieldOf w k
  if l = 0 then 0 else pat w (ival signed l (bits a p l))
/-- VBFI: the base with the field replaced (R117). -/
def bfiElem (w a k c : Nat) : Nat :=
  let (p, l) := fieldOf w k
  c - bits c p l * 2 ^ p + bits a 0 l * 2 ^ p

/-- VBFX (R117). -/
def execVbfx (f : VFmt) (s : State) : Host.Outcome State Fault Refusal :=
  withGroup s (fun i g x =>
    s.complete i g (x.vecOp f i.active f.w (fun t e =>
      (bfxElem (signedTy f.type) f.w (x.srcA f f.w t e) (x.srcB f f.w t e), 0))))
/-- VBFI (R117). -/
def execVbfi (f : VFmt) (s : State) : Host.Outcome State Fault Refusal :=
  withGroup s (fun i g x =>
    s.complete i g (x.vecOp f i.active f.w (fun t e =>
      (bfiElem f.w (x.srcA f f.w t e) (x.srcB f f.w t e) (x.srcC f f.w t e), 0))))

/-- The four-way byte dot product of two 32-bit elements added to a third (R118). -/
def dot4 (signed sat : Bool) (a b c : Nat) : Nat :=
  let sum := (List.range 4).foldl (fun v j => v + ival signed 8 (bits a (8 * j) 8) * ival signed 8 (bits b (8 * j) 8))
    (ival signed 32 c)
  ifinish sat signed 32 sum

/-- VDOT4 (R118). -/
def execVdot4 (f : VFmt) (s : State) : Host.Outcome State Fault Refusal :=
  withGroup s (fun i g x =>
    s.complete i g (x.vecOp f i.active 32 (fun t e =>
      (dot4 (signedTy f.type) f.sat (x.srcA f 32 t e) (x.srcB f 32 t e) (x.srcC f 32 t e), 0))))

/-! ### Predicates (R119, R120) -/

/-- A predicate instruction: bit `j` of P*d*, where the guard enables it, becomes `k t j` (R119). -/
def Group.predOp (x : Group) (f : VFmt) (active : Mask) (k : Nat → Nat → Bool) : Group :=
  (threadsOf active).foldl
    (fun y t => y.wp t f.d.toNat (newPred (x.rp t f.d.toNat) (x.enabled f.g t) 8 (List.range 8) (k t))) x

/-- PSET (R119). -/
def execPset (f : VFmt) (s : State) : Host.Outcome State Fault Refusal :=
  withGroup s (fun i g x =>
    s.complete i g (x.predOp f i.active (fun t j =>
      match f.src with
      | .imm v => v.getLsbD j
      | .regs .. => x.elemV t f.a.toNat j 8 != 0)))
/-- A two-source predicate instruction (R119). -/
def pred2 (k : Bool → Bool → Bool) (f : VFmt) (s : State) : Host.Outcome State Fault Refusal :=
  withGroup s (fun i g x =>
    s.complete i g (x.predOp f i.active (fun t j => k ((x.rp t f.a.toNat).getLsbD j) ((x.rp t f.b.toNat).getLsbD j))))
def execPand (f : VFmt) (s : State) := pred2 (fun a b => a && b) f s
def execPor (f : VFmt) (s : State) := pred2 (fun a b => a || b) f s
def execPxor (f : VFmt) (s : State) := pred2 (fun a b => a != b) f s
/-- PNOT (R119). -/
def execPnot (f : VFmt) (s : State) := pred2 (fun a _ => !a) f s

/-- VOTE over the contributors (R120). -/
def Group.vote (x : Group) (f : VFmt) (active : Mask) : Group :=
  let con := x.enabledSet f.g active 0
  let bitsOf (j : Nat) : List Bool := con.map (fun t => (x.rp t f.a.toNat).getLsbD j)
  if f.subop = 3 then
    let m := (con.filter (fun t => (x.rp t f.a.toNat).getLsbD 0)).foldl (fun a t => a + 2 ^ t) 0
    con.foldl (fun y t => y.wv t f.d.toNat (BitVec.ofNat 64 m)) x
  else
    let res (j : Nat) : Bool :=
      match f.subop.toNat with
      | 0 => (bitsOf j).any id
      | 1 => (bitsOf j).all id
      | _ => (bitsOf j).all id || (bitsOf j).all (fun b => !b)
    con.foldl (fun y t => y.wp t f.d.toNat (newPred 0 (fun _ => true) 8 (List.range 8) res)) x

/-- VOTE (R120). -/
def execVote (f : VFmt) (s : State) : Host.Outcome State Fault Refusal :=
  withGroup s (fun i g x => s.complete i g (x.vote f i.active))

end Sys2Proof.Machine
end

