-- ==== Sys2Proof/Machine/MemOps.lean ====
section
/-!
DEFINITION. Loads, stores, gathers, scatters, atomics, fences, WAIT and SPEMPTY, with the steps that carry out what is
outstanding (R149 to R165, R168, R261, R262, R284).
-/
namespace Sys2Proof.Machine

/-- The elements an instruction moves: thread and effective address, ascending; a uniform one has the leader's (R88,
R150). -/
def Group.elems (x : Group) (f : MFmt) (active : Mask) (ea : Nat → Nat) : List (Nat × Nat) :=
  if f.g.u then (if x.enabled f.g (leader active) (mOff f) then [(leader active, ea (leader active))] else [])
  else (x.memThreads f active).map (fun t => (t, ea t))
/-- Their threads. -/
def elemMask (es : List (Nat × Nat)) : Mask := maskOf (es.map (·.1))
/-- Bytes of the element moved. -/
def mBytes (f : MFmt) : Nat := mWidth f / 8
/-- The failing checks of a list of elements (R151). -/
def State.elemFailures (s : State) (x : Group) (f : MFmt) (k : Access) (stamped : Option Bool) (es : List (Nat × Nat)) :
    List Failure :=
  let c := s.ctxOf x.launch
  if spPath f then
    es.flatMap (fun e => wrote (k == .write) (s.spFailures x.core x.block e.2 (mBytes f) (some e.1))) ++
      (if k == .read then es.flatMap (fun e => s.touchFailures x.core e.2 (mBytes f) (some e.1)) else [])
  else es.flatMap (fun e => s.spanFailures c e.2 (mBytes f) k stamped (some e.1) ++
    (if k == .write then [] else s.cacheFailures x.core c f.path.toNat e.2 (mBytes f) (some e.1))) ++
    (if k == .write then s.partFailures c (mBytes f) es else [])
/-- The failing checks of a read-modify-write: those of a write, and uncorrectable data that it would read (R151, R384). -/
def State.rmwFailures (s : State) (x : Group) (f : MFmt) (es : List (Nat × Nat)) : List Failure :=
  s.elemFailures x f .write (some false) es ++
    (if spPath f then es.flatMap (fun e => s.sramFailures x.core e.2 (mBytes f) (some e.1))
    else es.flatMap (fun e => (s.spanFailures (s.ctxOf x.launch) e.2 (mBytes f) .read none (some e.1)).filter (fun e => e.order == 8)))
/-- A bank of a .sp access is being switched: the access waits for it (R169). -/
def State.switchingFor (s : State) (x : Group) (n : Nat) (es : List (Nat × Nat)) : Option (Nat × Nat) :=
  es.findSome? (fun e => (spLines x.core e.2 n).findSome? (fun l =>
    if ((s.core l.1).bank (l.2 / 128)).switching then some (l.1, l.2 / 128) else none))
/-- A memory instruction that counts waits while its class is full or a bank it names is being switched (R152, R169); one
with `.sc` first acts as a FENCE.sc, which waits for every older LD and ST operation of the group (R163, R277). -/
def State.letIn (s : State) (g : Nat) (x : Group) (f : MFmt) (k : Cls) (es : List (Nat × Nat)) (r : State → State) : State :=
  match (if spPath f then s.switchingFor x (mBytes f) es else none) with
  | some b => s.stall g (.bank b.1 b.2)
  | none =>
    if f.order = 4 then
      if x.count .ld != 0 || x.count .st != 0 then s.stall g .memory else s.counted g x k (r (s.scFence x.core f.scope.toNat))
    else s.counted g x k (r s)
/-- The bytes of DATA that a store moves. -/
def Group.dataBytes (x : Group) (f : MFmt) (t : Nat) : List Byte :=
  let r := if f.g.u then x.rs (f.data.toNat % 128) else x.rv t f.data.toNat
  leBytes (mBytes f) (elem r (mOff f) (mWidth f))
/-- The banks that the elements of a .sp access target (R169). -/
def Group.spBanks (x : Group) (f : MFmt) (es : List (Nat × Nat)) : List (Nat × Nat) :=
  if spPath f then banksOf (es.flatMap (fun e => spLines x.core e.2 (mBytes f))) else []
/-- The destination of a load. -/
def dataReg (f : MFmt) : Reg := if f.g.u then .s (f.data.toNat % 128) else .v f.data.toNat
/-- Bytes read on a path of global memory (R251). -/
def State.pathRead (s : State) (x : Group) (f : MFmt) (a : Nat) : List Byte :=
  s.cachedRead x.core (s.ctxOf x.launch) f.path.toNat a (mBytes f)
/-- What a read on a path leaves in the caches (R251, R325). -/
def State.pathFill (s : State) (x : Group) (f : MFmt) (a : Nat) : State :=
  let c := s.ctxOf x.launch
  (s.cacheFill x.core c f.path.toNat a (mBytes f)).hold c a (mBytes f)

/-! ### Loads (R155, R156) -/

/-- A load on a path of global memory reads at issue; one on .sp joins the accesses at its lines (R153, R155). -/
def State.load (s : State) (i : Issue) (g : Nat) (x : Group) (f : MFmt) : State :=
  let es := x.elems f i.active (x.ea f)
  if es.isEmpty then s.complete i g x
  else s.letIn g x f .ld es (fun s =>
    match firstFailure (s.elemFailures x f .read none es) with
    | some e => s.failFor i g e (elemMask es)
    | none =>
      if spPath f then
        let reqs := es.flatMap (fun e => spRequests x.core e.1 e.2 (mBytes f) (mOff f))
        let spans := s.touchSpans x.core (es.map (fun e => (e.2, mBytes f)))
        ((s.complete i g (((x.issueOp i.instr .ld (elemMask es) [dataReg f] [] [] (.spLoad f.take reqs)).pin s spans).aim
          (x.spBanks f es))).queueSp (OpRef.mk g x.nextOp) reqs).acquireBy x.core f.order.toNat f.scope.toNat
      else
        let y := es.foldl (fun y e => y.putData i.instr e.1 (mOff f) (s.pathRead x f e.2)) x
        ((es.foldl (fun s e => s.pathFill x f e.2) s).complete i g
          (y.issueOp i.instr .ld (elemMask es) [] [] [] .idle)).acquireBy x.core f.order.toNat f.scope.toNat)

/-- LD (R155). -/
def execLd (f : MFmt) (s : State) : Host.Outcome State Fault Refusal := withGroup s (fun i g x => s.load i g x f)
/-- LDC (R155). -/
def execLdc (f : MFmt) (s : State) : Host.Outcome State Fault Refusal := withGroup s (fun i g x => s.load i g x f)
/-- SLD (R155). -/
def execSld (f : MFmt) (s : State) : Host.Outcome State Fault Refusal := withGroup s (fun i g x => s.load i g x f)

/-- Every page of an element is resident; a page without translation is no residency matter (R156, R324). -/
def State.residentSpan (s : State) (c a n : Nat) : Bool :=
  (pagePieces a n).all (fun p => match s.leafFor c p.1 with | .leaf l => l.bit 2 | _ => true)
/-- The flags of an element in the flag predicate (R156). -/
def Group.flagElem (x : Group) (f : MFmt) (t : Nat) (b : Bool) : Group :=
  x.setFlagsP t f.fp.toNat (mOff f) (mBytes f) b

/-- LDP (R156). -/
def execLdp (f : MFmt) (s : State) : Host.Outcome State Fault Refusal :=
  withGroup s (fun i g x =>
    let es := x.elems f i.active (x.ea f)
    let c := s.ctxOf x.launch
    if es.isEmpty then s.complete i g x
    else s.letIn g x f .ld es (fun s =>
      match firstFailure (s.elemFailures x f .probe none es) with
      | some e => s.failFor i g e (elemMask es)
      | none =>
        let y := es.foldl (fun y e =>
          let here := s.residentSpan c e.2 (mBytes f)
          (y.putData i.instr e.1 (mOff f) (if here then s.pathRead x f e.2 else leBytes (mBytes f) 0)).flagElem f e.1 (!here)) x
        (es.foldl (fun s e => s.pathFill x f e.2) s).complete i g
          (y.issueOp i.instr .ld (elemMask es) [] [] [] .idle)))

/-! ### Stores (R154, R155) -/

/-- One element stored on its path (R155, R251, R257). -/
def State.storeElem (s : State) (x : Group) (f : MFmt) (a : Nat) (l : List Byte) : State :=
  let c := s.ctxOf x.launch
  if spPath f then s.spStore x.core a l
  else (s.hold c a l.length).pathWrite x.core c f.path.toNat a l
/-- `.fill`: after the last element of the instruction is written, every line that one touches becomes full (R154, R256). -/
def State.fillAfter (s : State) (x : Group) (f : MFmt) (es : List (Nat × Nat)) : State :=
  if f.subop = 1 then s.fillSpans x.core (es.map (fun e => (e.2, mBytes f))) else s

/-- A plain store, ascending, so that the higher thread's byte stays (R155). -/
def State.store (s : State) (i : Issue) (g : Nat) (x : Group) (f : MFmt) : State :=
  let es := x.elems f i.active (x.ea f)
  if es.isEmpty then s.complete i g x
  else s.letIn g x f .st es (fun s =>
    match firstFailure (s.elemFailures x f .write (some false) es) with
    | some e => s.failFor i g e (elemMask es)
    | none =>
      let s1 := es.foldl (fun s e => s.storeElem x f e.2 (x.dataBytes f e.1))
        (s.complete i g ((x.issueOp i.instr .st (elemMask es) [] [] [] .idle).aim (x.spBanks f es)))
      if spPath f then s1.fillAfter x f es else s1.healAll (s.ctxOf x.launch) (es.map (fun e => (e.2, mBytes f))))

/-- ST (R155). -/
def execSt (f : MFmt) (s : State) : Host.Outcome State Fault Refusal := withGroup s (fun i g x => s.store i g x f)
/-- SST (R155). -/
def execSst (f : MFmt) (s : State) : Host.Outcome State Fault Refusal := withGroup s (fun i g x => s.store i g x f)

/-! ### Gather and scatter (R157, R158, R261, R262) -/

/-- The physical line that a request reaches. -/
def State.laneLine (s : State) (c : Nat) (l : Lane) : Nat := (s.pa? c l.addr).getD l.addr / 128
/-- The requests of an element of `n` bytes, one for each line (R150, R262). -/
def laneParts (n : Nat) (l : Lane) : List Lane := (linePieces l.addr n).map (fun p => { l with addr := p.1, part := p.2 })
/-- The bytes that a request stores. -/
def Lane.bytes (l : Lane) (n : Nat) : List Byte := ((leBytes n l.value).drop l.part.1).take l.part.2
/-- Lines of a batch (R261). -/
def batchLines : Nat := 128
/-- Clocks for which a batch stays open (R261). -/
def batchClocks : Nat := 32
/-- The translations of a batch: for each page that its lanes touch one, as it is at the close, or as an operation took it at
its issue where none is left (R261, R325). -/
def State.batchLeaves (s : State) (c : Nat) (l : List (Nat × Leaf)) : List (Nat × Leaf) :=
  l.map (fun e => match s.leafFor c (e.1 * 65536) with
    | .leaf y => if y.bit 2 then (e.1, y) else (e.1, ((l.find? (fun q => q.1 == e.1)).map (·.2)).getD e.2)
    | _ => (e.1, ((l.find? (fun q => q.1 == e.1)).map (·.2)).getD e.2))
/-- The batch of a core closes: its lanes are sent under one translation of each page, and its scatters join the list in the
order of their entry (R261). -/
def State.sendBatch (s : State) (core : Nat) : State :=
  match (s.core core).batch with
  | none => s
  | some b =>
    let isSt (r : OpRef) : Bool := match s.opAt? r with | some (_, o) => o.cls == .st | none => false
    let used (c : Nat) : List (Nat × Leaf) := b.ops.flatMap (fun e => match s.opAt? e.1 with
      | some (x, o) => if s.ctxOf x.launch = c then o.leaves else []
      | none => [])
    let x := s.core core
    let scatters := (b.ops.map (·.1)).filter (fun r => isSt r && !x.sent.contains r)
    let s1 := s.setCore core { x with batch := none, sent := x.sent ++ scatters }
    b.ops.foldl (fun t e => match t.opAt? e.1 with
      | some (y, o) => (match o.work with
        | .gather l sent =>
          let all := s.batchLeaves (s.ctxOf y.launch) (used (s.ctxOf y.launch))
          let w : Work := .gather (l.drop e.2) (sent ++ (l.take e.2).map (fun q => (s.clk, q)))
          let ls := o.leaves.map (fun p => (p.1, ((all.find? (fun q => q.1 == p.1)).map (·.2)).getD p.2))
          t.updGroup e.1.group (fun z => z.setOp { o with work := w, leaves := ls })
        | _ => t)
      | none => t) s1
/-- One lane of an operation enters the gather collector: its first request opens a batch, which closes at its 128th line
(R261). -/
def State.enterLane (s : State) (core : Nat) (r : OpRef) (line : Nat) : State :=
  let x := s.core core
  let b := x.batch.getD (Batch.mk s.clk [] [])
  let ops := match b.ops.reverse with
    | (q, n) :: rest => if q = r then rest.reverse ++ [(r, n + 1)] else b.ops ++ [(r, 1)]
    | [] => [(r, 1)]
  let b2 := { b with ops := ops, lines := nubNat (b.lines ++ [line]) }
  let s1 := s.setCore core { x with batch := some b2 }
  if batchLines ≤ b2.lines.length then s1.sendBatch core else s1
/-- The lanes of an operation enter one after another; a batch that is 32 clocks old takes none (R261). -/
def State.enterBatch (s : State) (core : Nat) (r : OpRef) (lanes : List Nat) : State :=
  let s1 := match (s.core core).batch with
    | some b => if b.opened + batchClocks ≤ s.clk then s.sendBatch core else s
    | none => s
  lanes.foldl (fun s l => s.enterLane core r l) s1
/-- An operation with lanes goes to the collector. -/
def State.collect (s : State) (i : Issue) (g : Nat) (x y : Group) (k : Cls) (m : Mask) (holds : List Reg)
    (lanes : List Lane) : State :=
  let c := s.ctxOf x.launch
  if lanes.isEmpty then s.complete i g (y.issueOp i.instr k m [] [] [] .idle)
  else
    ((lanes.foldl (fun s l => s.hold c l.addr l.part.2) s).complete i g
      ((y.issueOp i.instr k m holds [] [] (.gather lanes [])).pin s (lanes.map (fun l => (l.addr, l.part.2))))).enterBatch x.core
      (OpRef.mk g x.nextOp) (lanes.map (s.laneLine c))

/-- GATH (R157). -/
def execGath (f : MFmt) (s : State) : Host.Outcome State Fault Refusal :=
  withGroup s (fun i g x =>
    let es := x.elems f i.active (x.gatherEa f)
    if es.isEmpty then s.complete i g x
    else s.letIn g x f .ld es (fun s =>
      match firstFailure (s.elemFailures x f .read none es) with
      | some e => s.failFor i g e (elemMask es)
      | none =>
        if spPath f then
          let reqs := es.flatMap (fun e => spRequests x.core e.1 e.2 (mBytes f) (mOff f))
          let spans := s.touchSpans x.core (es.map (fun e => (e.2, mBytes f)))
          (s.complete i g (((x.issueOp i.instr .ld (elemMask es) [dataReg f] [] [] (.spLoad f.take reqs)).pin s spans).aim
            (x.spBanks f es))).queueSp (OpRef.mk g x.nextOp) reqs
        else s.collect i g x x .ld (elemMask es) [dataReg f] (es.flatMap (fun e => laneParts (mBytes f) (Lane.mk e.1 e.2 0 0 none (0, 0))))))

/-- GATHP: an element with a page not resident is zeroed whole and flagged (R157, R156). -/
def execGathp (f : MFmt) (s : State) : Host.Outcome State Fault Refusal :=
  withGroup s (fun i g x =>
    let es := x.elems f i.active (x.gatherEa f)
    let c := s.ctxOf x.launch
    if es.isEmpty then s.complete i g x
    else s.letIn g x f .ld es (fun s =>
      match firstFailure (s.elemFailures x f .probe none es) with
      | some e => s.failFor i g e (elemMask es)
      | none =>
        let here (e : Nat × Nat) : Bool := s.residentSpan c e.2 (mBytes f)
        let y := es.foldl (fun y e =>
          (if here e then y else y.putData i.instr e.1 (mOff f) (leBytes (mBytes f) 0)).flagElem f e.1 (!here e)) x
        s.collect i g x y .ld (elemMask es) ([dataReg f] ++ predOut f.fp.toNat)
          ((es.filter here).flatMap (fun e => laneParts (mBytes f) (Lane.mk e.1 e.2 0 0 none (0, 0))))))

/-- The halves of an operand: two for `.addbf2`, of which this model applies bits 15:0 first; the spec gives the two atomics no
order (R85; DESIGN CHOICE, log entry 76). -/
def lanesOf (f : MFmt) (t a v v2 : Nat) : List Lane :=
  let p := (0, mBytes f)
  if f.subop = 8 then [Lane.mk t a v v2 (some 0) p, Lane.mk t a v v2 (some 1) p] else [Lane.mk t a v v2 none p]
/-- The operand of a thread, from DATA or DATA + `k` (R161). -/
def Group.operand (x : Group) (f : MFmt) (t k : Nat) : Nat := x.elemV t (f.data.toNat + k) (mOff f) (mWidth f)

/-- SCAT: a plain store under SUBOP 1111, else an operator (R157, R158). -/
def execScat (f : MFmt) (s : State) : Host.Outcome State Fault Refusal :=
  withGroup s (fun i g x =>
    let plain := f.subop = 15
    let ea (t : Nat) : Nat := if plain then x.gatherEa f t else alignDown (x.gatherEa f t) (mBytes f)
    let es := x.elems f i.active ea
    let lanes := es.flatMap (fun e =>
      if plain then laneParts (mBytes f) (Lane.mk e.1 e.2 (x.operand f e.1 0) 0 none (0, 0)) else lanesOf f e.1 e.2 (x.operand f e.1 0) 0)
    if es.isEmpty then s.complete i g x
    else s.letIn g x f .st es (fun s =>
      match firstFailure (if plain then s.elemFailures x f .write (some false) es else s.rmwFailures x f es) with
      | some e => s.failFor i g e (elemMask es)
      | none =>
        if spPath f then
          if plain then
            es.foldl (fun s e => s.spStore x.core e.2 (x.dataBytes f e.1))
              (s.complete i g ((x.issueOp i.instr .st (elemMask es) [] [] [] .idle).aim (x.spBanks f es)))
          else s.complete i g ((x.issueOp i.instr .st (elemMask es) [] [] [] (.atoms lanes)).aim (x.spBanks f es))
        else s.collect i g x x .st (elemMask es) [] lanes))

/-- GATHER_BATCH_CLOSE: 32 clocks after it opened, or at its 128th line, a batch sends its requests (R261). -/
def State.closeBatch (s : State) (core : Nat) : Option State :=
  match (s.core core).batch with
  | none => none
  | some b => if s.clk < b.opened + batchClocks && b.lines.length < batchLines then none else some (s.sendBatch core)
/-- GATHER_BATCH_CLOSE (R261). -/
def execGatherBatchClose (core : Nat) (s : State) : Host.Outcome State Fault Refusal :=
  whenEnabled "GATHER_BATCH_CLOSE" (s.closeBatch core)

/-- The lines that the lanes of an operation have still to reach. -/
def State.openLines (s : State) (r : OpRef) : List Nat :=
  match s.opAt? r with
  | some (x, o) =>
    (match o.work with
     | .gather l q => (l ++ q.map (·.2)).map ((s.as r.group r.op).laneLine (s.ctxOf x.launch))
     | _ => [])
  | none => []
/-- Scatters that entered the collector before `r` on a line and are not applied (R261). -/
def State.scatterBefore (s : State) (core : Nat) (r : OpRef) (line : Nat) : Bool :=
  ((s.core core).sent.takeWhile (· != r)).any (fun q => (s.openLines q).contains line)
/-- A scatter that is applied leaves the list. -/
def State.unsend (s : State) (core : Nat) (r : OpRef) : State :=
  let x := s.core core
  s.setCore core { x with sent := x.sent.filter (· != r) }

/-- The bytes that a request moves are lost, or its peer is out of reach (R384). -/
def State.laneLost (s : State) (c : Nat) (l : Lane) : Bool := (s.badSpan c l.addr l.part.2 true).isSome
/-- The sent lanes of a gather on a line, of batches that closed at a clock `k`, are read; the operation is done when it has no lane
left (R261, R262). -/
def State.readLanes (s : State) (r : OpRef) (closed : Nat → Bool) (line : Nat) : State :=
  match s.opAt? r with
  | none => s
  | some (x, o) =>
    let v := s.as r.group r.op
    let c := s.ctxOf x.launch
    match o.work, memFmt? o.instr with
    | .gather l sent, some f =>
      let now (e : Nat × Lane) : Bool := closed e.1 && v.laneLine c e.2 == line
      let y := (sent.filter now).foldl (fun y e =>
        y.putData o.instr e.2.thread (mOff f + e.2.part.1) (v.cachedRead x.core c pathGen e.2.addr e.2.part.2)) x
      let rest := sent.filter (fun e => !now e)
      s.setGroup r.group (if rest.isEmpty && l.isEmpty then y.opDone o else y.setOp { o with work := .gather l rest })
    | _, _ => s
/-- The line of an operation whose reply returns next: the spec orders none of them, and a free value picks among those given (R262;
log entry 99). -/
def State.nextLine (s : State) (l : List Nat) : Option Nat := l[Config.replyLine s.stepNo % l.length]?
/-- GATHER_REPLY: the reply for one of an instruction's lines returns (R262): a gather's elements on it are read, with those of the
other gathers of its batch on the line, since one request is made for it (R261); a plain scatter's are stored in lane order, an
operator's have all been applied. The operation completes with its last line. Data of a unit lost since the issue is not
delivered: the operation ends failed (R384; log entry 77). -/
def State.gatherReply (s : State) (g n : Nat) : Option State :=
  let r := OpRef.mk g n
  match s.opAt? r with
  | none => none
  | some (x, o) =>
    let c := s.ctxOf x.launch
    let v := s.as g n
    match o.work, memFmt? o.instr with
    | .gather l sent, some f =>
      let lines := nubNat (sent.map (fun e => v.laneLine c e.2))
      if o.cls = .ld then
        match sent.find? (fun e => v.laneLost c e.2), s.nextLine lines with
        | some e, _ => some (s.failOp r e.2.addr)
        | none, none => none
        | none, some line =>
          let mates := (s.groups.filter (fun p => p.2.core == x.core)).flatMap (fun p =>
            (p.2.ops.filter (fun q => q.cls == .ld && !(p.1 == g && q.id == n))).map (fun q => OpRef.mk p.1 q.id))
          let closed (k : Nat) : Bool := sent.any (fun e => e.1 == k && v.laneLine c e.2 == line)
          some (mates.foldl (fun s q => s.readLanes q closed line) (s.readLanes r (fun _ => true) line))
      else if f.subop = 15 then
        match s.nextLine (lines.filter (fun k => !s.scatterBefore x.core r k)) with
        | none => none
        | some line =>
          let now := sent.filter (fun e => v.laneLine c e.2 == line)
          let rest := sent.filter (fun e => v.laneLine c e.2 != line)
          let s1 := now.foldl (fun (t : State) e => t.pathWrite x.core c pathGen e.2.addr (e.2.bytes (mBytes f))) v
          let s2 : State := { s1.healAll c (now.map (fun e => (e.2.addr, e.2.part.2))) with trans := s.trans }
          some (if l.isEmpty && rest.isEmpty then (s2.finishOp r).unsend x.core r else s2.setWork r (.gather l rest))
      else if l.isEmpty && sent.isEmpty then some ((s.finishOp r).unsend x.core r) else none
    | _, _ => none
/-- GATHER_REPLY (R262). -/
def execGatherReply (group op : Nat) (s : State) : Host.Outcome State Fault Refusal :=
  whenEnabled "GATHER_REPLY" (s.gatherReply group op)

/-! ### Atomics (R159 to R162, R284) -/

/-- The width on which the operator of an atomic acts (R150, R160). -/
def atomWidth (f : MFmt) : Nat := if f.type = 9 then 32 else (typeWidth? f.type).getD 64
/-- The operator of R160 on an element of width `w`. -/
def atomOp (f : MFmt) (w o v v2 : Nat) : Nat :=
  let flt := isFloatType f.type
  let sg := signedTy f.type
  let fm := fmtOf f.type
  match f.subop.toNat with
  | 0 => if flt then (fm.round 0 (Num.add 0 (fm.decode o) (fm.decode v)).1).1 else (o + v) % 2 ^ w
  | 1 => if flt then (minMaxCode fm false true o v).1 else (if ival sg w v < ival sg w o then v else o)
  | 2 => if flt then (minMaxCode fm true true o v).1 else (if ival sg w o < ival sg w v then v else o)
  | 3 => o &&& v
  | 4 => o ||| v
  | 5 => o ^^^ v
  | 6 => v
  | _ => if o = v then v2 else o
/-- The identity of `.max` in a type (R162). -/
def maxIdentity (f : MFmt) : Nat :=
  if isFloatType f.type then (fmtOf f.type).infCode true
  else if signedTy f.type then 2 ^ (atomWidth f - 1) else 0
/-- What an atomic leaves in its element of `mWidth f` bits, from the old contents (R150, R160, R162). -/
def atomNew (i : Instr) (f : MFmt) (o : Nat) (l : Lane) : Nat :=
  let w := atomWidth f
  let low (v : Nat) : Nat := v % 2 ^ w
  let keep := o - low o
  match i with
  | .amaxr _ => keep + maxIdentity f
  | _ => match l.half with
    | some h =>
      let a := bits o (16 * h) 16
      let b := bits l.value (16 * h) 16
      let r := (fmtBF16.round 0 (Num.add 0 (fmtBF16.decode a) (fmtBF16.decode b)).1).1
      o - a * 2 ^ (16 * h) + r * 2 ^ (16 * h)
    | none => keep + low (atomOp f w (low o) (low l.value) (low l.value2))
/-- An atomic returns its old value: RET of ATOM, always for AMAXR (R159, R162). -/
def returns (i : Instr) (f : MFmt) : Bool :=
  match i with | .amaxr _ => true | .atom _ => f.ext == 1 | _ => false
/-- The old value, or the half of it that this lane read, goes to DATA (R85, R161). -/
def Group.giveOld (x : Group) (i : Instr) (f : MFmt) (l : Lane) (o : Nat) : Group :=
  if !returns i f then x
  else match l.half with
    | none => x.putData i l.thread (mOff f) (leBytes (mBytes f) o)
    | some 0 => x.putData i l.thread (mOff f) (leBytes 2 o)
    | some _ => x.putData i l.thread (mOff f + 2) (leBytes (mBytes f - 2) (o / 2 ^ 16))

/-- What an atomic reads at its home, or at the host or peer that holds a system-range line, so that no older copy in an L2 stands in its
way (R284, R400). -/
def State.atomicOld (s : State) (core c a n : Nat) : Nat :=
  ofLe ((pagePieces a n).flatMap (fun p => match s.pa? c p.1 with
    | some pa => s.view core pathGen none pa p.2
    | none => List.replicate p.2 0))
/-- What it writes there in the same step (R268, R284). -/
def State.atomicPut (s : State) (core c a : Nat) (l : List Byte) : State :=
  (pagePieces a l.length).foldl (fun s p => match s.place? c p.1 with
    | some (pa, d) => (s.putAtomics core (some d) pa pa ((l.drop (wrap64 (p.1 + 2 ^ 64 - wrap64 a))).take p.2)).heal pa p.2
    | none => s) s
/-- One atomic element at its home slice or bank: the read and the write are one step, to which its ORDER applies (R284). -/
def State.atomStep (s : State) (g : Nat) (x : Group) (o : Op) (f : MFmt) (l : Lane) (rest : Work) : State :=
  let c := s.ctxOf x.launch
  let n := mBytes f
  let old := if spPath f then ofLe (s.spRead x.core l.addr n) else s.atomicOld x.core c l.addr n
  let bytes := leBytes n (atomNew o.instr f old l)
  let s1 := if spPath f then s.spStore x.core l.addr bytes else s.atomicPut x.core c l.addr bytes
  (s1.setGroup g ((x.giveOld o.instr f l old).setOp { o with work := rest, done := rest == .idle })).acquireBy x.core
    f.order.toNat f.scope.toNat

/-- The place in memory of an atomic element: core and offset of scratchpad, or physical address. -/
def State.lanePlace (s : State) (x : Group) (f : MFmt) (l : Lane) : Nat × Nat :=
  if spPath f then spDecode x.core l.addr else (0, ((s.pa? (s.ctxOf x.launch) l.addr).getD 0))
/-- The elements of an operation that are still to be applied, of atomics and of scatters with an operator. -/
def Op.atomLanes (o : Op) (f : MFmt) : List Lane :=
  match o.work with
  | .atoms l => l
  | .gather l q => if o.cls = .st && f.subop != 15 then l ++ q.map (·.2) else []
  | _ => []
/-- An older atomic of the core has still to reach a byte of the element: in Garnet mode the atomics of one core to one location,
operators of scatters among them, arrive in issue order (R246). -/
def State.olderAtomic (s : State) (x : Group) (o : Op) (f : MFmt) (l : Lane) : Bool :=
  let a := s.lanePlace x f l
  s.isGarnet x && s.groups.any (fun p => p.2.core == x.core && p.2.ops.any (fun q => q.issued < o.issued &&
    (match memFmt? q.instr with
     | some h => (q.atomLanes h).any (fun e =>
         let b := s.lanePlace p.2 h e
         spPath h == spPath f && a.1 == b.1 && meets a.2 (mBytes f) b.2 (mBytes h))
     | none => false)))
/-- ATOMIC_AT_HOME: the next element of an atomic, in ascending thread order, is applied (R86, R158, R161, R284); where its bytes
were lost since the issue, nothing is read or written, and the operation ends failed (R384, R385). -/
def State.atomicAtHome (s : State) (g n : Nat) : Option State :=
  let r := OpRef.mk g n
  match s.opAt? r with
  | none => none
  | some (x, o) =>
    let c := s.ctxOf x.launch
    match o.work, memFmt? o.instr with
    | .atoms (l :: rest), some f =>
      let (k, off) := spDecode x.core l.addr
      if s.olderAtomic x o f l then none
      else if !spPath f && s.laneLost c l then some (s.failOp r l.addr)
      else if spPath f && !(s.sramFailures x.core l.addr (mBytes f) none).isEmpty then some (s.failSram r k off)
      else some (s.atomStep g x o f l (if rest.isEmpty then .idle else .atoms rest))
    | .gather q ((_, l) :: rest), some f =>
      if o.cls != .st || f.subop = 15 || s.scatterBefore x.core r (s.laneLine c l) || s.olderAtomic x o f l then none
      else if s.laneLost c l then some ((s.failOp r l.addr).unsend x.core r)
      else some (s.atomStep g x o f l (.gather q rest))
    | _, _ => none
/-- ATOMIC_AT_HOME (R284). -/
def execAtomicAtHome (group op : Nat) (s : State) : Host.Outcome State Fault Refusal :=
  whenEnabled "ATOMIC_AT_HOME" (s.asOp group op (fun s => s.atomicAtHome group op))

/-- An atomic leaves issue with its operands read (R159, R161). -/
def State.atomic (s : State) (i : Issue) (g : Nat) (x : Group) (f : MFmt) (k : Cls) : State :=
  let es := x.elems f i.active (fun t => alignDown (x.ea f t) (mBytes f))
  let lanes := es.flatMap (fun e => match i.instr with
    | .amaxr _ => [Lane.mk e.1 e.2 0 0 none (0, mBytes f)]
    | _ => lanesOf f e.1 e.2 (x.operand f e.1 0) (if f.subop = 7 then x.operand f e.1 1 else 0))
  if es.isEmpty then s.complete i g x
  else s.letIn g x f k es (fun s =>
    match firstFailure (s.rmwFailures x f es) with
    | some e => s.failFor i g e (elemMask es)
    | none =>
      let s1 := if spPath f then s else es.foldl (fun s e => s.hold (s.ctxOf x.launch) e.2 (mBytes f)) s
      s1.complete i g
        (((x.issueOp i.instr k (elemMask es) (if returns i.instr f then [dataReg f] else []) [] [] (.atoms lanes)).pin s
          (if spPath f then [] else es.map (fun e => (e.2, mBytes f)))).aim (x.spBanks f es)))

/-- ATOM counts under LD when it returns, else under ST (R159). -/
def execAtom (f : MFmt) (s : State) : Host.Outcome State Fault Refusal :=
  withGroup s (fun i g x => s.atomic i g x f (if f.ext == 1 then .ld else .st))
/-- AMAXR (R162). -/
def execAmaxr (f : MFmt) (s : State) : Host.Outcome State Fault Refusal :=
  withGroup s (fun i g x => s.atomic i g x f .ld)

/-! ### Fences and WAIT (R163 to R165) -/

/-- FENCE waits until every older LD and ST operation of the group has retired (R163, R279); then it orders as R276 says: what
the layout caches hold of older bytes leaves them, the core's own, or with `.sc` those of the scope. -/
def execFence (f : MFmt) (s : State) : Host.Outcome State Fault Refusal :=
  withGroup s (fun i g x =>
    if x.onSet f.g i.active = 0 then s.complete i g x
    else if x.count .ld != 0 || x.count .st != 0 then s.stall g .memory
    else if f.order = 4 then (s.scFence x.core f.scope.toNat).complete i g x
    else (s.acquireBy x.core f.order.toNat f.scope.toNat).complete i g x)

/-- The threads have a store outstanding on a path (R164). -/
def Group.storesOn (x : Group) (m : Mask) (path : BitVec 2) : Bool :=
  x.ops.any (fun o => o.cls == .st && (o.mask &&& m) != 0 &&
    (match memFmt? o.instr with | some f => f.path == path | none => false))

/-- PFENCE waits for the threads' older stores on the first path; what is visible on it is then visible on the second (R164, R251). -/
def execPfence (f : MFmt) (s : State) : Host.Outcome State Fault Refusal :=
  withGroup s (fun i g x =>
    let m := x.onSet f.g i.active
    if m = 0 then s.complete i g x
    else if x.storesOn m f.path then s.stall g (.stores m f.path)
    else (s.joinPaths x.core f.path.toNat f.ext.toNat).complete i g x)

/-- The limits of WAIT for LD, ST, CP and EN (R165). -/
def waitLimits (f : SFmt) : List (Cls × Nat) :=
  let v := f.imm.toNat
  [(.ld, bits v 0 6), (.st, bits v 6 6), (.cp, bits v 12 6), (.en, bits v 18 6)]
/-- WAIT passes when every class holds no more operations than its limit (R165). -/
def Group.waitPasses (x : Group) (l : List (Cls × Nat)) : Bool := l.all (fun p => x.count p.1 ≤ p.2)

/-- WAIT; one that would pass over a failed operation raises MACHINE_CHECK and clears the mark (R165, R385). -/
def execWait (f : SFmt) (s : State) : Host.Outcome State Fault Refusal :=
  withGroup s (fun i g x =>
    let l := waitLimits f
    if !x.waitPasses l then
      s.stall g (.counts (bits f.imm.toNat 0 6) (bits f.imm.toNat 6 6) (bits f.imm.toNat 12 6) (bits f.imm.toNat 18 6))
    else
      let past (k : Cls) : Bool := l.any (fun p => p.1 == k && p.2 < 63)
      match x.failed.find? (fun p => past p.1) with
      | some p =>
        (s.setGroup g { x with failed := x.failed.filter (fun q => !past q.1) }).fail i g (mkFault 0x0D p.2 none) i.active
      | none => s.complete i g x)

/-! ### SPEMPTY (R168) -/

/-- SPEMPTY empties the line of each enabled thread's address (R168, R257). -/
def execSpempty (f : MFmt) (s : State) : Host.Outcome State Fault Refusal :=
  withGroup s (fun i g x =>
    let es := (x.enabledSet f.g i.active 0).map (fun t => (t, x.ea f t))
    if es.isEmpty then s.complete i g x
    else s.letIn g x f .st es (fun s =>
      match firstFailure (es.flatMap (fun e => s.spFailures x.core x.block e.2 1 (some e.1))) with
      | some e => s.failFor i g e (elemMask es)
      | none =>
        es.foldl (fun s e => let (c, off) := spDecode x.core e.2; s.emptyLine c (off / 128))
          (s.complete i g ((x.issueOp i.instr .st (elemMask es) [] [] [] .idle).aim (x.spBanks f es)))))

end Sys2Proof.Machine
end

