-- ==== Sys2Proof/Machine/Queue.lean ====
section
/-!
DEFINITION. FIFO banks: QPUSH and QPOP and the service of their threads (R166, R258, R259).
-/
namespace Sys2Proof.Machine

/-- FREE of a FIFO bank is not zero (R258). -/
def Bank.hasRoom (b : Bank) : Bool := b.slots.length < 512
/-- A record is reserved at TAIL and complete (R259). -/
def Bank.push (b : Bank) (r : List Byte) : Bank := { b with slots := b.slots ++ [some r] }
/-- The record at HEAD, if FILLED is not zero, and the bank without it (R259). -/
def Bank.pop? (b : Bank) : Option (List Byte × Bank) :=
  match b.slots with
  | some r :: rest => some (r, { b with slots := rest, head := (b.head + 1) % 512 })
  | _ => none
/-- A bank of a core replaced. -/
def State.setBank (s : State) (core b : Nat) (y : Bank) : State := s.setCore core ((s.core core).setBank b y)

/-- The words of SRAM of a slot of a FIFO bank: core and word. -/
def fifoWords (core bank slot : Nat) : List (Nat × Nat) := (List.range 4).map (fun w => (core, bank * 2048 + slot * 4 + w))
/-- A record pushed on a bank of a core: its words are encoded anew (R259, R382). -/
def State.pushRecord (s : State) (core bank : Nat) (r : List Byte) : State :=
  let b := (s.core core).bank bank
  (s.setBank core bank (b.push r)).mendWords (fifoWords core bank ((b.head + b.slots.length) % 512))
/-- A word of the `k`-th record from HEAD on cannot be corrected (R384). -/
def State.badRecord (s : State) (core bank k : Nat) : Bool :=
  (s.core core).badSram (bank * 16384 + (((s.core core).bank bank).head + k) % 512 * 32) 32

/-- The record in V*x* to V*x*+3 of a thread (R166). -/
def Group.record (x : Group) (v t : Nat) : List Byte := (List.range 4).flatMap (fun k => leBytes 8 (x.rv t (v + k)).toNat)
/-- A record put into V*x* to V*x*+3. -/
def Group.putRecord (x : Group) (v t : Nat) (r : List Byte) : Group :=
  (List.range 4).foldl (fun y k => y.wv t (v + k) (BitVec.ofNat 64 (ofLe ((r.drop (8 * k)).take 8)))) x

/-- QPUSH, not QPOP. -/
def isPush : Instr → Bool | .qpush _ => true | _ => false

/-! ### The order of producers (R259) -/

/-- A producer still waits for a slot of the bank. -/
def State.stillWaits (s : State) (core bank : Nat) (p : Producer) : Bool :=
  match p with
  | .group g => (match s.group? g with | some x => x.fifoOn core bank | none => false)
  | .op g n => (match s.opAt? (OpRef.mk g n) with | some (_, o) => !o.done | none => false)
/-- A slot is there for a producer: no other that still waits came before it (R259). -/
def State.mayPush (s : State) (core bank : Nat) (p : Producer) : Bool :=
  let b := (s.core core).bank bank
  b.hasRoom && (match (b.line.filter (s.stillWaits core bank)).head? with | some q => q == p | none => true)
/-- A producer that finds no slot joins the line, in which it stays until its records are pushed (log entry 87). -/
def State.joinLine (s : State) (core bank : Nat) (p : Producer) : State :=
  let b := (s.core core).bank bank
  if b.line.contains p then s else s.setBank core bank { b with line := b.line ++ [p] }
/-- A producer leaves the line. -/
def State.leaveLine (s : State) (core bank : Nat) (p : Producer) : State :=
  let b := (s.core core).bank bank
  s.setBank core bank { b with line := b.line.filter (· != p) }

/-- One thread of QPUSH or QPOP is served, if the bank allows (R166); a record that cannot be corrected is not delivered (R384). -/
def State.serveFifo (s : State) (i : Instr) (f : EFmt) (g : Nat) (x : Group) (t : Nat) : Option State :=
  let n := f.imm.toNat % 32
  let b := (s.core x.core).bank n
  if isPush i then
    if s.mayPush x.core n (.group g) then some (s.pushRecord x.core n (x.record f.vx.toNat t)) else none
  else if s.badRecord x.core n 0 then none
  else
    (b.pop?).map (fun r => (s.setBank x.core n r.2).setGroup g (x.putRecord f.vx.toNat t r.1))

/-- The threads are served in ascending order while the bank allows: what is left, and the state (R166). -/
def State.serveAll (s : State) (i : Instr) (f : EFmt) (g : Nat) : List Nat → State × List Nat
  | [] => (s, [])
  | t :: rest =>
    match s.group? g with
    | none => (s, t :: rest)
    | some x =>
      match s.serveFifo i f g x t with
      | some s1 => s1.serveAll i f g rest
      | none => (s, t :: rest)

/-- With TRY, each enabled thread is served or skipped, and flagged (R166). -/
def State.tryAll (s : State) (i : Instr) (f : EFmt) (g : Nat) : List Nat → State
  | [] => s
  | t :: rest =>
    match s.group? g with
    | none => s
    | some x =>
      let r := s.serveFifo i f g x t
      let s1 := (r.getD s).updGroup g (fun y => y.wp t f.pf.toNat (if r.isSome then 0xFF else 0))
      s1.tryAll i f g rest

/-- A group's instruction in progress: served as far as it goes, it completes or waits (R166). -/
def State.continueFifo (s : State) (i : Issue) (f : EFmt) (g : Nat) (left : List Nat) : State :=
  let (s1, rest) := s.serveAll i.instr f g left
  match s1.group? g with
  | none => s1
  | some y =>
    let n := f.imm.toNat % 32
    if rest.isEmpty then (s1.leaveLine y.core n (.group g)).complete i g { y with cont := none, wait := none }
    else
      let s2 := if isPush i.instr then s1.joinLine y.core n (.group g) else s1
      { s2 with issue := none }.setGroup g { y with cont := some (.fifo i rest), wait := some .serving }

/-- QPUSH and QPOP (R166). -/
def fifoInstr (f : EFmt) (s : State) : Host.Outcome State Fault Refusal :=
  withGroup s (fun i g x =>
    let ts := x.enabledSet f.g i.active 0
    let n := f.imm.toNat % 32
    let b := (s.core x.core).bank n
    if ts.isEmpty then s.complete i g x
    else if b.switching then s.stall g (.bank x.core n)
    else if b.mode != .fifo then s.failFor i g { mkFault 0x0E 0 none with write := isPush i.instr } (maskOf ts)
    else if !isPush i.instr && (List.range (min ts.length b.slots.length)).any (s.badRecord x.core n) then
      s.failFor i g (mkFault 0x0D 0 none) (maskOf ts)
    else if f.ext = 1 then
      let s1 := s.tryAll i.instr f g ts
      match s1.group? g with
      | some y => s1.complete i g y
      | none => s1
    else s.continueFifo i f g ts)

/-- QPUSH (R166). -/
def execQpush (f : EFmt) (s : State) := fifoInstr f s
/-- QPOP (R166). -/
def execQpop (f : EFmt) (s : State) := fifoInstr f s

/-- A check that fails for the threads that a waiting FIFO instruction has still to serve, for the first of them: the bank is in
FIFO mode no longer, or the record to be popped cannot be corrected (R166, R384). -/
def State.fifoFailure (s : State) (x : Group) (i : Instr) (f : EFmt) (t : Nat) : Option FaultInfo :=
  let n := f.imm.toNat % 32
  let b := (s.core x.core).bank n
  if b.mode != .fifo then some { mkFault 0x0E 0 none with write := isPush i }
  else if !isPush i && !b.slots.isEmpty && s.badRecord x.core n 0 then some (mkFault 0x0D 0 (some t))
  else none
/-- FIFO_THREAD_SERVED: a slot or a record has become available to a waiting thread (R166). Where a check fails now, the group is Faulted at
the instruction with the threads that are left: a replay serves these and no others (R334; log entry 95). -/
def State.fifoServed (s : State) (g : Nat) : Option State :=
  match s.group? g with
  | none => none
  | some x =>
    match x.cont with
    | some (.fifo i (t :: rest)) =>
      (match enFmt? i.instr with
       | none => none
       | some f =>
         if x.status != .ready then none
         else match s.fifoFailure x i.instr f t with
           | some e => some (s.failFor i g e (maskOf (x.enabledSet f.g i.active 0)))
           | none => (s.serveFifo i.instr f g x t).map (fun s1 => s1.continueFifo i f g rest))
    | _ => none
/-- FIFO_THREAD_SERVED (R166). -/
def execFifoThreadServed (group : Nat) (s : State) : Host.Outcome State Fault Refusal :=
  whenEnabled "FIFO_THREAD_SERVED" (s.fifoServed group)

end Sys2Proof.Machine
end

