-- ==== Sys2Proof/Machine/Scratch.lean ====
section
/-!
DEFINITION. Scratchpad maps and bank modes: SPMAP, SPWB, BANKCFG and the bank switch (R167, R169).
-/
namespace Sys2Proof.Machine

/-- The leader's guard lets a uniform instruction execute (R88, R171). -/
def Group.uniformOn (x : Group) (g : Guard) (active : Mask) : Bool := x.leaderOn g active
/-- The mask that a uniform instruction's operation carries: its leader. -/
def leadMask (active : Mask) : Mask := maskOf [leader active]

/-- The failing checks of writing back the dirty lines of a slot (R167, R345). -/
def State.writeBackFailures (s : State) (core : Nat) (m : MapSlot) : List Failure :=
  m.lines.flatMap (fun l =>
    if Sparse.get 0 (s.core core).mask l = 0 then []
    else s.spanFailures (s.ctxOf m.launch) (m.va + (l * 128 - m.off)) 128 .write (some false) none)
/-- Those of a slot by its number, none where it is free. -/
def State.slotFailures (s : State) (core slot : Nat) : List Failure :=
  match Sparse.get none (s.core core).maps slot with
  | some m => s.writeBackFailures core m
  | none => []

/-- The spans of global memory of the lines of slots that can be written back, dirty now or not: an access that is under way may make them
dirty before the drain is over (R169, R171). -/
def State.slotSpans (s : State) (core : Nat) (slots : List Nat) : List (Nat × Nat) :=
  slots.flatMap (fun k => match Sparse.get none (s.core core).maps k with
    | some m => (m.lines.map (fun l => (m.va + (l * 128 - m.off), 128))).filter (fun q =>
        (s.spanFailures (s.ctxOf m.launch) q.1 q.2 .write (some false) none).isEmpty)
    | none => [])
/-- The spans of global memory that writing back the dirty lines of slots touches. -/
def State.dirtySpans (s : State) (core : Nat) (slots : List Nat) : List (Nat × Nat) :=
  slots.flatMap (fun k => match Sparse.get none (s.core core).maps k with
    | some m => m.lines.filterMap (fun l =>
        if Sparse.get 0 (s.core core).mask l = 0 then none else some (m.va + (l * 128 - m.off), 128))
    | none => [])
/-- The banks of a core that regions of scratchpad lie in: offset and length. -/
def regionBanks (core : Nat) (l : List (Nat × Nat)) : List (Nat × Nat) :=
  ((List.range 32).filter (fun b => l.any (fun q => meets q.1 q.2 (b * 16384) 16384))).map (fun b => (core, b))
/-- The region of a slot, none where it is free. -/
def State.slotRegion (s : State) (core slot : Nat) : List (Nat × Nat) :=
  match Sparse.get none (s.core core).maps slot with | some m => [(m.off, m.len)] | none => []
/-- The first bank of a list that is being switched. -/
def State.switchingOf (s : State) (l : List (Nat × Nat)) : Option (Nat × Nat) :=
  l.find? (fun q => ((s.core q.1).bank q.2).switching)

/-- The failing checks of a new map: alignment, SCRATCH banks of the issuing core, no overlap (R167). -/
def State.mapFailures (s : State) (x : Group) (slot a va len : Nat) : List Failure :=
  let bad : List Failure := [failure 1 0x0E a none]
  if a % 128 != 0 || va % 128 != 0 || len % 128 != 0 then bad
  else if len = 0 then []
  else
    let (c, off) := spDecode x.core a
    let inBanks := off + len ≤ 524288 && (List.range 32).all (fun b =>
      !(b * 16384 < off + len && off < (b + 1) * 16384) || s.spOk x.core x.block (a - off + b * 16384))
    let clash := (List.range 16).any (fun i => i != slot && (match Sparse.get none (s.core c).maps i with
      | some m => m.off < off + len && off < m.off + m.len
      | none => false))
    if c != x.core || !inBanks || clash || 2 ^ 22 ≤ a then bad else []

/-- SPMAP: an existing map of the slot is written back and freed, then the region is emptied and mapped (R167); where the write-back
stops, the slot stays as it was (R385). -/
def State.setMap (s : State) (x : Group) (slot a va len : Nat) : State :=
  let (s1, ok) := s.unmapSlots x.core [slot]
  if !ok || len = 0 then s1
  else
    let off := (spDecode x.core a).2
    let m := MapSlot.mk off va len x.launch
    let s2 := m.lines.foldl (fun s l => s.emptyLine x.core l) s1
    let k := s2.core x.core
    s2.setCore x.core { k with maps := Sparse.put none k.maps slot (some m) }

/-- SPMAP (R167). -/
def execSpmap (f : EFmt) (s : State) : Host.Outcome State Fault Refusal :=
  withGroup s (fun i g x =>
    let slot := f.imm.toNat % 16
    let a := (x.rs f.sa.toNat).toNat
    let va := (x.rs f.sb.toNat).toNat
    let len := (x.rs f.sc.toNat).toNat
    let banks := regionBanks x.core (((spDecode x.core a).2, len) :: s.slotRegion x.core slot)
    if !x.uniformOn f.g i.active then s.complete i g x
    else match s.switchingOf banks with
      | some b => s.stall g (.bank b.1 b.2)
      | none => s.counted g x .cp (
        match firstFailure (s.mapFailures x slot a va len ++ s.slotFailures x.core slot) with
        | some e => s.failFor i g e (leadMask i.active)
        | none =>
          (s.complete i g ((((x.issueOp i.instr .cp (leadMask i.active) [] [] [] .idle).pin s (s.dirtySpans x.core [slot])).aim
            banks).metBad (s.badSlots x.core [slot]))).setMap x slot a va len))

/-- SPWB: every dirty line of the slot is written back, up to one that meets an uncorrectable error; the slot stays mapped (R167,
R385). -/
def execSpwb (f : EFmt) (s : State) : Host.Outcome State Fault Refusal :=
  withGroup s (fun i g x =>
    let slot := f.imm.toNat % 16
    let banks := regionBanks x.core (s.slotRegion x.core slot)
    if !x.uniformOn f.g i.active then s.complete i g x
    else match s.switchingOf banks with
      | some b => s.stall g (.bank b.1 b.2)
      | none => s.counted g x .cp (
        match firstFailure (s.slotFailures x.core slot) with
        | some e => s.failFor i g e (leadMask i.active)
        | none =>
          let s1 := s.complete i g ((((x.issueOp i.instr .cp (leadMask i.active) [] [] [] .idle).pin s
            (s.dirtySpans x.core [slot])).aim banks).metBad (s.badSlots x.core [slot]))
          match Sparse.get none (s.core x.core).maps slot with
          | some m => (s1.writeLines x.core m m.lines).1
          | none => s1))

/-! ### BANKCFG (R169) -/

/-- The mode that a code of BANKCFG names (R169). -/
def modeOf (k : Nat) : BankMode := if k = 1 then .scratch else if k = 2 then .fifo else .cache

/-- BANKCFG leaves issue; the bank is drained before it switches (R169). -/
def execBankcfg (f : EFmt) (s : State) : Host.Outcome State Fault Refusal :=
  withGroup s (fun i g x =>
    let b := f.imm.toNat % 32
    let mode := f.imm.toNat / 32 % 4
    let y := (s.core x.core).bank b
    if !x.uniformOn f.g i.active then s.complete i g x
    else if y.switching then s.stall g (.bank x.core b)
    else s.counted g x .en (
      if y.holder.isSome && y.holder != some x.block then s.failFor i g (mkFault 0x12 0 none) (leadMask i.active)
      else
        match firstFailure (((s.core x.core).slotsOf b).flatMap (fun k => s.slotFailures x.core k)) with
        | some e => s.failFor i g e (leadMask i.active)
        | none =>
          (s.complete i g ((x.issueOp i.instr .en (leadMask i.active) [] [] [] (.bank b mode)).pin s
            (s.slotSpans x.core ((s.core x.core).slotsOf b)))).setBank x.core b { y with switching := true }))

/-- BANK_SWITCH: the drain over, the bank is written back, unmapped and switched (R169). A line that meets an uncorrectable error in the
write-back, or that became dirty after the issue on a page that cannot be written, stops it: the bank keeps its mode, and the operation
ends failed (R385; log entry 103). -/
def State.bankSwitch (s : State) (g n : Nat) : Option State :=
  let r := OpRef.mk g n
  match s.opAt? r with
  | none => none
  | some (x, o) =>
    match o.work with
    | .bank b mode =>
      if s.bankBusy x.core b then none
      else
        let m := modeOf mode
        let slots := (s.core x.core).slotsOf b
        match s.badSlots x.core slots with
        | some a =>
          let s1 := (s.unmapSlots x.core slots).1
          some ((s1.setBank x.core b { (s1.core x.core).bank b with switching := false }).failOp r a)
        | none => some ((s.switchBank x.core b m (if m = .cache then none else some x.block)).finishOp r)
    | _ => none
/-- BANK_SWITCH (R169). -/
def execBankSwitch (group op : Nat) (s : State) : Host.Outcome State Fault Refusal :=
  whenEnabled "BANK_SWITCH" (s.asOp group op (fun s => s.bankSwitch group op))

end Sys2Proof.Machine
end

