-- ==== Sys2Proof/Machine/Copy.lean ====
section
/-!
DEFINITION. The copy engine: CPY over layout records, CPYSEL over the accumulator queue, and the steps that carry them out
(R171 to R175, R253, R260, R362).
-/
namespace Sys2Proof.Machine

/-! ### Layout records (R172) -/

/-- A layout record as read. -/
structure Layout where
  base   : Nat
  elog   : Nat
  up     : Bool
  skew   : Bool
  skb    : Nat
  size   : List Nat
  stride : List Nat
  box    : List Nat
  sound  : Bool
deriving DecidableEq, Repr

/-- A number of `n` bytes at an offset of a list of bytes. -/
def numAt (l : List Byte) (o n : Nat) : Nat := ofLe ((l.drop o).take n)

/-- The record in 64 bytes, and whether it keeps its limits (R172). -/
def layoutOf (l : List Byte) : Layout :=
  let ctl := numAt l 0x08 4
  let rank := numAt l 0x0C 4
  let elog := bits ctl 0 2
  let skb := bits ctl 4 6
  let size := (List.range 4).map (fun d => numAt l (0x10 + 4 * d) 4)
  let box := (List.range 4).map (fun d => numAt l (0x38 + 2 * d) 2)
  let unused := (List.range 4).all (fun d => d < rank || size.getD d 0 == 1)
  Layout.mk (numAt l 0 8) elog (bitAt ctl 2) (bitAt ctl 3) skb size (2 ^ elog :: (List.range 3).map (fun d => numAt l (0x20 + 8 * d) 8))
    box
    (bits ctl 10 22 == 0 && 1 ≤ skb && skb ≤ 32 && 1 ≤ rank && rank ≤ 4 && unused && box.all (· != 0) &&
      box.getD 0 0 * 2 ^ elog % 32 == 0)

/-- Bytes of a row of dimension 0. -/
def Layout.rowBytes (r : Layout) : Nat := r.box.getD 0 0 * 2 ^ r.elog
/-- Bytes of the box. -/
def Layout.total (r : Layout) : Nat := r.box.foldl (· * ·) (2 ^ r.elog)
/-- The rows in row-major order, by their coordinates in dimensions 1 to 3 (R173). -/
def Layout.rows (r : Layout) : List (List Nat) :=
  (List.range (r.box.getD 3 0)).flatMap (fun c => (List.range (r.box.getD 2 0)).flatMap (fun b =>
    (List.range (r.box.getD 1 0)).map (fun a => [a, b, c])))

/-- A run of a row inside the tensor: the first byte of the row, the global address, the bytes; none where no coordinate
of the row is in range (R173). -/
def Layout.run (r : Layout) (org : List Int) (row : List Nat) : Option (Nat × Nat × Nat) :=
  let co (d : Nat) : Int := org.getD d 0 + ((if d = 0 then 0 else row.getD (d - 1) 0 : Nat) : Int)
  let ok (d : Nat) : Bool := 0 ≤ co d && co d < (r.size.getD d 0 : Int)
  let lo : Int := max 0 (-(co 0))
  let hi : Int := min (r.box.getD 0 0 : Int) ((r.size.getD 0 0 : Int) - co 0)
  if ok 1 && ok 2 && ok 3 && lo < hi then
    let a : Int := (r.base : Int) + (co 0 + lo) * ((2 ^ r.elog : Nat) : Int) +
      co 1 * (r.stride.getD 1 0 : Int) + co 2 * (r.stride.getD 2 0 : Int) + co 3 * (r.stride.getD 3 0 : Int)
    some (lo.toNat * 2 ^ r.elog, pat 64 a, (hi - lo).toNat * 2 ^ r.elog)
  else none

/-- The .sp address of chunk `n` of the box, 32 bytes each, dense or skewed over SKB banks; none where the skewed layout
has no place for it (R173, R253). -/
def skewChunk (a b c i q : Nat) : Option Nat :=
  let b0 := bits a 14 5
  let o := bits a 0 14 + 32 * (i * ((c + b - 1) / b) + q / b)
  if b0 + b ≤ 32 && o < 16384 then some (a / 2 ^ 19 * 2 ^ 19 + (b0 + (q + i) % b) * 16384 + o) else none
/-- The .sp addresses of the chunks of the box in order. -/
def Layout.chunks (r : Layout) (a : Nat) : List (Option Nat) :=
  let c := r.rowBytes / 32
  (List.range (r.total / 32)).map (fun n =>
    if r.skew then skewChunk a r.skb c (n / c) (n % c) else some (a + 32 * n))

/-! ### CPY (R173) -/

/-- The origin of the box. -/
def originOf (l : List Word) : List Int := (List.range 4).map (fun d => (l.getD (1 + d) 0).toInt)
/-- The record that a copy read at its issue. -/
def recordOf (l : List Word) : Layout := layoutOf (((l.drop 6).take 8).flatMap (fun w => leBytes 8 w.toNat))
/-- The runs of a copy in order, each with its row. -/
def copyRuns (r : Layout) (org : List Int) : List (Nat × Nat × Nat × Nat) :=
  (r.rows.mapIdx (fun n row => (n, row))).filterMap (fun p => (r.run org p.2).map (fun u => (p.1, u)))

/-- The failing checks of the global side of a copy (R151, R173). -/
def State.copyGlobal (s : State) (c : Nat) (r : Layout) (org : List Int) : List Failure :=
  (copyRuns r org).flatMap (fun u =>
    if r.up then s.spanFailures c u.2.2.1 u.2.2.2 .write (some false) none
    else s.spanFailures c u.2.2.1 u.2.2.2 .read none none)
/-- The failing checks of its scratchpad side (R173, R253). -/
def State.copySp (s : State) (x : Group) (r : Layout) (a : Nat) : List Failure :=
  (r.chunks a).flatMap (fun k => match k with
    | some b => wrote (!r.up) (s.spFailures x.core x.block b 32 none)
    | none => wrote (!r.up) [failure 1 0x0E a none])

/-- Where a descriptor that a core reads on a path cannot be delivered: its memory, or a word that the core's cache holds (R384). -/
def State.descBad (s : State) (core c path a n : Nat) : Option Nat :=
  (s.badSpan c a n true).or (if (s.cacheFailures core c path a n none).isEmpty then none else some a)
/-- The failing checks of CPY, in the order of R151: those that need the record only where it can be read. Where it cannot, whether a
misaligned address is that of a write is free (log entry 97). -/
def State.copyFailures (s : State) (x : Group) (fifo : Bool) (bank : Nat) (args : List Word) : List Failure :=
  let c := s.ctxOf x.launch
  let sa := (args.getD 0 0).toNat
  let a := (args.getD 5 0).toNat
  let first (down : Bool) : List Failure :=
    if fifo then (if ((s.core x.core).bank bank).mode = .fifo then [] else wrote true [failure 1 0x0E 0 none])
    else if a % 128 = 0 then [] else wrote down [failure 1 0x0E a none]
  let aligned : List Failure := if sa % 64 = 0 then [] else [failure 2 0x0F sa none]
  let page := atIssue (s.spanFailures c sa 64 .read none none)
  if !(page.isEmpty && aligned.isEmpty) || (s.descBad x.core c pathLay sa 64).isSome then first (Config.unreadWrites s.stepNo) ++ aligned ++ page
  else
    let r := recordOf args
    if !r.sound || (fifo && r.up) then first (!r.up) ++ [failure 2 0x0F sa none]
    else first (!r.up) ++ (if fifo then [] else s.copySp x r a) ++ atIssue (s.copyGlobal c r (originOf args))

/-- Banks that a copy names and that are being switched (R169). -/
def State.copySwitching (s : State) (x : Group) (fifo : Bool) (bank : Nat) (args : List Word) : Option (Nat × Nat) :=
  if fifo then (if ((s.core x.core).bank bank).switching then some (x.core, bank) else none)
  else
    let r := recordOf args
    if !r.sound then none
    else (r.chunks (args.getD 5 0).toNat).findSome? (fun k => match k with
      | some b =>
        let (c, off) := spDecode x.core b
        if ((s.core c).bank (off / 16384)).switching then some (c, off / 16384) else none
      | none => none)

/-- The copy engine's operations that have not retired, in order of arrival (R260). -/
def State.liveCopies (s : State) (core : Nat) : List OpRef :=
  (s.core core).copies.filter (fun r => (s.opAt? r).isSome)
/-- An operation arrives at the copy engine. -/
def State.enterCopies (s : State) (core : Nat) (r : OpRef) : State :=
  let l := s.liveCopies core ++ [r]
  s.setCore core { s.core core with copies := l }
/-- An operation asks for its lease (R318). -/
def State.askLease (s : State) (d : Nat) (r : OpRef) : State :=
  let x := s.die d
  s.setDie d { x with asking := x.asking ++ [.op r] }

/-- The banks that a copy targets (R169). -/
def copyBanks (x : Group) (fifo : Bool) (bank : Nat) (r : Layout) (a : Nat) : List (Nat × Nat) :=
  if fifo then [(x.core, bank)] else banksOf ((r.chunks a).flatMap (fun k => match k with | some b => spLines x.core b 32 | none => []))

/-- CPY (R172, R173). A record whose data is lost is not delivered: the operation ends failed (R385). -/
def execCpy (f : EFmt) (s : State) : Host.Outcome State Fault Refusal :=
  withGroup s (fun i g x =>
    let fifo := f.ext == 1
    let bank := f.imm.toNat % 32
    let c := s.ctxOf x.launch
    let sa := (x.rs f.sa.toNat).toNat
    if !x.uniformOn f.g i.active then s.complete i g x
    else
      let rec_ := s.cachedRead x.core c 2 sa 64
      let args := x.rs f.sa.toNat :: (List.range 4).map (fun k => x.rs (f.sb.toNat + k)) ++ [if fifo then 0 else x.rs f.sc.toNat]
        ++ (List.range 8).map (fun k => BitVec.ofNat 64 (numAt rec_ (8 * k) 8))
      match s.copySwitching x fifo bank args with
      | some b => s.stall g (.bank b.1 b.2)
      | none =>
        s.counted g x .cp (
          match firstFailure (s.copyFailures x fifo bank args) with
          | some e => s.failFor i g e (leadMask i.active)
          | none =>
            let r := recordOf args
            let ref := OpRef.mk g x.nextOp
            let runs := (copyRuns r (originOf args)).map (fun u => (u.2.2.1, u.2.2.2))
            match s.descBad x.core c pathLay sa 64 with
            | some a => s.complete i g ((x.issueOp i.instr .cp (leadMask i.active) [] [] [] .idle).metBad (some a))
            | none =>
              let s1 := ((s.hold c sa 64).cacheFill x.core c 2 sa 64).complete i g
                (((x.issueOp i.instr .cp (leadMask i.active) [] args [] (.copy none)).pin s ((sa, 64) :: runs)).aim
                  (copyBanks x fifo bank r (args.getD 5 0).toNat))
              let s2 := runs.foldl (fun s u => s.hold c u.1 u.2) s1
              let s3 := s2.enterCopies x.core ref
              if 2 ^ 20 < r.total then s3.askLease (dieOf x.core) ref else s3))

/-- Where a copy meets an uncorrectable error in global memory, or in the scratchpad that it reads, none where it meets none
(R385). -/
def State.copyBad (s : State) (core c : Nat) (r : Layout) (org : List Int) (a : Nat) : Option Nat :=
  match s.badIn c ((copyRuns r org).map (fun u => (u.2.2.1, u.2.2.2))) (!r.up) with
  | some b => some b
  | none =>
    if r.up then (r.chunks a).findSome? (fun k => k.bind (fun b => if (s.sramFailures core b 32 none).isEmpty then none else some b))
    else none
/-- The bytes of the box read from global memory, out-of-range coordinates as zero (R173). -/
def State.copyBytes (s : State) (c : Nat) (r : Layout) (org : List Int) : List Byte :=
  r.rows.flatMap (fun row => match r.run org row with
    | some (o, a, n) => List.replicate o 0 ++ s.vread c a n ++ List.replicate (r.rowBytes - o - n) 0
    | none => List.replicate r.rowBytes 0)
/-- A list of bytes cut into records of 32. -/
def cut32 (n : Nat) (l : List Byte) : List (List Byte) := (List.range n).map (fun k => (l.drop (32 * k)).take 32)

/-- Global to scratchpad: the chunks are written, and every line of which all bytes are written becomes full (R173, R255). -/
def State.copyDown (s : State) (x : Group) (c : Nat) (r : Layout) (org : List Int) (a : Nat) : State :=
  let ch := r.chunks a
  let data := cut32 ch.length (s.copyBytes c r org)
  let s1 := (ch.zip data).foldl (fun s p => match p.1 with | some b => s.spWrite x.core b p.2 | none => s) s
  let chunkNo (k : Option Nat) : Option Nat := k.map (fun b => let (k, off) := spDecode x.core b; k * 16384 + off / 32)
  let written := ch.filterMap chunkNo
  let lines := nubNat (written.map (· / 4))
  (lines.filter (fun l => (List.range 4).all (fun k => written.contains (4 * l + k)))).foldl
    (fun s l => s.fillLine (l / 4096) (l % 4096)) s1

/-- Scratchpad to global: every in-range run is written (R173). -/
def State.copyUp (s : State) (x : Group) (c : Nat) (r : Layout) (org : List Int) (a : Nat) : State :=
  let data := (r.chunks a).flatMap (fun k => match k with | some b => s.spRead x.core b 32 | none => List.replicate 32 0)
  (copyRuns r org).foldl (fun s u => s.vwrite c u.2.2.1 ((data.drop (u.1 * r.rowBytes + u.2.1)).take u.2.2.2)) s

/-- Records pushed while the bank has room: what is left (R173, R259). -/
def State.pushAll (s : State) (core bank : Nat) : List (List Byte) → State × List (List Byte)
  | [] => (s, [])
  | r :: rest =>
    let b := (s.core core).bank bank
    if b.hasRoom then (s.pushRecord core bank r).pushAll core bank rest else (s, r :: rest)

/-- The copy engine serves at most the 8 oldest of its operations (R260). -/
def State.inEngine (s : State) (core : Nat) (r : OpRef) : Bool :=
  (((s.liveCopies core).filter (fun q => match s.opAt? q with | some (_, o) => !o.done | none => false)).take 8).contains r

/-- COPY_COMPLETE: a copy's elements are moved; a FIFO copy takes its place among the producers of a full bank, and goes on while
the bank has room and it is its turn (R173, R259, R260). -/
def State.copyComplete (s : State) (g n : Nat) : Option State :=
  let r := OpRef.mk g n
  match s.opAt? r with
  | none => none
  | some (x, o) =>
    match o.work, o.instr with
    | .copy left, .cpy f =>
      let lay := recordOf o.sargs
      let c := s.ctxOf x.launch
      let org := originOf o.sargs
      let bank := f.imm.toNat % 32
      let leased := lay.total ≤ 2 ^ 20 || (s.die (dieOf x.core)).granted.contains (.op r)
      if !s.inEngine x.core r || !leased then none
      else if f.ext = 1 then
        let me : Producer := .op g n
        match (if left = none then s.copyBad x.core c lay org 0 else none) with
        | some a => some (s.failOp r a)
        | none =>
          if s.mayPush x.core bank me then
            let recs := match left with | some l => l | none => cut32 (lay.total / 32) (s.copyBytes c lay org)
            let (s1, rest) := s.pushAll x.core bank recs
            some (if rest.isEmpty then (s1.leaveLine x.core bank me).finishOp r
              else (s1.joinLine x.core bank me).setWork r (.copy (some rest)))
          else if ((s.core x.core).bank bank).line.contains me then none
          else some (s.joinLine x.core bank me)
      else match s.copyBad x.core c lay org (o.sargs.getD 5 0).toNat with
        | some a => some (s.failOp r a)
        | none =>
          if lay.up then
            some (((s.copyUp x c lay org (o.sargs.getD 5 0).toNat).healAll c
              ((copyRuns lay org).map (fun u => (u.2.2.1, u.2.2.2)))).finishOp r)
          else some ((s.copyDown x c lay org (o.sargs.getD 5 0).toNat).finishOp r)
    | _, _ => none
/-- COPY_COMPLETE (R173). -/
def execCopyComplete (group op : Nat) (s : State) : Host.Outcome State Fault Refusal :=
  whenEnabled "COPY_COMPLETE" (s.asOp group op (fun s => s.copyComplete group op))

/-! ### CPYSEL (R174, R175) -/

/-- *k* of CPYSEL. -/
def selK (f : EFmt) : Nat := f.imm.toNat % 64 + 1
/-- *rows* of CPYSEL. -/
def selRows (f : EFmt) : Nat := bits f.imm.toNat 6 8 + 1
/-- ACC of CPYSEL. -/
def selAcc (f : EFmt) : Bool := bitAt f.imm.toNat 14
/-- Bytes of a completion record (R174). -/
def recBytes (f : EFmt) : Nat := 16 + 8 * selK f

/-- An entry of a selection or a winner list: index and FP32 code. -/
abbrev Entry := BitVec 32 × BitVec 32
/-- An unfilled entry (R202). -/
def unfilled : Entry := (0xFFFFFFFF, 0xFF800000)
/-- A higher value, or an equal value (+0 equal to −0) with a lower index (R202). -/
def Entry.better (a b : Entry) : Bool :=
  match (fmtF32.decode a.2.toNat).cmp (fmtF32.decode b.2.toNat) with
  | .gt => true
  | .lt => false
  | .eq => a.1.toNat < b.1.toNat
/-- An entry put at its place in a row kept best first. -/
def placeEntry (e : Entry) : List Entry → List Entry
  | [] => [e]
  | d :: r => if Entry.better e d then e :: d :: r else d :: placeEntry e r
/-- An entry enters a row of `k` when it is better than the `k`-th, which leaves (R175, R204). -/
def offerEntry (k : Nat) (row : List Entry) (e : Entry) : List Entry :=
  match row[k - 1]? with
  | some last => if Entry.better e last then (placeEntry e row).take k else row
  | none => row

/-- A completion record (R174). -/
structure SelRec where
  count : Nat
  m     : Nat
  sum   : Nat
  nans  : Nat
  row   : List Entry
deriving DecidableEq, Repr

/-- A record at its start (R175). -/
def SelRec.fresh (k : Nat) : SelRec := SelRec.mk 0 0xFF800000 0 0 (List.replicate k unfilled)
/-- A record in bytes. -/
def SelRec.ofBytes (k : Nat) (l : List Byte) : SelRec :=
  SelRec.mk (numAt l 0 4) (numAt l 4 4) (numAt l 8 4) (numAt l 12 4)
    ((List.range k).map (fun j => (BitVec.ofNat 32 (numAt l (16 + 8 * j) 4), BitVec.ofNat 32 (numAt l (20 + 8 * j) 4))))
/-- The bytes of a record. -/
def SelRec.bytes (r : SelRec) : List Byte :=
  leBytes 4 r.count ++ leBytes 4 r.m ++ leBytes 4 r.sum ++ leBytes 4 r.nans ++
    r.row.flatMap (fun e => leBytes 4 e.1.toNat ++ leBytes 4 e.2.toNat)

/-- Round(f32, exp(a − b), rn), 1 where the values are equal, infinite or not (R175). -/
def expDiff (a b : Nat) : Nat :=
  let x := fmtF32.decode a
  let y := fmtF32.decode b
  if x.cmp y = .eq then 0x3F800000 else expRoundF32 (Num.add 0 x y.negate).1
/-- A product rounded to FP32. -/
def mulF32 (a b : Nat) : Nat := (fmtF32.round 0 (Num.mul (fmtF32.decode a) (fmtF32.decode b)).1).1

/-- One row of logits enters a record; `base` is the index of column 0. Where a value and m2 are both −∞ the rule states no
term: a free value stands for it (R175). -/
def SelRec.step (stepNo k base : Nat) (r : SelRec) (row : List (BitVec 32)) : SelRec :=
  let vals := row.map (·.toNat)
  let isNan (v : Nat) : Bool := (fmtF32.decode v).isNan
  let m2 := vals.foldl (fun m v => if isNan v then m else (minMaxCode fmtF32 true true m v).1) r.m
  let c := if m2 = 0xFF800000 then 0 else expDiff r.m m2
  let start : SelRec := { r with sum := mulF32 r.sum c, m := m2 }
  let out := (vals.mapIdx (fun j v => (j, v))).foldl (fun (a : SelRec) p =>
    if isNan p.2 then { a with nans := (a.nans + 1) % 2 ^ 32 }
    else { a with sum := addF32 a.sum (if m2 = 0xFF800000 then (Config.selTermOfNothing stepNo p.1).toNat else expDiff p.2 m2),
                  row := offerEntry k a.row (BitVec.ofNat 32 (base + p.1), BitVec.ofNat 32 p.2) }) start
  { out with count := (out.row.filter (fun e => e != unfilled)).length }

/-- The failing checks of CPYSEL (R151, R171, R174, R199). -/
def State.selFailures (s : State) (x : Group) (f : EFmt) : List Failure :=
  let c := s.ctxOf x.launch
  let sa := (x.rs f.sa.toNat).toNat
  let sb := (x.rs f.sb.toNat).toNat
  let n := selRows f * recBytes f
  (if sb % 8 = 0 then [] else [failure 2 0x0F sb none]) ++ s.spanFailures c sa (256 * selRows f) .write (some false) none ++
    s.spanFailures c sb n .write (some false) none ++
    (if selAcc f then s.spanFailures c sb n .read none none else [])

/-- CPYSEL (R174). -/
def execCpysel (f : EFmt) (s : State) : Host.Outcome State Fault Refusal :=
  withGroup s (fun i g x =>
    let c := s.ctxOf x.launch
    let sa := (x.rs f.sa.toNat).toNat
    let sb := (x.rs f.sb.toNat).toNat
    if !x.uniformOn f.g i.active then s.complete i g x
    else s.counted g x .cp (
      if (s.core x.core).holder != some x.block then s.failFor i g (mkFault 0x15 0 none) (leadMask i.active)
      else match firstFailure (atIssue (s.selFailures x f)) with
        | some e => s.failFor i g e (leadMask i.active)
        | none =>
          ((((s.hold c sa (256 * selRows f)).hold c sb (selRows f * recBytes f)).complete i g
            ((x.issueOp i.instr .cp (leadMask i.active) [] [x.rs f.sa.toNat, x.rs f.sb.toNat, x.rs f.sc.toNat] []
              (.rows 0)).pin s [(sa, 256 * selRows f), (sb, selRows f * recBytes f)]))).enterCopies x.core (OpRef.mk g x.nextOp)))

/-- The record range of a CPYSEL: context, address and length. -/
def State.selRange (s : State) (r : OpRef) : Option (Nat × Nat × Nat) :=
  match s.opAt? r with
  | some (x, o) => match o.instr with
    | .cpysel f => some (s.ctxOf x.launch, (o.sargs.getD 1 0).toNat, selRows f * recBytes f)
    | _ => none
  | none => none
/-- With ACC = 1 it waits for every older CPYSEL of the core that has not retired and whose records overlap its own
(R362). -/
def State.selBlocked (s : State) (core : Nat) (r : OpRef) (f : EFmt) : Bool :=
  selAcc f && ((s.liveCopies core).takeWhile (· != r)).any (fun q =>
    match s.selRange q, s.selRange r with
    | some a, some b => a.1 == b.1 && a.2.1 < b.2.1 + b.2.2 && b.2.1 < a.2.1 + a.2.2
    | _, _ => false)

/-- The row at the head of the accumulator queue cannot be corrected (R384). -/
def Core.badRow (x : Core) : Bool := x.bad.contains (.queue 0)
/-- The head row leaves the accumulator queue (R199). -/
def Core.popRow (x : Core) (rest : List (List (BitVec 32))) : Core :=
  { x with queue := rest, bad := x.bad.filterMap (fun b => match b with
    | .queue 0 => none
    | .queue (k + 1) => some (.queue k)
    | _ => some b) }
/-- CPYSEL_ROW: the next row is popped, stored, and entered in its record (R174, R175). While a group waits at AQPOP the row goes
to it: R174 leaves open which of the two pops first (DESIGN CHOICE, log entry 78). -/
def State.cpyselRow (s : State) (g n : Nat) : Option State :=
  let r := OpRef.mk g n
  match s.opAt? r with
  | none => none
  | some (x, o) =>
    match o.work, o.instr with
    | .rows k, .cpysel f =>
      let core := s.core x.core
      let c := s.ctxOf x.launch
      let at_ := (o.sargs.getD 1 0).toNat + k * recBytes f
      if !s.inEngine x.core r || (k = 0 && s.selBlocked x.core r f) || core.holder != some x.block ||
          !(s.waitingPoppers x.core).isEmpty then none
      else match core.queue with
        | [] => none
        | row :: rest =>
          let to_ := wrap64 ((o.sargs.getD 0 0).toNat + 256 * k)
          match (if core.badRow then some at_ else (s.badSpan c at_ (recBytes f) (selAcc f)).or (s.badSpan c to_ 256 false)) with
          | some a => some (s.failOp r a)
          | none =>
            let start := if selAcc f then SelRec.ofBytes (selK f) (s.vread c at_ (recBytes f)) else SelRec.fresh (selK f)
            let done := start.step s.stepNo (selK f) (o.sargs.getD 2 0).toNat row
            let s1 := ((s.setCore x.core (core.popRow rest)).vwrite c to_ (row.flatMap (fun v => leBytes 4 v.toNat))).vwrite c at_
              done.bytes
            some (if k + 1 = selRows f then s1.finishOp r else s1.setWork r (.rows (k + 1)))
    | _, _ => none
/-- CPYSEL_ROW (R174, R175). -/
def execCpyselRow (group op : Nat) (s : State) : Host.Outcome State Fault Refusal :=
  whenEnabled "CPYSEL_ROW" (s.asOp group op (fun s => s.cpyselRow group op))

end Sys2Proof.Machine
end

