-- ==== Sys2Proof/Machine/Fibre.lean ====
section
/-!
DEFINITION. Fibres: FBOPEN, FBNEXT, FBEND and FBCLOSE (R176, R177).
-/
namespace Sys2Proof.Machine

/-- A fibre slot of a thread (R176). -/
def Group.fibre (x : Group) (t slot : Nat) : Fibre := Sparse.get Fibre.closed x.fibres (8 * t + slot)
/-- A fibre slot replaced. -/
def Group.setFibre (x : Group) (t slot : Nat) (y : Fibre) : Group :=
  { x with fibres := Sparse.put Fibre.closed x.fibres (8 * t + slot) y }
/-- The slot an instruction names (R177). -/
def fibreSlot (f : EFmt) : Nat := f.imm.toNat % 8

/-- The descriptor in 32 bytes: PTRS, COLS, VALS, ROWS, WLOG, and whether it keeps its limits (R176). -/
def fibreDesc (l : List Byte) : Nat × Nat × Nat × Nat × Nat × Bool :=
  let w := numAt l 0x1C 4
  (numAt l 0 8, numAt l 8 8, numAt l 0x10 8, numAt l 0x18 4, w % 4, w < 3)

/-- The failing checks of reading a descriptor of `n` bytes aligned to `n`, whose contents `ok` tests once an agent of a core can read
them; then `more` (R151, R280). -/
def State.descFailuresFor (s : State) (core c a n : Nat) (ok : List Byte → Bool) (more : List Byte → List Failure) : List Failure :=
  let bad : List Failure := [failure 2 0x0F a none]
  let page := s.spanFailures c a n .read none none
  if a % n != 0 then page.filter (fun e => e.order < 2) ++ bad
  else if !page.isEmpty then page
  else
    let l := s.cachedRead core c pathGen a n
    if ok l then more l else bad
/-- Those of a descriptor that its home reads (R372). -/
def State.descFailures (s : State) (c a n : Nat) (ok : List Byte → Bool) (more : List Byte → List Failure) : List Failure :=
  s.descFailuresFor homeCore c a n ok more

/-- A little-endian number that a thread of a core reads by a relaxed load on .gen (R177, R280). -/
def State.genNum (s : State) (core c va n : Nat) : Nat := ofLe (s.cachedRead core c pathGen va n)
/-- The fibre descriptor as a thread of a core reads it (R177). -/
def State.fibreAt (s : State) (core c a : Nat) : Nat × Nat × Nat × Nat × Nat × Bool :=
  fibreDesc (s.cachedRead core c pathGen a 32)
/-- The spans that FBOPEN reads: the descriptor and, once that is known, the row pointers. -/
def State.fbopenSpans (s : State) (core c a : Nat) (rows : List Nat) : List (Nat × Nat) :=
  if (s.badSpan c a 32 true).isSome then [(a, 32)]
  else
    let (ptrs, _, _, n, _, _) := s.fibreAt core c a
    (a, 32) :: (rows.filter (· < n)).map (fun k => (wrap64 (ptrs + 8 * k), 16))

/-- FBOPEN: the row pointers of each enabled thread's row (R177); where data that it reads is lost it opens nothing, and its
operation ends failed (R385). -/
def execFbopen (f : EFmt) (s : State) : Host.Outcome State Fault Refusal :=
  withGroup s (fun i g x =>
    let c := s.ctxOf x.launch
    let a := (x.rs f.sa.toNat).toNat
    let ts := x.enabledSet f.g i.active 0
    let row (t : Nat) : Nat := (x.rv t f.vx.toNat).toNat
    if ts.isEmpty then s.complete i g x
    else s.counted g x .ld (
      match firstFailure (atIssue (s.descFailuresFor x.core c a 32 (fun l => (fibreDesc l).2.2.2.2.2) (fun l =>
        let (ptrs, _, _, rows, _, _) := fibreDesc l
        ts.flatMap (fun t => if row t < rows then s.spanFailures c (wrap64 (ptrs + 8 * row t)) 16 .read none (some t) else [])))),
        s.badIn c (s.fbopenSpans x.core c a (ts.map row)) true with
      | some e, _ => s.failFor i g e (maskOf ts)
      | none, some b => s.complete i g ((x.issueOp i.instr .ld (maskOf ts) [] [] [] .idle).metBad (some b))
      | none, none =>
        let (ptrs, cols, vals, rows, wlog, _) := s.fibreAt x.core c a
        let fresh (t : Nat) : Fibre × Bool :=
          if rows ≤ row t then (Fibre.mk 0 0 cols vals wlog, true)
          else
            let lo := s.genNum x.core c (wrap64 (ptrs + 8 * row t)) 8
            let hi := s.genNum x.core c (wrap64 (ptrs + 8 * row t + 8)) 8
            if hi < lo then (Fibre.mk hi hi cols vals wlog, true) else (Fibre.mk lo hi cols vals wlog, false)
        let y := ts.foldl (fun y t => y.setFibre t (fibreSlot f) (fresh t).1) x
        let z := { y with fbst := y.fbst || ts.any (fun t => (fresh t).2) }
        (ts.foldl (fun s t => if row t < rows then s.hold c (wrap64 (ptrs + 8 * row t)) 16 else s) (s.hold c a 32)).complete i g
          (z.issueOp i.instr .ld (maskOf ts) [] [] [] .idle)))

/-- The addresses that FBNEXT reads in a thread: column index, value and its bytes; none for an exhausted fibre. -/
def Fibre.reads (y : Fibre) : Option (Nat × Nat × Nat) :=
  if y.cursor < y.fin then
    some (wrap64 (y.cols + 4 * y.cursor), wrap64 (y.vals + y.cursor * 2 ^ y.wlog), 2 ^ y.wlog)
  else none

/-- The spans that FBNEXT reads in a thread. -/
def Fibre.spans (y : Fibre) : List (Nat × Nat) := match y.reads with | some (a, b, n) => [(a, 4), (b, n)] | none => []

/-- FBNEXT (R177); where data that it reads is lost it delivers nothing, and its operation ends failed (R385). -/
def execFbnext (f : EFmt) (s : State) : Host.Outcome State Fault Refusal :=
  withGroup s (fun i g x =>
    let c := s.ctxOf x.launch
    let ts := x.enabledSet f.g i.active 0
    let fb (t : Nat) : Fibre := x.fibre t (fibreSlot f)
    if ts.isEmpty then s.complete i g x
    else s.counted g x .ld (
      match firstFailure (atIssue (ts.flatMap (fun t => (fb t).spans.flatMap (fun q => s.spanFailures c q.1 q.2 .read none (some t))))),
        s.badIn c (ts.flatMap (fun t => (fb t).spans)) true with
      | some e, _ => s.failFor i g e (maskOf ts)
      | none, some b => s.complete i g ((x.issueOp i.instr .ld (maskOf ts) [] [] [] .idle).metBad (some b))
      | none, none =>
        let y := ts.foldl (fun y t => match (fb t).reads with
          | some (a, b, n) =>
            ((y.wv t f.vx.toNat (BitVec.ofNat 64 (s.genNum x.core c a 4 + s.genNum x.core c b n * 2 ^ 32))).wp t f.pf.toNat 0).setFibre t
              (fibreSlot f) { fb t with cursor := (fb t).cursor + 1 }
          | none => (y.wv t f.vx.toNat 0xFFFFFFFF).wp t f.pf.toNat 0xFF) x
        (ts.foldl (fun s t => match (fb t).reads with
          | some (a, b, n) => (s.hold c a 4).hold c b n
          | none => s) s).complete i g (y.issueOp i.instr .ld (maskOf ts) [] [] [] .idle)))

/-- FBEND (R177). -/
def execFbend (f : EFmt) (s : State) : Host.Outcome State Fault Refusal :=
  withGroup s (fun i g x =>
    s.complete i g ((x.enabledSet f.g i.active 0).foldl (fun y t =>
      let b := x.fibre t (fibreSlot f)
      y.wp t f.pf.toNat (if b.cursor = b.fin then 0xFF else 0)) x))

/-- FBCLOSE (R177). -/
def execFbclose (f : EFmt) (s : State) : Host.Outcome State Fault Refusal :=
  withGroup s (fun i g x =>
    s.complete i g ((x.enabledSet f.g i.active 0).foldl (fun y t => y.setFibre t (fibreSlot f) Fibre.closed) x))

end Sys2Proof.Machine
end

