-- ==== Sys2Proof/Machine/Deque.lean ====
section
/-!
DEFINITION. Deques: DQPUSH, DQPOP, DQSTEAL and the atomic step at the descriptor's home (R178, R179).
-/
namespace Sys2Proof.Machine

/-- A deque descriptor as read (R178). -/
structure Deq where
  ring : Nat
  clog : Nat
  top  : Nat
  bot  : Nat
  ok   : Bool
deriving DecidableEq, Repr

/-- The descriptor in 64 bytes (R178). -/
def deqOf (l : List Byte) : Deq :=
  let d := Deq.mk (numAt l 0 8) (numAt l 8 4) (numAt l 0x10 8) (numAt l 0x18 8) true
  { d with ok := d.ring % 8 == 0 && 1 ≤ d.clog && d.clog ≤ 24 && numAt l 0x0C 4 == 0 && numAt l 0x20 32 == 0 && d.top ≤ d.bot }
/-- The address of item `n`. -/
def Deq.item (d : Deq) (n : Nat) : Nat := wrap64 (d.ring + 8 * (n % 2 ^ d.clog))

/-- The three deque instructions. -/
inductive DqKind where
  | push | pop | steal
deriving DecidableEq, Repr
/-- Which one an instruction is. -/
def dqKind? : Instr → Option DqKind
  | .dqpush _ => some .push
  | .dqpop _ => some .pop
  | .dqsteal _ => some .steal
  | _ => none

/-- The item that an operation takes its turn on, and the descriptor after it; none when full or empty (R179). -/
def Deq.turn (d : Deq) (k : DqKind) : Option (Nat × Deq) :=
  match k with
  | .push => if d.bot - d.top < 2 ^ d.clog then some (d.bot, { d with bot := d.bot + 1 }) else none
  | .pop => if d.top < d.bot then some (d.bot - 1, { d with bot := d.bot - 1 }) else none
  | .steal => if d.top < d.bot then some (d.top, { d with top := d.top + 1 }) else none

/-- The failing checks of an access that reads and writes a span: those of a write, and data it cannot read (R151, R384). -/
def State.updateFailures (s : State) (c a n : Nat) (th : Option Nat) : List Failure :=
  s.spanFailures c a n .write (some false) th ++ (s.spanFailures c a n .read none th).filter (fun e => e.order == 8)

/-- The failing checks of the items that the enabled threads would act on now, in thread order (R151, R171). -/
def State.itemFailures (s : State) (c : Nat) (k : DqKind) : Deq → List Nat → List Failure
  | _, [] => []
  | d, t :: rest =>
    match d.turn k with
    | none => s.itemFailures c k d rest
    | some (n, d') =>
      (match k with
       | .push => s.spanFailures c (d.item n) 8 .write (some false) (some t)
       | _ => s.spanFailures c (d.item n) 8 .read none (some t)) ++ s.itemFailures c k d' rest

/-- The spans of the items that the threads would act on now. -/
def Deq.itemSpans (k : DqKind) : Deq → List Nat → List (Nat × Nat)
  | _, [] => []
  | d, _ :: rest => match d.turn k with
    | none => Deq.itemSpans k d rest
    | some (n, d') => (d.item n, 8) :: Deq.itemSpans k d' rest
/-- The failing checks of a span that an operation reaches at its step but did not at its issue: each page is checked once (R330), and
where one fails the operation ends failed (DESIGN CHOICE, log entries 40 and 89). -/
def State.lateFailures (s : State) (c : Nat) (o : Op) (a n : Nat) (write : Bool) : List Failure :=
  if o.leaves.any (fun p => p.1 == a / 65536) then []
  else if write then s.spanFailures c a n .write (some false) none else s.spanFailures c a n .read none none

/-- Deque instructions leave issue once their checks pass; the steps follow at the home (R179). -/
def dqInstr (k : DqKind) (f : EFmt) (s : State) : Host.Outcome State Fault Refusal :=
  withGroup s (fun i g x =>
    let c := s.ctxOf x.launch
    let a := (x.rs f.sa.toNat).toNat
    let ts := x.enabledSet f.g i.active 0
    if ts.isEmpty then s.complete i g x
    else s.counted g x .en (
      match firstFailure (atIssue (s.updateFailures c a 64 none ++
        s.descFailures c a 64 (fun l => (deqOf l).ok) (fun l => s.itemFailures c k (deqOf l) ts))) with
      | some e => s.failFor i g e (maskOf ts)
      | none =>
        let d := deqOf (s.vread c a 64)
        let ring := if (s.badSpan c a 64 true).isSome then [] else Deq.itemSpans k d ts
        (s.hold c a 64).complete i g
          ((x.issueOp i.instr .en (maskOf ts) (.v f.vx.toNat :: predOut f.pf.toNat) [x.rs f.sa.toNat]
            (ts.map (fun t => (t, x.rv t f.vx.toNat))) (.threads ts)).pin s
            ((a, 64) :: ring))))

/-- DQPUSH (R179). -/
def execDqpush (f : EFmt) (s : State) := dqInstr .push f s
/-- DQPOP (R179). -/
def execDqpop (f : EFmt) (s : State) := dqInstr .pop f s
/-- DQSTEAL (R179). -/
def execDqsteal (f : EFmt) (s : State) := dqInstr .steal f s

/-- A span holds data that cannot be delivered (R384). -/
def State.spoiled (s : State) (c a n : Nat) : Bool := (s.badSpan c a n true).isSome
/-- A step of an operation that reads spans: where one holds data that cannot be delivered, the operation stops there and ends
failed (R385). -/
def State.readingOr (s : State) (r : OpRef) (c : Nat) (l : List (Nat × Nat)) (k : Option State) : Option State :=
  match s.badIn c l true with
  | some a => some (s.failOp r a)
  | none => k
/-- The operation goes on with the remaining threads, or its effect is complete. -/
def State.nextThreads (s : State) (r : OpRef) (rest : List Nat) : State :=
  if rest.isEmpty then s.finishOp r else s.setWork r (.threads rest)
/-- The operand of a thread read at issue. -/
def Op.targ (o : Op) (t : Nat) : Word := match o.targs.find? (fun p => p.1 == t) with | some p => p.2 | none => 0

/-- One thread acts on the deque (R179), under the translations of the issue (R325, R330); the pages checked are those of the items that
the threads act on (R151), and an item that the issue did not foresee is checked at the turn (log entry 40). -/
def State.dequeTurn (s : State) (r : OpRef) (x : Group) (o : Op) (f : EFmt) (k : DqKind) (t : Nat) (rest : List Nat) :
    Option State :=
  let c := s.ctxOf x.launch
  let a := (o.sargs.getD 0 0).toNat
  let d := deqOf (s.vread c a 64)
  let give (s : State) (w : Option Word) (ok : Bool) : State :=
    (s.updGroup r.group (fun y =>
      let z := match w with | some v => y.wv t f.vx.toNat v | none => y
      z.wp t f.pf.toNat (if ok then 0xFF else 0))).nextThreads r rest
  s.readingOr r c [(a, 64)] (match d.turn k with
    | none => some (give s (if k = .push then none else some 0) false)
    | some (n, d') =>
      let b := d.item n
      let s1 := s.hold c b 8
      match firstFailure (atIssue (s.lateFailures c o b 8 (k == .push))) with
      | some e => some (s.failOp r e.addr)
      | none => match k with
      | .push =>
        (match s.badSpan c b 8 false with
         | some e => some (s.failOp r e)
         | none => some (give ((s1.vwrite c b (leBytes 8 (o.targ t).toNat)).vsetNum c (a + 0x18) 8 d'.bot) none true))
      | .pop =>
        s.readingOr r c [(b, 8)]
          (some (give (s1.vsetNum c (a + 0x18) 8 d'.bot) (some (BitVec.ofNat 64 (s.vnum c b 8))) true))
      | .steal =>
        s.readingOr r c [(b, 8)]
          (some (give (s1.vsetNum c (a + 0x10) 8 d'.top) (some (BitVec.ofNat 64 (s.vnum c b 8))) true)))

/-- DEQUE_STEP: the next thread of a deque operation acts in one atomic step (R178, R179). -/
def State.dequeStep (s : State) (g n : Nat) : Option State :=
  let r := OpRef.mk g n
  match s.opAt? r with
  | none => none
  | some (x, o) =>
    match o.work, enFmt? o.instr, dqKind? o.instr with
    | .threads (t :: rest), some f, some k => s.dequeTurn r x o f k t rest
    | _, _, _ => none
/-- DEQUE_STEP (R178). -/
def execDequeStep (group op : Nat) (s : State) : Host.Outcome State Fault Refusal :=
  whenEnabled "DEQUE_STEP" (s.asOp group op (fun s => s.dequeStep group op))

end Sys2Proof.Machine
end

