-- ==== Sys2Proof/Machine/Bound.lean ====
section
/-!
DEFINITION. Bound registers: BNDUP, BNDRD and the cluster's bound unit (R180).
-/
namespace Sys2Proof.Machine

/-- A bound register after an update (R180). -/
def bndNew (op : Nat) (ty : BitVec 4) (cur v : Word) : Word :=
  if ty = 10 then
    let o := cur.toNat % 2 ^ 32
    let w := v.toNat % 2 ^ 32
    BitVec.ofNat 64 (if op = 2 then w else (minMaxCode fmtF32 (op == 0) true o w).1)
  else if op = 2 then v
  else if ty = 11 then BitVec.ofNat 64 (minMaxCode fmtF64 (op == 0) true cur.toNat v.toNat).1
  else
    let a := ival (signedTy ty) 64 cur.toNat
    let b := ival (signedTy ty) 64 v.toNat
    if op = 0 then (if a < b then v else cur) else if b < a then v else cur

/-- BNDUP leaves issue with the values of its enabled threads (R180). -/
def execBndup (f : EFmt) (s : State) : Host.Outcome State Fault Refusal :=
  withGroup s (fun i g x =>
    let ts := x.enabledSet f.g i.active 0
    if ts.isEmpty then s.complete i g x
    else s.counted g x .en (s.complete i g
      (x.issueOp i.instr .en (maskOf ts) [] [] (ts.map (fun t => (t, x.rv t f.vx.toNat))) (.bound false))))

/-- A bound register as a core holds it (R180). -/
def State.bound (s : State) (core b : Nat) : Word := Sparse.get 0 (s.core core).bnd b

/-- BNDRD reads the issuing core's copy (R180). -/
def execBndrd (f : EFmt) (s : State) : Host.Outcome State Fault Refusal :=
  withGroup s (fun i g x =>
    let w := s.bound x.core (f.imm.toNat % 16)
    if f.g.u then s.complete i g (if x.uniformOn f.g i.active then x.ws f.sd.toNat w else x)
    else s.complete i g ((x.enabledSet f.g i.active 0).foldl (fun y t => y.wv t f.vx.toNat w) x))

/-- The cores of a core's cluster. -/
def clusterOf (core : Nat) : List Nat := (List.range 8).map (core / 8 * 8 + ·)

/-- The update arrives at the cluster's unit: every thread's value in turn; each new value is on its way to every core's
copy (R180). -/
def State.boundApply (s : State) (r : OpRef) (core : Nat) (f : EFmt) (o : Op) : State :=
  let b := f.imm.toNat % 16
  let key := core / 8 * 16 + b
  o.targs.foldl (fun s p =>
    let w := bndNew (f.ext.toNat % 4) f.type (Sparse.get 0 s.bounds key) p.2
    (clusterOf core).foldl (fun s k => let y := s.core k; s.setCore k { y with bndQ := y.bndQ ++ [(b, w, r)] })
      { s with bounds := Sparse.put 0 s.bounds key w }) s

/-- BOUND_UNIT_UPDATE: an update arrives at the unit, or its next value reaches the copy of a core (R180). -/
def State.boundUpdate (s : State) (g n core : Nat) : Option State :=
  let r := OpRef.mk g n
  match s.opAt? r with
  | none => none
  | some (x, o) =>
    match o.work, enFmt? o.instr with
    | .bound false, some f => some ((s.boundApply r x.core f o).setWork r (.bound true))
    | .bound true, some _ =>
      let y := s.core core
      match y.bndQ with
      | (b, w, q) :: rest =>
        if q != r then none
        else
          let s1 := s.setCore core { y with bnd := Sparse.put 0 y.bnd b w, bndQ := rest }
          some (if (clusterOf x.core).all (fun k => (s1.core k).bndQ.all (fun e => e.2.2 != r)) then s1.finishOp r else s1)
      | [] => none
    | _, _ => none
/-- BOUND_UNIT_UPDATE (R180). -/
def execBoundUnitUpdate (group op core : Nat) (s : State) : Host.Outcome State Fault Refusal :=
  whenEnabled "BOUND_UNIT_UPDATE" (s.boundUpdate group op core)

end Sys2Proof.Machine
end

