-- ==== Sys2Proof/Machine/Bringup.lean ====
section
/-!
DEFINITION. Module reset and bring-up (R393, R402).
-/
namespace Sys2Proof.Machine

/-- A core as it leaves reset: gated, its banks in CACHE mode; a retired one stays retired (R390, R402). -/
def resetCores (retired : List Nat) : Sparse Core :=
  retired.foldl (fun m c => Sparse.put Core.idle m c { Core.idle with retired := true }) []
/-- The dies as they leave reset: Quartz UNSET with AGE 0, the lost-unit table kept, the scrub period and the hour of the L2 sweep begun
(R378, R380, R388, R390, R402). -/
def State.resetDies (s : State) : Sparse Die :=
  (List.range 4).foldl (fun m d => Sparse.put Die.reset m d { Die.reset with lost := (s.die d).lost }) []
/-- The images of a flash bank pass the ROM's checks: each is signed, and its version is not below the fused rollback counter
(R393; which side of the counter is refused, DEDUCED, log entry 9). -/
def bankRuns (b : List FlashImage) : Bool := !b.isEmpty && b.all (fun i => i.signed && Config.rollback ≤ i.version)
/-- The flash bank that the device boots: the first of its two whose images pass (R393). -/
def bootBank (banks : List (List FlashImage)) : Option (List FlashImage) := (banks.take 2).find? bankRuns
/-- The rows mapped onto spare rows after one more is to be: each layer has 64 spare rows per bank (R390). -/
def spareRow (spared : List Nat) (k : Nat) : List Nat :=
  if spared.contains k || 64 ≤ (spared.filter (fun r => Config.bankOf r == Config.bankOf k)).length then spared else spared ++ [k]
/-- Memory without what the rows newly mapped onto spare rows held: their content is not carried over, and nothing has written the
spare row (R390; log entry 4). -/
def dropRows (fresh : List Nat) (m : Sparse Byte) : Sparse Byte :=
  if fresh.isEmpty then m
  else m.filter (fun p => match dramDie p.1 with | some d => !fresh.contains (rowKey d p.1) | none => true)
/-- MSTAT after bring-up: with no valid image only the links run; a link that fails to train leaves its bit clear (R393,
R402). -/
def bringUp (image link0 link1 : Bool) : MStat := MStat.mk (!image) 0 false link1 link0 image
/-- MODULE_RESET: the state of R402, with the lists that flash keeps, the listed rows mapped onto spare rows while there are any,
and the contents of DRAM and of the host (R390, R393); clocks count from the dies' leaving reset (R108). With no valid image in
either flash bank steps 2 and 3 are skipped (R393). -/
def State.moduleReset (s : State) (banks : List (List FlashImage)) (link0 link1 : Bool) : State :=
  let boot := bootBank banks
  let spared := if boot.isSome then s.listed.foldl spareRow s.spared else s.spared
  { State.reset with
    mem := dropRows (spared.filter (fun k => !s.spared.contains k)) s.mem
    stepNo := s.stepNo
    agenda := s.agenda
    cores := resetCores s.retired
    dies := s.resetDies
    listed := s.listed.filter (fun k => !spared.contains k)
    spared := spared
    retired := s.retired
    booted := boot.getD []
    mstat := bringUp boot.isSome link0 link1 }
/-- MODULE_RESET (R402). -/
def execModuleReset (banks : List (List FlashImage)) (link0 link1 : Bool) (s : State) : Host.Outcome State Fault Refusal :=
  .next (s.moduleReset banks link0 link1)

end Sys2Proof.Machine
end

