-- ==== Sys2Proof/Machine/Random.lean ====
section
/-!
DEFINITION. Random slots: ChaCha20, RNGT, the engine's refill, replay tickets and the REPLAY binding test (R181, R364 to
R367).
-/
namespace Sys2Proof.Machine

/-! ### ChaCha20 (RFC 8439, named by R181) -/

/-- A word of ChaCha20. -/
abbrev ChaWord := BitVec 32
/-- One quarter round on the words at four places. -/
def quarter (st : List ChaWord) (ia ib ic id_ : Nat) : List ChaWord :=
  let w (i : Nat) : ChaWord := st.getD i 0
  let a := w ia + w ib
  let d := (w id_ ^^^ a).rotateLeft 16
  let c := w ic + d
  let b := (w ib ^^^ c).rotateLeft 12
  let a2 := a + b
  let d2 := (d ^^^ a2).rotateLeft 8
  let c2 := c + d2
  let b2 := (b ^^^ c2).rotateLeft 7
  (((st.set ia a2).set ib b2).set ic c2).set id_ d2
/-- A column round and a diagonal round. -/
def doubleRound (s0 : List ChaWord) : List ChaWord :=
  let s1 := quarter (quarter (quarter (quarter s0 0 4 8 12) 1 5 9 13) 2 6 10 14) 3 7 11 15
  quarter (quarter (quarter (quarter s1 0 5 10 15) 1 6 11 12) 2 7 8 13) 3 4 9 14
/-- Double rounds, `n` of them. -/
def chachaRounds (n : Nat) (s : List ChaWord) : List ChaWord :=
  match n with
  | 0 => s
  | k + 1 => chachaRounds k (doubleRound s)
/-- The state before the rounds: constants, key, counter, nonce (R181). -/
def chachaInit (seed : Word) (ctr slot : Nat) : List ChaWord :=
  [0x61707865, 0x3320646E, 0x79622D32, 0x6B206574, BitVec.ofNat 32 seed.toNat, BitVec.ofNat 32 (seed.toNat / 2 ^ 32),
    0, 0, 0, 0, 0, 0, BitVec.ofNat 32 ctr, BitVec.ofNat 32 slot, 0, 0]
/-- A block of 16 words. -/
def chachaBlock (seed : Word) (ctr slot : Nat) : List ChaWord :=
  let s := chachaInit seed ctr slot
  ((chachaRounds 10 s).zip s).map (fun p => p.1 + p.2)
/-- Word `n` of a slot (R181). -/
def randomWord (seed : Word) (slot n : Nat) : Nat := ((chachaBlock seed (n / 16) slot).getD (n % 16) 0).toNat

/-! ### Slots and tickets (R181, R364) -/

/-- A slot of a die. -/
def State.slot (s : State) (d k : Nat) : RngSlot := Sparse.get RngSlot.idle (s.die d).slots k
/-- A slot replaced. -/
def State.setSlot (s : State) (d k : Nat) (y : RngSlot) : State :=
  let x := s.die d
  s.setDie d { x with slots := Sparse.put RngSlot.idle x.slots k y }
/-- Seed of a launch. -/
def State.seedOf (s : State) (l : Nat) : Word := match s.launch? l with | some x => x.seed | none => 0

/-- Words go to the threads of a ticket in ascending order (R181). -/
def Group.giveWords (x : Group) (v : Nat) (ts ws : List Nat) : Group :=
  (ts.zip ws).foldl (fun y p => y.wv p.1 v (BitVec.ofNat 64 p.2)) x
/-- The threads of an operation still to be served. -/
def Op.threadsLeft (o : Op) : List Nat := match o.work with | .threads l => l | _ => []

/-- The tickets at the head of a slot are served while the ring holds the words they need (R181). -/
def State.serveTickets (s : State) (d k : Nat) : List OpRef → State
  | [] => s
  | r :: rest =>
    let y := s.slot d k
    match s.opAt? r, y.claim with
    | some (x, o), some l =>
      let ts := o.threadsLeft
      if y.level < ts.length then s
      else
        let ws := (List.range ts.length).map (fun j => randomWord (s.seedOf l) k (y.pos + j))
        let v := match enFmt? o.instr with | some f => f.vx.toNat | none => 0
        (((s.setSlot d k { y with pos := y.pos + ts.length, level := y.level - ts.length, tickets := rest }).setGroup r.group
          (x.giveWords v ts ws)).finishOp r).serveTickets d k rest
    | _, _ => (s.setSlot d k { y with tickets := rest }).serveTickets d k rest

/-- The header a context's slot is bound to (R365). -/
def State.boundHeader (s : State) (c k : Nat) : Option Nat :=
  match s.ctx? c with
  | some x => Sparse.get none x.replays k
  | none => none
/-- A replay header in 64 bytes keeps its limits (R366). -/
def replayOk (l : List Byte) : Bool :=
  let count := numAt l 8 4
  numAt l 0 8 % 4 == 0 && 1 ≤ count && count ≤ 2 ^ 24 && bits (numAt l 0x10 4) 2 30 == 0 && numAt l 0x14 44 == 0
/-- The word addresses of a ticket of `n`; none where the table is exhausted (R367). -/
def replayAddrs (l : List Byte) (n : Nat) : List (Option Nat) :=
  let count := numAt l 8 4
  let wrap := bitAt (numAt l 0x10 4) 0
  (List.range n).map (fun i =>
    let c := numAt l 0x0C 4 + i
    if c < count then some (wrap64 (numAt l 0 8 + 4 * c))
    else if wrap then some (wrap64 (numAt l 0 8 + 4 * (c % count)))
    else none)
/-- The failing checks of a ticket in replay mode: the words that it would take now, then all of them, since which it takes is
known at the header's home only (R151, R171; log entry 40). -/
def State.replayFailures (s : State) (c h n : Nat) : List Failure :=
  atIssue (s.updateFailures c h 64 none ++
    s.descFailures c h 64 replayOk (fun l => (replayAddrs l n).flatMap (fun a => match a with
      | some a => s.spanFailures c a 4 .read none none
      | none => []) ++ s.spanFailures c (numAt l 0 8) (4 * numAt l 8 4) .read none none))

/-- RNGT takes one ticket (R181, R364). -/
def execRngt (f : EFmt) (s : State) : Host.Outcome State Fault Refusal :=
  withGroup s (fun i g x =>
    let c := s.ctxOf x.launch
    let d := dieOf x.core
    let k := if f.ext = 1 then (x.rs f.sa.toNat).toNat % 4096 else f.imm.toNat % 4096
    let ts := x.enabledSet f.g i.active 0
    let old := s.slot d k
    if ts.isEmpty then s.complete i g x
    else if old.claim.isSome && old.claim != some x.launch then s.stall g (.slot d k)
    else s.counted g x .en (
      let slot := if old.claim.isSome then old else RngSlot.mk (some x.launch) 0 0 [] (s.boundHeader c k)
      match firstFailure (match slot.replay with | some h => s.replayFailures c h ts.length | none => []) with
      | some e => s.failFor i g e (maskOf ts)
      | none =>
        let s1 := s.complete i g ((x.issueOp i.instr .en (maskOf ts) [.v f.vx.toNat] [] [] (.threads ts)).pin s
          (match slot.replay with
           | some h => (h, 64) :: (if s.spoiled c h 64 then [] else [(s.vnum c h 8, 4 * s.vnum c (h + 8) 4)])
           | none => []))
        let l := slot.tickets ++ [OpRef.mk g x.nextOp]
        let s2 := s1.setSlot d k { slot with tickets := l }
        if slot.replay.isSome then s2 else s2.serveTickets d k l))

/-- RANDOM_REFILL: the engine adds a block of 16 words to a claimed ring below full, and waiting tickets are served (R181). -/
def State.randomRefill (s : State) (d k : Nat) : Option State :=
  let y := s.slot d k
  if y.claim.isNone || y.replay.isSome || 64 ≤ y.level then none
  else some ((s.setSlot d k { y with level := min 64 (y.level + 16) }).serveTickets d k y.tickets)
/-- RANDOM_REFILL (R181). -/
def execRandomRefill (die slot : Nat) (s : State) : Host.Outcome State Fault Refusal :=
  whenEnabled "RANDOM_REFILL" (s.randomRefill die slot)

/-- The slot number that a ticket names. -/
def State.ticketSlot (s : State) (r : OpRef) : Option (Nat × Nat) :=
  match s.opAt? r with
  | none => none
  | some (x, _) =>
    (List.find? (fun (p : Nat × RngSlot) => p.2.tickets.contains r) (s.die (dieOf x.core)).slots).map (fun p => (dieOf x.core, p.1))

/-- REPLAY_TICKET: the oldest ticket of a slot in replay mode takes its words at the header's home in one atomic step, and
CURSOR advances (R367). -/
def State.replayTicket (s : State) (g n : Nat) : Option State :=
  let r := OpRef.mk g n
  match s.opAt? r, s.ticketSlot r with
  | some (x, o), some (d, k) =>
    let y := s.slot d k
    match y.replay, enFmt? o.instr with
    | some h, some f =>
      if y.tickets.head? != some r then none
      else
        let c := s.ctxOf x.launch
        let pop (s : State) : State := s.setSlot d k { s.slot d k with tickets := y.tickets.drop 1 }
        let l := s.vread c h 64
        let ts := o.threadsLeft
        let as_ := replayAddrs l ts.length
        let all := as_.filterMap id
        match s.badIn c ((h, 64) :: all.map (fun a => (a, 4))) true with
        | some e => some ((pop s).failOp r e)
        | none =>
          let ws := as_.map (fun a => match a with | some a => s.vnum c a 4 | none => 0)
          let count := numAt l 8 4
          let wrap := bitAt (numAt l 0x10 4) 0
          let cur := numAt l 0x0C 4 + ts.length
          let s1 := s.vsetNum c (h + 0x0C) 4 (if wrap then cur % count else cur)
          let s2 := if as_.any (·.isNone) then s1.vsetNum c (h + 0x10) 4 (numAt l 0x10 4 ||| 2) else s1
          some (((pop s2).updGroup g (fun z => z.giveWords f.vx.toNat ts ws)).finishOp r)
    | _, _ => none
  | _, _ => none
/-- REPLAY_TICKET (R367). -/
def execReplayTicket (group op : Nat) (s : State) : Host.Outcome State Fault Refusal :=
  whenEnabled "REPLAY_TICKET" (s.asOp group op (fun s => s.replayTicket group op))

/-- The claims of a launch end with it (R364). -/
def State.dropClaims (s : State) (l : Nat) : State :=
  (List.range 4).foldl (fun s d =>
    let x := s.die d
    s.setDie d { x with slots := x.slots.filter (fun (p : Nat × RngSlot) => p.2.claim != some l) }) s

end Sys2Proof.Machine
end

