-- ==== Sys2Proof/Machine/Stamp.lean ====
section
/-!
DEFINITION. Time and stamped memory: TNOW, STST in its two phases and its commits, LDAS (R182 to R184, R344 to R353).
-/
namespace Sys2Proof.Machine

/-- TNOW (R182). -/
def execTnow (f : EFmt) (s : State) : Host.Outcome State Fault Refusal :=
  withGroup s (fun i g x =>
    let d := dieOf x.core
    s.complete i g (if x.uniformOn f.g i.active then
      (x.ws f.sd.toNat (BitVec.ofNat 64 (s.earliest d))).ws f.sb.toNat (BitVec.ofNat 64 (s.latest d)) else x))

/-! ### Lines (R344) -/

/-- What the home keeps of a line, by its physical line number. -/
def State.stamped (s : State) (line : Nat) : Stamped := Sparse.get Stamped.fresh s.stamps line
/-- That replaced. -/
def State.setStamped (s : State) (line : Nat) (y : Stamped) : State :=
  { s with stamps := Sparse.put Stamped.fresh s.stamps line y }
/-- S*p* or S*q* (R183, R184). -/
def Group.stampArg (x : Group) (f : MFmt) : Nat := (x.rs (f.ext.toNat / 4)).toNat

/-! ### STST (R183, R347) -/

/-- STST enters its prepare phase: counted under ST, its elements go to their homes (R347). -/
def execStst (f : MFmt) (s : State) : Host.Outcome State Fault Refusal :=
  withGroup s (fun i g x =>
    let es := x.elems f i.active (x.ea f)
    let c := s.ctxOf x.launch
    if es.isEmpty then s.complete i g x
    else s.counted g x .st (
      match firstFailure (s.elemFailures x f .write (some true) es) with
      | some e => s.failFor i g e (elemMask es)
      | none =>
        let elts := es.flatMap (fun e => (linePieces e.2 (mBytes f)).map (fun p =>
          StampElt.mk e.1 p.1 (((x.dataBytes f e.1).drop p.2.1).take p.2.2)))
        let y := x.issueOp i.instr .st (elemMask es) [] [BitVec.ofNat 64 (x.stampArg f)] [] (.commits 0) |>.pin s (es.map (fun e => (e.2, mBytes f)))
        (es.foldl (fun (s : State) e => s.hold c e.2 (mBytes f)) { s with issue := none }).setGroup g
          { y with cont := some (.stst i elts 0 none), wait := some .serving }))

/-- The operation of the stamped store that a group is preparing: the last it issued. -/
def Group.lastOp (x : Group) : Nat := x.nextOp - 1

/-- Pending commits that a line's list holds (R344). -/
def pendingMax : Nat := 16
/-- The group whose store, not confirmed yet, heads the full list at which the store of a group is held off; none where that store can go
on, or an entry will commit there in time (R347, R348). -/
def State.heldBy (s : State) (g : Nat) : Option Nat :=
  match s.group? g with
  | none => none
  | some x => match x.cont with
    | some (.stst _ (e :: _) _ none) =>
      (match (s.as g x.lastOp).pa? (s.ctxOf x.launch) e.addr with
       | none => none
       | some pa =>
         let l := (s.stamped (pa / 128)).pending
         match l with
         | p :: _ => if pendingMax ≤ l.length && !p.confirmed then some p.by_.group else none
         | [] => none)
    | _ => none
/-- Following from store to store who holds off whom, within some steps, leads back to `g`. -/
def State.heldRound (s : State) (g : Nat) : Nat → Nat → Bool
  | 0, _ => false
  | n + 1, k => match s.heldBy k with
    | none => false
    | some h => h == g || s.heldRound g n h
/-- STST_PREPARE: the home of the next element makes the width test and assigns its stamp in one step; a full list holds it off, unless
its entries wait for this very store (R344, R347; log entry 39). -/
def State.ststPrepare (s : State) (g : Nat) : Option State :=
  match s.group? g with
  | none => none
  | some x =>
    match x.cont with
    | some (.stst i (e :: rest) made none) =>
      let r := OpRef.mk g x.lastOp
      (match s.pa? (s.ctxOf x.launch) e.addr with
       | none => none
       | some pa =>
         let d := (dramDie pa).getD 0
         let y := s.stamped (pa / 128)
         if s.tooWide d then
           some (s.setGroup g { x with cont := some (.stst i [] made (some (e.thread, e.addr))) })
         else if pendingMax ≤ y.pending.length && !s.heldRound g (s.groups.length + 1) g then none
         else
           let sp := match x.op? x.lastOp with | some o => (o.sargs.getD 0 0).toNat | none => 0
           let st := max (s.latest d) (max sp (y.astamp + 1))
           some ((s.setStamped (pa / 128)
             { y with astamp := st, pending := y.pending ++ [Pending.mk st pa e.data r false] }).setGroup g
             { x with cont := some (.stst i rest (made + 1) none) }))
    | _ => none
/-- STST_PREPARE (R347). -/
def execStstPrepare (group : Nat) (s : State) : Host.Outcome State Fault Refusal :=
  whenEnabled "STST_PREPARE" (s.asOp group ((s.group? group).map Group.lastOp |>.getD 0) (fun s => s.ststPrepare group))

/-- Every pending entry of an operation removed: cancelled (R347). -/
def State.cancelPending (s : State) (r : OpRef) : State :=
  { s with stamps := s.stamps.map (fun p => (p.1, { p.2 with pending := p.2.pending.filter (fun e => e.by_ != r) })) }
/-- Every pending entry of an operation confirmed (R347). -/
def State.confirmPending (s : State) (r : OpRef) : State :=
  { s with stamps := s.stamps.map (fun p =>
      (p.1, { p.2 with pending := p.2.pending.map (fun e => if e.by_ = r then { e with confirmed := true } else e) })) }

/-- STST_CONFIRM: all homes have answered; the instruction leaves issue, or faults with WIDTH and its entries are cancelled
(R347, R353). -/
def State.ststConfirm (s : State) (g : Nat) : Option State :=
  match s.group? g with
  | none => none
  | some x =>
    match x.cont, x.op? x.lastOp with
    | some (.stst i [] made width), some o =>
      let r := OpRef.mk g x.lastOp
      let y := { x with cont := none, wait := none }
      (match width with
       | some (t, a) =>
         some (((s.cancelPending r).setGroup g { y with ops := y.ops.filter (fun p => p.id != o.id) }).fail i g
           (mkFault 0x0C a (some t)) o.mask)
       | none => some ((s.confirmPending r).complete i g (y.setOp { o with work := .commits made })))
    | _, _ => none
/-- STST_CONFIRM (R347). -/
def execStstConfirm (group : Nat) (s : State) : Host.Outcome State Fault Refusal :=
  whenEnabled "STST_CONFIRM" (s.ststConfirm group)

/-- One commit of an operation has been made; the last completes it (R348). -/
def State.committed (s : State) (r : OpRef) : State :=
  match s.opAt? r with
  | some (_, o) => (match o.work with
    | .commits k => if k ≤ 1 then s.finishOp r else s.setWork r (.commits (k - 1))
    | _ => s)
  | none => s

/-- STAMPED_COMMIT: the oldest pending entry of a line is made visible at the first clock at which its home's Earliest
exceeds its stamp (R348). -/
def State.stampedCommit (s : State) (line : Nat) : Option State :=
  let y := s.stamped line
  match y.pending with
  | e :: rest =>
    if e.confirmed && e.stamp < s.earliest ((dramDie (line * 128)).getD 0) then
      let pa := line * 128 + e.addr % 128
      some ((((s.putBytes pathGen homeCore (dramDie pa) pa e.data).heal pa e.data.length).setStamped line { y with cstamp := e.stamp, pending := rest }).committed
        e.by_)
    else none
  | [] => none
/-- STAMPED_COMMIT (R348). -/
def execStampedCommit (line : Nat) (s : State) : Host.Outcome State Fault Refusal :=
  whenEnabled "STAMPED_COMMIT" (s.stampedCommit line)

/-! ### LDAS (R184, R351, R352) -/

/-- The requests of an as-of read, one for each line of an element; `line` and `byte` give the virtual address. -/
def asOfReqs (t a n b : Nat) : List SpReq :=
  (linePieces a n).map (fun p => SpReq.mk t 0 (p.1 / 128) (p.1 % 128) p.2.2 (b + p.2.1))
/-- The home of a virtual address holds a half-width beyond QLIM. -/
def State.wideAt (s : State) (c va : Nat) : Bool :=
  match s.pa? c va with | some pa => s.tooWide ((dramDie pa).getD 0) | none => false

/-- LDAS leaves issue once its homes have made the width test (R184). -/
def execLdas (f : MFmt) (s : State) : Host.Outcome State Fault Refusal :=
  withGroup s (fun i g x =>
    let es := x.elems f i.active (x.ea f)
    let c := s.ctxOf x.launch
    if es.isEmpty then s.complete i g x
    else s.counted g x .ld (
      match firstFailure (s.elemFailures x f .read (some true) es ++ es.flatMap (fun e =>
        if (linePieces e.2 (mBytes f)).any (fun p => s.wideAt c p.1) then [failure 7 0x0C e.2 (some e.1)] else [])) with
      | some e => s.failFor i g e (elemMask es)
      | none =>
        let y := es.foldl (fun y e => y.flagElem f e.1 false) x
        (es.foldl (fun s e => s.hold c e.2 (mBytes f)) s).complete i g
          ((y.issueOp i.instr .ld (elemMask es) (dataReg f :: predOut f.fp.toNat) [] []
            (.asOf (x.stampArg f) (es.flatMap (fun e => asOfReqs e.1 e.2 (mBytes f) (mOff f))))).pin s
            (es.map (fun e => (e.2, mBytes f))))))

/-- A request can be answered: its home's Earliest has passed T and no commit at or below T is pending (R184). -/
def State.asOfReady (s : State) (c t : Nat) (q : SpReq) : Bool :=
  match s.pa? c (q.line * 128 + q.byte) with
  | none => false
  | some pa => t < s.earliest ((dramDie pa).getD 0) && (s.stamped (pa / 128)).pending.all (fun e => t < e.stamp)

/-- LDAS_ANSWER: the first request of an as-of read that can be answered is (R184, R351); with the last the acquire that its ORDER asks
for is made (R274). -/
def State.ldasAnswer (s : State) (g n : Nat) : Option State :=
  let r := OpRef.mk g n
  match s.opAt? r with
  | none => none
  | some (x, o) =>
    match o.work, memFmt? o.instr with
    | .asOf t left, some f =>
      let c := s.ctxOf x.launch
      (match left.find? (s.asOfReady c t) with
       | none => none
       | some q =>
         let va := q.line * 128 + q.byte
         let pa := (s.pa? c va).getD 0
         if s.spoiled c va q.count then some (s.failOp r va)
         else
           let late := t < (s.stamped (pa / 128)).cstamp
           let y := x.putData o.instr q.thread q.reg (if late then leBytes q.count 0 else s.bytes pa q.count)
           let z := if late then y.flagElem f q.thread true else y
           let rest := left.erase q
           let s1 := s.setGroup g (z.setOp (if rest.isEmpty then { o with work := .idle, done := true }
             else { o with work := .asOf t rest }))
           some (if rest.isEmpty then s1.acquireBy x.core f.order.toNat f.scope.toNat else s1))
    | _, _ => none
/-- LDAS_ANSWER (R184). -/
def execLdasAnswer (group op : Nat) (s : State) : Host.Outcome State Fault Refusal :=
  whenEnabled "LDAS_ANSWER" (s.asOp group op (fun s => s.ldasAnswer group op))

end Sys2Proof.Machine
end

