-- ==== Sys2Proof/Machine/Own.lean ====
section
/-!
DEFINITION. Host-shared ranges: VACQ, VREL and the handoff; the control ring's commands in general; GIVE, TAKE and REFUSE
(R185, R327, R329, R330).
-/
namespace Sys2Proof.Machine

/-! ### The control ring (R327) -/

/-- A command of 32 bytes as read (R327). -/
structure Cmd where
  op   : Nat
  arg  : Nat
  va   : Nat
  len  : Nat
  done : Nat
deriving DecidableEq, Repr

/-- The command at HEAD of a context's control ring, none where the ring is empty or its doorbell has not rung (R312, R397). -/
def State.ctlHead (s : State) (c : Nat) : Option Cmd :=
  match s.ctx? c with
  | none => none
  | some x =>
    if s.ringReady x.ctl && x.rung.contains 16 && s.sound (s.slotAt x.ctl 32 (s.ringHead x.ctl)) 32 then
      let a := s.slotAt x.ctl 32 (s.ringHead x.ctl)
      some (Cmd.mk (s.num a 4) (s.num (a + 4) 4) (s.num (a + 8) 8) (s.num (a + 0x10) 8) (s.num (a + 0x18) 8))
    else none
/-- A slot of queue `d` is taken, TAIL read as an acquire at .sys (R312, R400); with the last one the doorbell `q` is answered (R397). -/
def State.takeRung (s : State) (c d q : Nat) : State :=
  let s1 := s.dropL2.ringTake d
  if s1.ringReady d then s1 else s1.updCtx c (fun x => { x with rung := x.rung.filter (· != q) })
/-- The command at HEAD is taken. -/
def State.ctlTake (s : State) (c : Nat) : State := match s.ctx? c with | some x => s.takeRung c x.ctl 16 | none => s
/-- VA and LEN are multiples of 64 KiB (R327). -/
def Cmd.paged (k : Cmd) : Bool := k.va % 65536 == 0 && k.len % 65536 == 0
/-- The command at HEAD, if it is the one named, is taken and has its effect; `ok` tells a well-formed one, and a malformed
one completes with status 0xFF (R327). -/
def State.command (s : State) (c op : Nat) (ok : Cmd → Bool) (k : State → Cmd → Option State) : Option State :=
  match s.ctlHead c with
  | none => none
  | some m =>
    if m.op != op then none
    else if ok m then k (s.ctlTake c) m
    else some ((s.ctlTake c).answer m.done 0xFF)
/-- A command that has been taken and has not completed waits in the context. -/
def State.pendCmd (s : State) (c : Nat) (m : Cmd) : State :=
  s.updCtx c (fun x => { x with pend := x.pend ++ [PendCmd.mk m.op m.arg m.va m.len m.done] })

/-! ### Pages of a range -/

/-- The pages of 64 KiB of a range, by their addresses. -/
def pagesOf (va len : Nat) : List Nat := (List.range (len / 65536)).map (fun i => wrap64 (va + 65536 * i))
/-- The leaf of a page in the page table itself. -/
def State.leafAt (s : State) (c va : Nat) : Option Leaf :=
  match s.ctx? c with
  | none => none
  | some x => match s.walk x.root va with | .leaf l => some l | _ => none
/-- Every page of which a range covers a part, it covers whole (R327). -/
def State.coversWhole (s : State) (c va len : Nat) : Bool :=
  (pagesOf va len).all (fun p => match s.leafAt c p with
    | some l => let lo := p - p % 2 ^ l.log; va ≤ lo && lo + 2 ^ l.log ≤ va + len
    | none => true)
/-- A range widened to the whole pages of which it covers a part: HOSTOWN is one bit of a leaf, so its ownership passes whole (R323,
R329; log entry 90). -/
def State.widen (s : State) (c va len : Nat) : Nat × Nat :=
  (pagesOf va len).foldl (fun q p => match s.leafAt c p with
    | some l =>
      let lo := min q.1 (p - p % 2 ^ l.log)
      (lo, max (q.1 + q.2) (p - p % 2 ^ l.log + 2 ^ l.log) - lo)
    | none => q) (va, len)
/-- Every page of a non-empty range lies in a host-shared range (R329). -/
def State.sharedRange (s : State) (c va len : Nat) : Bool :=
  len != 0 && (pagesOf va len).all (fun p => match s.leafAt c p with | some l => l.bit 6 | none => false)
/-- Every page of a range has HOSTOWN as given. -/
def State.ownedBy (s : State) (c va len : Nat) (host : Bool) : Bool :=
  (pagesOf va len).all (fun p => match s.leafAt c p with | some l => l.bit 7 == host | none => false)
/-- A leaf entry rewritten in its page table. -/
def State.setLeaf (s : State) (l : Leaf) (e : Nat) : State := s.setNum l.at_ 8 e
/-- A bit of a number set or cleared. -/
def withBit (x i : Nat) (b : Bool) : Nat := if b then x ||| 2 ^ i else if bitAt x i then x - 2 ^ i else x
/-- The translations of a range leave the caches (R326). -/
def State.dropHeld (s : State) (c va len : Nat) : State :=
  s.updCtx c (fun x => { x with held := x.held.filter (fun p => !meets va len (p.1 * 65536) 65536) })
/-- HOSTOWN of every page of a range written, and its translations invalidated (R329). -/
def State.setOwner (s : State) (c va len : Nat) (host : Bool) : State :=
  ((pagesOf va len).foldl (fun s p => match s.leafAt c p with
    | some l => s.setLeaf l (withBit l.value 7 host)
    | none => s) s).dropHeld c va len

/-! ### Uses of translations (R326, R329, R331) -/

/-- The operation's pins meet a range. -/
def Op.usesRange (o : Op) (va len : Nat) : Bool := o.pins.any (fun p => meets p.1 p.2 va len)
/-- The spans of global memory that a matrix or winner-list instruction in flight uses. -/
def Inflight.pins (y : Inflight) : List (Nat × Nat) :=
  let t (r : Nat) : Nat := (Sparse.get 0 y.t r).toNat
  match y.instr with
  | .mmac f => [(t f.tc.toNat, 63 * (t (f.tc.toNat + 1) % 2 ^ 24) + 256), (t (f.tc.toNat + 2), 128)]
  | .wlst f | .wlmrg f => if f.mod = 1 then [] else [(t f.ta.toNat, 0x140 + 8 * 32 * 64)]
  | _ => []
/-- Something uses a translation of the range: an access that is not performed, an engine operation that has not retired (R171,
R326), or a collective whose generation has not completed, which writes OUT and its descriptor then (R223). -/
def State.rangeInUse (s : State) (c va len : Nat) : Bool :=
  s.groups.any (fun p => s.ctxOf p.2.launch == c &&
    p.2.ops.any (fun o => (!o.done || o.cls == .cp || o.cls == .en) && o.usesRange va len)) ||
  s.tiles.any (fun p => s.ctxOf p.2.launch == c &&
    p.2.flight.any (fun y => y.pins.any (fun q => meets q.1 q.2 va len))) ||
  s.shards.any (fun h => h.ctx == c && (meets h.va 64 va len || meets h.out h.size va len))

/-! ### VACQ and VREL (R185, R329, R330) -/

/-- The operation enters the list of ownership operations (R330). -/
def State.enterOwn (s : State) (c : Nat) (r : OpRef) : State := s.updCtx c (fun x => { x with vacqs := x.vacqs ++ [r] })
/-- It leaves the list with a status. -/
def State.leaveOwn (s : State) (c : Nat) (r : OpRef) (status : Nat) : State :=
  (s.updCtx c (fun x => { x with vacqs := x.vacqs.filter (· != r) })).setWork r (.result (BitVec.ofNat 64 status))
/-- A range with a base or length that is no multiple of 64 KiB is no shared range (R185). -/
def State.goodRange (s : State) (c va len : Nat) : Bool := va % 65536 == 0 && len % 65536 == 0 && s.sharedRange c va len

/-- An operation of the list meets a range and is a VREL (`rel`) or a VACQ. -/
def State.ownPending (s : State) (c va len : Nat) (rel : Bool) : Bool :=
  match s.ctx? c with
  | none => false
  | some x => (x.vacqs.filterMap s.ownRange).any (fun r => r.1 == rel && meets r.2.1 r.2.2 va len)

/-- VACQ (R185, R329). -/
def execVacq (f : EFmt) (s : State) : Host.Outcome State Fault Refusal :=
  withGroup s (fun i g x =>
    let c := s.ctxOf x.launch
    let va := (x.rs f.sa.toNat).toNat
    let len := (x.rs f.sb.toNat).toNat
    let put (w : Work) : State :=
      s.complete i g (x.issueOp i.instr .en (leadMask i.active) [.s f.sd.toNat] [] [] w)
    if !x.uniformOn f.g i.active then s.complete i g x
    else s.counted g x .en (
      if !s.goodRange c va len then put (.result 1)
      else if s.ownedBy c va len false && !s.ownPending c va len true then put (.result 3)
      else ((put (.range (s.widen c va len).1 (s.widen c va len).2)).enterOwn c (OpRef.mk g x.nextOp)).request c (ReqRec.mk 2 (dieOf x.core) va 0)))

/-- VREL (R185, R329). -/
def execVrel (f : EFmt) (s : State) : Host.Outcome State Fault Refusal :=
  withGroup s (fun i g x =>
    let c := s.ctxOf x.launch
    let va := (x.rs f.sa.toNat).toNat
    let len := (x.rs f.sb.toNat).toNat
    let put (w : Work) : State :=
      s.complete i g (x.issueOp i.instr .en (leadMask i.active) [.s f.sd.toNat] [] [] w)
    if !x.uniformOn f.g i.active then s.complete i g x
    else s.counted g x .en (
      if !s.goodRange c va len then put (.result 1)
      else (put (.range (s.widen c va len).1 (s.widen c va len).2)).enterOwn c (OpRef.mk g x.nextOp)))

/-- The TAKEs whose ranges the host now owns complete, each with record kind 3 (R329). -/
def State.answerTakes (s : State) (c die : Nat) : State :=
  match s.ctx? c with
  | none => s
  | some x =>
    let past (k : PendCmd) : Bool := k.op == 3 && s.ownedBy c k.va k.len true
    let s1 := s.setCtx c { x with pend := x.pend.filter (fun k => !past k) }
    (x.pend.filter past).foldl (fun s k => (s.answer k.done 0).request c (ReqRec.mk 3 die k.va 0)) s1

/-- VREL_HANDOFF: device accesses to the range over, ownership passes to the host and the TAKEs it covers complete (R329). -/
def State.vrelHandoff (s : State) (g n : Nat) : Option State :=
  let r := OpRef.mk g n
  match s.opAt? r with
  | none => none
  | some (x, o) =>
    match o.work, o.instr with
    | .range va len, .vrel _ =>
      let c := s.ctxOf x.launch
      let before := match s.ctx? c with | some y => y.vacqs.takeWhile (· != r) | none => []
      if (before.filterMap s.ownRange).any (fun q => !q.1 && meets q.2.1 q.2.2 va len) || s.rangeInUse c va len then none
      else some (((s.setOwner c va len true).leaveOwn c r 0).answerTakes c (dieOf x.core))
    | _, _ => none
/-- VREL_HANDOFF (R329). -/
def execVrelHandoff (group op : Nat) (s : State) : Host.Outcome State Fault Refusal :=
  whenEnabled "VREL_HANDOFF" (s.vrelHandoff group op)

/-- The VACQs in a list, in order, that no earlier VREL of the list meets: they can complete (R330). -/
def State.openVacqs (s : State) (l : List OpRef) : List (OpRef × Nat × Nat) :=
  (l.foldl (fun (acc : List (Bool × Nat × Nat) × List (OpRef × Nat × Nat)) r =>
    match s.ownRange r with
    | none => acc
    | some q =>
      (acc.1 ++ [q],
        if !q.1 && !acc.1.any (fun e => e.1 && meets e.2.1 e.2.2 q.2.1 q.2.2) then acc.2 ++ [(r, q.2)] else acc.2)) ([], [])).2
/-- A VACQ is handed its range: it completes with status 0, and is an acquire at .sys (R185, R283). -/
def State.handVacq (s : State) (c : Nat) (r : OpRef) : State :=
  let s1 := s.leaveOwn c r 0
  match s.group? r.group with | some x => s1.acquire x.core 5 | none => s1
/-- Pending VACQs whose range the device now owns complete (R329). -/
def State.answerVacqs (s : State) (c : Nat) : State :=
  match s.ctx? c with
  | none => s
  | some x => (s.openVacqs x.vacqs).foldl (fun s q => if s.ownedBy c q.2.1 q.2.2 false then s.handVacq c q.1 else s) s

/-- GIVE: the host-owned pages of the range pass to the device; it waits for a VREL that has begun on the range (R329,
R330). -/
def State.give (s : State) (c : Nat) : Option State :=
  s.command c 2 (fun m => m.arg == 0 && m.paged && s.coversWhole c m.va m.len) (fun s m =>
    if !s.sharedRange c m.va m.len then some (s.answer m.done 1)
    else if (pagesOf m.va m.len).any (s.releasing c) then none
    else some (((s.setOwner c m.va m.len false).answerVacqs c).answer m.done 0))
/-- GIVE (R329). -/
def execGive (ctx : Nat) (s : State) : Host.Outcome State Fault Refusal := whenEnabled "GIVE" (s.give ctx)

/-- TAKE: it completes when the device releases the range (R327, R329). -/
def State.take (s : State) (c : Nat) : Option State :=
  s.command c 3 (fun m => m.arg == 0 && m.paged && s.coversWhole c m.va m.len) (fun s m =>
    if !s.sharedRange c m.va m.len then some (s.answer m.done 1)
    else if s.ownedBy c m.va m.len true then some (s.answer m.done 3)
    else some (s.pendCmd c m))
/-- TAKE (R327). -/
def execTake (ctx : Nat) (s : State) : Host.Outcome State Fault Refusal := whenEnabled "TAKE" (s.take ctx)

/-- REFUSE: every pending VACQ on the range completes with status 2 (R327, R329). -/
def State.refuse (s : State) (c : Nat) : Option State :=
  s.command c 7 (fun m => m.arg == 0 && m.paged && s.coversWhole c m.va m.len) (fun s m =>
    match s.ctx? c with
    | none => none
    | some x =>
      let hit := x.vacqs.filter (fun r => match s.ownRange r with
        | some q => !q.1 && meets q.2.1 q.2.2 m.va m.len
        | none => false)
      some ((hit.foldl (fun s r => s.leaveOwn c r 2) s).answer m.done 0))
/-- REFUSE (R327). -/
def execRefuse (ctx : Nat) (s : State) : Host.Outcome State Fault Refusal := whenEnabled "REFUSE" (s.refuse ctx)

end Sys2Proof.Machine
end

