-- ==== Sys2Proof/Machine/Pages.lean ====
section
/-!
DEFINITION. Residency and migration: PGREQ, INVAL, RESOLVE, MOVE, FRAMES, the decision on a move and the move itself (R170,
R326 to R328, R331, R332).
-/
namespace Sys2Proof.Machine

/-! ### INVAL (R326) -/

/-- The leaves of a table and of those below it, each with the address from which on it maps. -/
def leavesFrom (s : State) (table va : Nat) : List (Nat × Nat) → List (Nat × Leaf)
  | [] => []
  | (log, n) :: rest => (List.range (2 ^ n)).flatMap (fun i =>
      let at_ := table + 8 * i
      let e := s.num at_ 8
      let to_ := va + i * 2 ^ log
      if !bitAt e 0 then []
      else if bitAt e 1 then [(if bitAt to_ 56 then to_ + 2 ^ 64 - 2 ^ 57 else to_, Leaf.mk e at_ log)]
      else leavesFrom s (bits e 12 44 * 4096) to_ rest)
/-- The pages of all contexts that are mapped onto a frame as stamped memory, touched or not. -/
def State.frameMappers (s : State) (k : Nat) : List (Nat × Nat) :=
  List.flatMap (fun (p : Nat × Ctx) => (leavesFrom s p.2.root 0 levels).filterMap (fun e =>
    if e.2.bit 5 && e.2.bit 2 && e.2.frame ≤ k * 65536 && k * 65536 < e.2.frame + 2 ^ e.2.log then
      some (p.1, (e.1 + (k * 65536 - e.2.frame)) / 65536)
    else none)) s.ctxs
/-- A page leaves a frame that it reached as stamped memory. Whoever else is mapped onto it goes on using its line stamps; with the last
page they are discarded (R344). -/
def State.leaveFrame (s : State) (c page k : Nat) : State :=
  let us := (Sparse.get [] s.users k).filter (· != (c, page))
  let rest := if us.isEmpty then (s.frameMappers k).filter (· != (c, page)) else us
  let s1 := { s with users := Sparse.put [] s.users k rest }
  if rest.isEmpty then s1.dropStamps (k * 65536) 65536 else s1
/-- A page that is stamped no longer, or at another frame, leaves the frames through which it was: with the last one's attribute
their line stamps are discarded, so that they read 0 when a page receives it (R324, R344). A page that is only not resident keeps the
attribute, and its frame the stamps, until something else is mapped there: the rule says nothing of residency (DESIGN CHOICE, log
entry 106). -/
def State.settleStamps (s : State) (c p : Nat) : State :=
  let mine := s.users.filter (fun e => e.2.contains (c, p / 65536))
  match s.leafAt c p with
  | some l =>
    if l.bit 5 && !l.bit 2 then
      mine.foldl (fun s e => { s with users := Sparse.put [] s.users e.1 (e.2 ++ (s.frameMappers e.1).filter (fun u => !e.2.contains u)) }) s
    else
      (mine.filter (fun e => !(l.bit 5 && e.1 == l.pa p / 65536))).foldl (fun s e => s.leaveFrame c (p / 65536) e.1) s
  | none => mine.foldl (fun s e => s.leaveFrame c (p / 65536) e.1) s
/-- The key of a page's move history. -/
def pageKey (c va : Nat) : Nat := 2 ^ 48 * c + va / 65536
/-- A page that is mapped no longer has no move history (R332). -/
def State.settleHistory (s : State) (c p : Nat) : State :=
  if (s.leafAt c p).isSome then s else { s with history := Sparse.put History.fresh s.history (pageKey c p) History.fresh }
/-- The effect of INVAL: no cache holds an old entry of the range (R326). -/
def State.invalidate (s : State) (c va len : Nat) : State :=
  ((pagesOf va len).foldl (fun s p => (s.settleStamps c p).settleHistory c p) s).dropHeld c va len

/-- INVAL: taken in order, it completes once nothing uses an old entry (R326); a command with an unassigned OP completes with
status 0xFF (R327). -/
def State.inval (s : State) (c : Nat) : Option State :=
  match s.ctx? c with
  | none => none
  | some x =>
    match x.pend.find? (fun k => k.op == 1 && !s.rangeInUse c k.va k.len) with
    | some k => some (((s.setCtx c { x with pend := x.pend.erase k }).invalidate c k.va k.len).answer k.done 0)
    | none =>
      match s.ctlHead c with
      | none => none
      | some m =>
        if m.op = 0 || 13 < m.op then some ((s.ctlTake c).answer m.done 0xFF)
        else s.command c 1 (fun m => m.arg == 0 && m.paged && s.coversWhole c m.va m.len) (fun s m =>
          if s.rangeInUse c m.va m.len then some (s.pendCmd c m)
          else some ((s.invalidate c m.va m.len).answer m.done 0))
/-- INVAL (R326). -/
def execInval (ctx : Nat) (s : State) : Host.Outcome State Fault Refusal := whenEnabled "INVAL" (s.inval ctx)

/-! ### PGREQ (R170, R328) -/

/-- The page that holds an address, by its leaf. -/
def Leaf.page (l : Leaf) (va : Nat) : Nat := va - va % 2 ^ l.log

/-- The status of a PGREQ that is known at once, or the page it waits for and whether a move is asked, by the first row of R324 that
applies (R170, R324, R328, R331). -/
def State.pageAsk (s : State) (c : Nat) (mig : Bool) (a : Nat) : Nat ⊕ (Nat × Bool) :=
  match s.leafAt c a with
  | none => .inl 3
  | some l =>
    if !l.bit 2 then .inr (l.page a, false)
    else if l.bit 6 && (l.bit 7 || s.releasing c a) then .inl 3
    else if mig then .inr (l.page a, true)
    else .inl 0

/-- A page asked for: one record while a request is outstanding (R328). -/
def State.askPage (s : State) (c die page : Nat) : State :=
  match s.ctx? c with
  | none => s
  | some x =>
    if x.asked.contains page then s
    else (s.setCtx c { x with asked := x.asked ++ [page] }).request c (ReqRec.mk 1 die page 0)
/-- A move asked for. -/
def State.addMove (s : State) (m : Move) : State :=
  { s with moves := Sparse.set s.moves s.nextId m, nextId := s.nextId + 1 }

/-- PGREQ (R170). -/
def execPgreq (f : MFmt) (s : State) : Host.Outcome State Fault Refusal :=
  withGroup s (fun i g x =>
    let es := x.elems f i.active (x.ea f)
    let c := s.ctxOf x.launch
    let mig := f.subop == 1
    if es.isEmpty then s.complete i g x
    else s.counted g x .en (
      match firstFailure (es.flatMap (fun e => if canonical e.2 then [] else [failure 1 0x09 e.2 (some e.1)])) with
      | some e => s.failFor i g e (elemMask es)
      | none =>
        let ans := es.map (fun e => (e.1, s.pageAsk c mig e.2))
        let y := ans.foldl (fun y a => match a.2 with
          | .inl k => y.putData i.instr a.1 (mOff f) (leBytes (mBytes f) k)
          | .inr _ => y) x
        let left := ans.filterMap (fun a => match a.2 with | .inr p => some (a.1, p.1) | .inl _ => none)
        let pages (m : Bool) : List Nat := nubNat (ans.filterMap (fun a => match a.2 with
          | .inr p => if p.2 = m then some p.1 else none
          | .inl _ => none))
        let r := OpRef.mk g x.nextOp
        let d := dieOf x.core
        let s1 := s.complete i g (y.issueOp i.instr .en (elemMask es) [dataReg f] [] []
          (if left.isEmpty then .idle else .pages left))
        let s2 := (pages false).foldl (fun s p => s.askPage c d p) s1
        (pages true).foldl (fun s p => s.addMove (Move.mk c p d (some r) none false false none)) s2))

/-- The threads of a PGREQ that wait for a page receive a status (R170). -/
def State.answerPage (s : State) (r : OpRef) (page status : Nat) : State :=
  match s.opAt? r with
  | none => s
  | some (x, o) =>
    match o.work, memFmt? o.instr with
    | .pages left, some f =>
      let y := (left.filter (fun p => p.2 == page)).foldl
        (fun y p => y.putData o.instr p.1 (mOff f) (leBytes (mBytes f) status)) x
      let rest := left.filter (fun p => p.2 != page)
      s.setGroup r.group (y.setOp (if rest.isEmpty then { o with work := .idle, done := true }
        else { o with work := .pages rest }))
    | _, _ => s

/-! ### Moves (R331, R332) -/

/-- A page of a MOVE command is answered; the command completes with its last page, with the greatest status. -/
def State.answerMove (s : State) (c id_ status : Nat) : State :=
  match s.ctx? c with
  | none => s
  | some x =>
    match x.pend.find? (fun k => k.op == 5 && k.va == id_) with
    | none => s
    | some k =>
      let k2 := { k with arg := max k.arg status, len := k.len - 1 }
      if k2.len = 0 then (s.setCtx c { x with pend := x.pend.erase k }).answer k2.done k2.arg
      else s.setCtx c { x with pend := x.pend.map (fun q => if q = k then k2 else q) }
/-- A move request ends with a status (R170, R327). -/
def State.endMove (s : State) (id_ : Nat) (m : Move) (status : Nat) : State :=
  let s1 := { s with moves := Sparse.erase s.moves id_ }
  match m.op, m.done with
  | some r, _ => s1.answerPage r m.va status
  | none, some k => s1.answerMove m.ctx k status
  | none, none => s1

/-- The history of a page. -/
def State.hist (s : State) (c va : Nat) : History := Sparse.get History.fresh s.history (pageKey c va)
/-- The history replaced. -/
def State.setHist (s : State) (c va : Nat) (h : History) : State :=
  { s with history := Sparse.put History.fresh s.history (pageKey c va) h }
/-- The page is already where a request wants it: on its target die, or on the host (R331). -/
def Leaf.homeIs (l : Leaf) (target : Nat) : Bool := if inSystem l.frame then target == 4 else target == l.home
/-- Another move of the page has been granted and is not over. -/
def State.moving (s : State) (id_ : Nat) (m : Move) : Bool :=
  s.moves.any (fun p => p.1 != id_ && p.2.ctx == m.ctx && p.2.va == m.va && p.2.granted)
/-- The window within which four moves settle a page, in ns (R332). -/
def moveWindow : Nat := 65536000
/-- The time for which it is settled. -/
def settleTime : Nat := 16777216000

/-- MOVE_REQUEST_DECISION: settled, settling, refused, already home, or granted; not while the page is moving (R331, R332). -/
def State.decideMove (s : State) (id_ : Nat) : Option State :=
  match Sparse.find? s.moves id_ with
  | none => none
  | some m =>
    if m.granted || m.posted || s.moving id_ m then none
    else match s.leafAt m.ctx m.va with
      | none => some (s.endMove id_ m 3)
      | some l =>
        if l.log = 30 || (l.bit 6 && (l.bit 7 || s.releasing m.ctx m.va)) || (m.target = 4 && l.bit 5) then
          some (s.endMove id_ m 3)
        else if !l.bit 2 then
          some (({ s with moves := Sparse.set s.moves id_ { m with posted := true } }).askPage m.ctx (if m.target = 4 then l.home else m.target) m.va)
        else if l.homeIs m.target then some (s.endMove id_ m 0)
        else
          let t := s.earliest l.home
          let h := s.hist m.ctx m.va
          if l.bit 8 && t < h.settle then some (s.endMove id_ m 2)
          else
            let recent := h.moves.filter (fun u => t < u + moveWindow && u ≤ t)
            if 4 ≤ recent.length then
              some (((s.setLeaf l (withBit l.value 8 true)).setHist m.ctx m.va { h with settle := t + settleTime }).endMove id_ m 2)
            else
              let s1 := if l.bit 8 then s.setLeaf l (withBit l.value 8 false) else s
              let s2 := s1.setHist m.ctx m.va { h with moves := ((h.moves ++ [t]).reverse.take 4).reverse }
              let s3 := { s2 with moves := Sparse.set s2.moves id_ { m with granted := true, posted := m.target == 4 } }
              some (if m.target = 4 then s3.request m.ctx (ReqRec.mk 1 4 m.va 0) else s3)
/-- MOVE_REQUEST_DECISION (R332). -/
def execMoveRequestDecision (move : Nat) (s : State) : Host.Outcome State Fault Refusal :=
  whenEnabled "MOVE_REQUEST_DECISION" (s.decideMove move)

/-- A physical span copied, with its line stamps, the writes that some reader may not see yet (R268) and the pages that reach it as
stamped memory (R331); it writes every unit of the new one (R386). -/
def State.carryPage (s : State) (a b n : Nat) : State :=
  let inOld (k : Nat) : Bool := a ≤ k && k < a + n
  let inNew (k : Nat) : Bool := b ≤ k && k < b + n
  let mem := (s.mem.filter (fun p => inOld p.1)).foldl (fun m p => Sparse.put Memory.blank m (p.1 - a + b) p.2)
    (s.mem.filter (fun p => !inNew p.1))
  let kept := s.stamps.filter (fun p => !inNew (p.1 * 128) && !inOld (p.1 * 128))
  let stamps := (s.stamps.filter (fun p => inOld (p.1 * 128))).foldl
    (fun m p => Sparse.put Stamped.fresh m ((p.1 * 128 - a + b) / 128) p.2) kept
  let users := (s.users.filter (fun p => inOld (p.1 * 65536))).foldl
    (fun m p => Sparse.put [] m ((p.1 * 65536 - a + b) / 65536) p.2)
    (s.users.filter (fun p => !inNew (p.1 * 65536) && !inOld (p.1 * 65536)))
  let versions := (s.versions.filter (fun p => inOld p.1)).foldl (fun m p => Sparse.put [] m (p.1 - a + b) p.2)
    (s.versions.filter (fun p => !inNew p.1 && !inOld p.1))
  let s1 := { s with mem := mem, stamps := stamps, users := users, versions := versions,
                     shards := s.shards.map (fun h => if inOld h.desc then { h with desc := h.desc - a + b } else h) }
  match dramDie b with
  | some d =>
    let x := s1.die d
    s1.setDie d { x with lost := x.lost.filter (fun (u : Nat × Nat) => !inNew u.1) }
  | none => s1

/-- Engine operations that have not retired hold the page, or a stamped commit on it is pending (R331). -/
def State.pageBusy (s : State) (c va : Nat) (l : Leaf) : Bool :=
  s.groups.any (fun p => s.ctxOf p.2.launch == c &&
    p.2.ops.any (fun o => (o.cls == .cp || o.cls == .en) && o.usesRange va (2 ^ l.log))) ||
  s.stamps.any (fun p => l.frame ≤ p.1 * 128 && p.1 * 128 < l.frame + 2 ^ l.log && !p.2.pending.isEmpty)

/-- The translations that operations under way hold of a page lead to its new frame: an access that the move has stalled reaches the
new copy (R331, R352). -/
def State.retarget (s : State) (c va n : Nat) (l : Leaf) : State :=
  let turn (q : List (Nat × Leaf)) : List (Nat × Leaf) :=
    q.map (fun e => if va ≤ e.1 * 65536 && e.1 * 65536 < va + n then (e.1, l) else e)
  { s with
    groups := s.groups.map (fun p => (p.1, if s.ctxOf p.2.launch = c then
      { p.2 with ops := p.2.ops.map (fun o => { o with leaves := turn o.leaves }) } else p.2))
    tiles := s.tiles.map (fun p => (p.1, if s.ctxOf p.2.launch = c then
      { p.2 with flight := p.2.flight.map (fun e => { e with leaves := turn e.leaves }) } else p.2))
    shards := s.shards.map (fun h => if h.ctx = c then { h with leaves := turn h.leaves } else h) }

/-- The page is moved to a frame: copied with its stamps, FRAME and HOME rewritten, the old translation invalidated, the old
frame freed with record kind 5, whose ARG is the die that asked, or the target of a MOVE (R328, R331; log entry 91). -/
def State.movePage (s : State) (id_ : Nat) (m : Move) (l : Leaf) (frame : Nat) : State :=
  let n := 2 ^ l.log
  let home := match dramDie frame with | some d => d | none => l.home
  let e := l.value - bits l.value 16 40 * 2 ^ 16 - l.home * 2 ^ 56 + frame / 65536 * 2 ^ 16 + home * 2 ^ 56
  (((((s.carryPage l.frame frame n).setLeaf l e).dropHeld m.ctx m.va n).retarget m.ctx m.va n { l with value := e }).request m.ctx (ReqRec.mk 5 m.target l.frame 0)).endMove id_ m 1
/-- A move that meets a unit of the page that is lost stops: the page stays, the PGREQ that asked ends failed, and a MOVE is answered 3
(R385; log entry 92). -/
def State.failMove (s : State) (id_ : Nat) (m : Move) (a : Nat) : State :=
  match m.op with
  | some r => { s with moves := Sparse.erase s.moves id_ }.failOp r a
  | none => s.endMove id_ m 3

/-- PAGE_MOVE: a granted move takes a frame of its target's pool, or asks for one (kind 4), and carries the page over once
nothing holds it (R331). -/
def State.pageMove (s : State) (id_ : Nat) : Option State :=
  match Sparse.find? s.moves id_ with
  | none => none
  | some m =>
    match (if m.granted then s.leafAt m.ctx m.va else none) with
    | none => none
    | some l =>
      if !l.bit 2 then none
      else match s.badSpan m.ctx m.va (2 ^ l.log) true with
      | some a => some (s.failMove id_ m a)
      | none =>
      if m.target = 4 then
        (match m.frame with
         | some fr => if s.pageBusy m.ctx m.va l then none else some (s.movePage id_ m l fr)
         | none => none)
      else match (s.die m.target).frames.find? (fun fr => fr % 2 ^ l.log == 0) with
        | none =>
          if m.posted then none
          else some (({ s with moves := Sparse.set s.moves id_ { m with posted := true } }).request m.ctx
            (ReqRec.mk 4 m.target m.va 0))
        | some fr =>
          if s.pageBusy m.ctx m.va l then none
          else
            let x := s.die m.target
            some ((s.setDie m.target { x with frames := x.frames.erase fr }).movePage id_ m l fr)
/-- PAGE_MOVE (R331). -/
def execPageMove (move : Nat) (s : State) : Host.Outcome State Fault Refusal := whenEnabled "PAGE_MOVE" (s.pageMove move)

/-- The pages of a range as their leaves give them, each once; unmapped pages stand for themselves. -/
def State.movePages (s : State) (c va len : Nat) : List Nat :=
  nubNat ((pagesOf va len).map (fun p => match s.leafAt c p with | some l => l.page p | none => p))
/-- MOVE: every page of the range is a request on behalf of the host (R327, R331). -/
def State.moveCmd (s : State) (c : Nat) : Option State :=
  s.command c 5 (fun m => m.arg ≤ 4 && m.paged && s.coversWhole c m.va m.len) (fun s m =>
    let ps := s.movePages c m.va m.len
    if ps.isEmpty then some (s.answer m.done 0)
    else
      let id_ := s.nextId
      let s1 := ({ s with nextId := id_ + 1 }).updCtx c (fun x =>
        { x with pend := x.pend ++ [PendCmd.mk 5 0 id_ ps.length m.done] })
      some (ps.foldl (fun s p => s.addMove (Move.mk c p m.arg none (some id_) false false none)) s1))
/-- MOVE (R331). -/
def execMove (ctx : Nat) (s : State) : Host.Outcome State Fault Refusal := whenEnabled "MOVE" (s.moveCmd ctx)

/-- FRAMES: frames listed at VA join a die's pool (R327). -/
def State.addFrames (s : State) (c : Nat) : Option State :=
  s.command c 6 (fun m => m.arg ≤ 3 && m.va % 8 == 0 && 1 ≤ m.len && m.len ≤ 65536) (fun s m =>
    let readable := (s.spanFailures c m.va (8 * m.len) .read none none).isEmpty
    let l := (List.range m.len).map (fun k => s.vnum c (m.va + 8 * k) 8)
    if !readable || !(l.all (fun fr => fr % 65536 == 0 && dramDie fr == some m.arg)) then some (s.answer m.done 0xFF)
    else
      let x := s.die m.arg
      some ((s.setDie m.arg { x with frames := x.frames ++ l }).answer m.done 0))
/-- FRAMES (R327). -/
def execFrames (ctx : Nat) (s : State) : Host.Outcome State Fault Refusal := whenEnabled "FRAMES" (s.addFrames ctx)

/-! ### RESOLVE (R327, R328, R331) -/

/-- A move of a page to the host that waits for its frame. -/
def State.hostMove? (s : State) (c va : Nat) : Option (Nat × Move) :=
  List.find? (fun (p : Nat × Move) => p.2.ctx == c && p.2.va == va && p.2.target == 4 && p.2.granted && p.2.frame.isNone)
    s.moves
/-- A RESOLVE is well formed (R327). -/
def State.resolveOk (s : State) (c : Nat) (m : Cmd) : Bool :=
  let log := match s.leafAt c m.va with | some l => l.log | none => 16
  (m.arg == 0 || m.arg == 3) && m.va % 2 ^ log == 0 &&
    (if m.arg == 0 && (s.hostMove? c m.va).isSome then inSystem m.len && m.len % 2 ^ log == 0 else m.len == 0)
/-- The request for a page is answered: PGREQs that wait for its residency, and moves that do (R328). -/
def State.answerResidency (s : State) (c va status : Nat) : State :=
  let s1 := s.updCtx c (fun x => { x with asked := x.asked.filter (· != va) })
  let moving (r : OpRef) : Bool := s1.moves.any (fun p => p.2.op == some r && p.2.va == va && !p.2.posted)
  let refs := s1.groups.flatMap (fun p =>
    if s1.ctxOf p.2.launch = c then (p.2.ops.map (fun o => OpRef.mk p.1 o.id)).filter (fun r => !moving r) else [])
  let s2 := refs.foldl (fun s r => s.answerPage r va status) s1
  (s2.moves.filter (fun p => p.2.ctx == c && p.2.va == va && p.2.posted && !p.2.granted)).foldl
    (fun s p => s.endMove p.1 p.2 status) s2
/-- The frame a refused move was to take is not counted as a move (R332). -/
def State.forgetMove (s : State) (m : Move) : State :=
  match s.leafAt m.ctx m.va with
  | some _ => let h := s.hist m.ctx m.va; s.setHist m.ctx m.va { h with moves := h.moves.dropLast }
  | none => s

/-- RESOLVE: answers the residency request or the host move of a page (R327, R331). -/
def State.resolve (s : State) (c : Nat) : Option State :=
  s.command c 4 (s.resolveOk c) (fun s m =>
    match s.hostMove? c m.va with
    | some (id_, mv) =>
      if m.arg = 0 then
        some ({ s with moves := Sparse.set s.moves id_ { mv with frame := some m.len } }.answer m.done 0)
      else some (((s.forgetMove mv).endMove id_ mv 3).answer m.done 0)
    | none => some ((s.answerResidency c m.va m.arg).answer m.done 0))
/-- RESOLVE (R327). -/
def execResolve (ctx : Nat) (s : State) : Host.Outcome State Fault Refusal := whenEnabled "RESOLVE" (s.resolve ctx)

end Sys2Proof.Machine
end

