-- ==== Sys2Proof/Machine/Neighbour.lean ====
section
/-!
DEFINITION. Neighbour lists: grid descriptors, NLBIN, NLSWEEP and NLSTAT, and the steps of the die's engines (R209 to R214,
R296 to R304).
-/
namespace Sys2Proof.Machine

/-! ### Exact values (R211, R212): finite FP32 numbers in units of 2^-149 -/

/-- The exact value of an FP32 code, none for NaN and ±∞. -/
def fxOf (code : Nat) : Option Int :=
  match fmtF32.decode code with
  | .fin neg m e _ => some (let v : Int := ((m * 2 ^ (e + 149).toNat : Nat) : Int); if neg then -v else v)
  | _ => none
/-- Round(f32, ·, rn) of an exact value of `i` × 2^-`k`. -/
def rndFx (k : Nat) (i : Int) : Nat := (fmtF32.round 0 (.fin (decide (i < 0)) i.natAbs (-(k : Int)) false)).1

/-! ### Grid descriptors (R209, R210) -/

/-- The grid in the 128 bytes of a descriptor (R209). -/
def gridOf (l : List Byte) : Grid :=
  Grid.mk ((List.range 3).map (fun a => numAt l (4 * a) 4)) ((List.range 3).map (fun a => numAt l (0x0C + 4 * a) 4))
    (numAt l 0x18 4) ((List.range 3).map (fun a => numAt l (0x1C + 2 * a) 2)) (numAt l 0x22 2) (numAt l 0x24 4)
    (numAt l 0x28 4) (numAt l 0x2C 4) (numAt l 0x30 8) (numAt l 0x38 8) (numAt l 0x40 8)
/-- An axis is periodic. -/
def Grid.per (g : Grid) (a : Nat) : Bool := bitAt g.mode a
/-- A full list, not a half list. -/
def Grid.full (g : Grid) : Bool := bitAt g.mode 3
/-- ORIGIN of an axis, exactly. -/
def Grid.o (g : Grid) (a : Nat) : Int := (fxOf (g.origin.getD a 0)).getD 0
/-- *L* of an axis, exactly. -/
def Grid.side (g : Grid) (a : Nat) : Int := (fxOf (g.box.getD a 0)).getD 0
/-- NCELL of an axis. -/
def Grid.n (g : Grid) (a : Nat) : Nat := g.ncell.getD a 1
/-- Cells in all. -/
def Grid.cells (g : Grid) : Nat := g.n 0 * g.n 1 * g.n 2
/-- *Y* (R210). -/
def Grid.copyOff (g : Grid) : Nat := 16 * ((16 + 4 * g.cap + 15) / 16)
/-- *Z* (R210). -/
def Grid.stride (g : Grid) : Nat := 128 * ((g.copyOff + 16 * g.cap + 127) / 128)

/-- The limits of R209. -/
def gridOk (l : List Byte) : Bool :=
  let g := gridOf l
  let pos (c : Nat) : Bool := match fxOf c with | some v => 0 < v | none => false
  let reach := (fxOf g.rc).getD 0 + (fxOf g.skin).getD 0
  g.origin.all (fun c => (fxOf c).isSome) && g.box.all pos && bits g.mode 4 28 == 0 &&
    g.ncell.all (fun n => 1 ≤ n && n ≤ 1024) && 8 ≤ g.cap && g.cap ≤ 256 && pos g.rc &&
    (match fxOf g.skin with | some v => decide (0 ≤ v) | none => false) && 1 ≤ g.npart && g.npart ≤ 2 ^ 28 &&
    g.pos % 16 == 0 && g.bins % 128 == 0 && g.status % 64 == 0 && numAt l 0x48 56 == 0 &&
    (List.range 3).all (fun a => reach * (g.n a : Int) ≤ g.side a && (!g.per a || 3 ≤ g.n a))

/-- The three ranges of a command: positions, bin area, status (R296). -/
def Grid.ranges (g : Grid) : List (Nat × Nat) :=
  [(g.pos, 16 * g.npart), (g.bins, g.cells * g.stride), (g.status, 64)]
/-- They are pairwise disjoint. -/
def Grid.disjoint (g : Grid) : Bool :=
  match g.ranges with
  | [a, b, c] => !meets a.1 a.2 b.1 b.2 && !meets a.1 a.2 c.1 c.2 && !meets b.1 b.2 c.1 c.2
  | _ => false

/-- The failing checks of a command (R151, R296); the bin area is written by NLBIN and read by NLSWEEP. Uncorrectable data is no
check of issue: the command ends with it (R385). The DESCRIPTOR for ranges that overlap is given after checks 1 to 6 of the ranges, in
the order in which R296 lists the two; the one for BINNED clear once every page check has passed, since only then can STATE be read: its
place among the checks is not stated (R212; DESIGN CHOICE, log entry 85). -/
def State.gridFailures (s : State) (x : Group) (a : Nat) (sweep : Bool) : List Failure :=
  let c := s.ctxOf x.launch
  let bad : List Failure := [failure 2 0x0F a none]
  let page := atIssue (s.spanFailures c a 128 .read none none)
  if a % 128 != 0 then page.filter (fun e => e.order < 2) ++ bad
  else if !page.isEmpty || (s.descBad x.core c pathLay a 128).isSome then page
  else
    let l := s.cachedRead x.core c pathLay a 128
    let g := gridOf l
    if !gridOk l then bad
    else
      let rest := atIssue (s.spanFailures c g.pos (16 * g.npart) .read none none ++
        s.spanFailures c g.bins (g.cells * g.stride) (if sweep then .read else .write) (if sweep then none else some false) none ++
        s.spanFailures c g.status 64 .write (some false) none)
      if !rest.isEmpty then rest
      else if !g.disjoint || (sweep && !s.spoiled c g.status 64 && !bitAt (s.vnum c g.status 4) 0) then bad
      else []

/-- A command reaches the die's engines (R213). -/
def State.enterNeigh (s : State) (d : Nat) (r : OpRef) (desc : Nat) : State :=
  let x := s.die d
  s.setDie d { x with neigh := x.neigh ++ [(r, desc)] }
/-- It leaves them. -/
def State.leaveNeigh (s : State) (d : Nat) (r : OpRef) : State :=
  let x := s.die d
  s.setDie d { x with neigh := x.neigh.filter (fun p => p.1 != r) }
/-- No earlier command names its descriptor (R213). -/
def State.neighTurn (s : State) (d : Nat) (r : OpRef) : Bool :=
  let l := (s.die d).neigh.filter (fun p => (s.opAt? p.1).isSome)
  match l.find? (fun p => p.1 == r) with
  | some q => !((l.takeWhile (fun p => p.1 != r)).any (fun p => p.2 == q.2))
  | none => false

/-- NLBIN and NLSWEEP leave issue, and act as an acquire at SCOPE (R211 to R213, R296); a descriptor whose data is lost ends the
command failed (R385). -/
def State.neighIssue (s : State) (i : Issue) (g : Nat) (x : Group) (f : EFmt) (sweep : Bool) : State :=
  let c := s.ctxOf x.launch
  let a := (x.rs f.sa.toNat).toNat
  let bank := f.imm.toNat % 32
  let b := (s.core x.core).bank bank
  if !x.uniformOn f.g i.active then s.complete i g x
  else if sweep && b.switching then s.stall g (.bank x.core bank)
  else s.counted g x .cp (
    match firstFailure ((if sweep && b.mode != .fifo then wrote true [failure 1 0x0E 0 none] else []) ++ s.gridFailures x a sweep) with
    | some e => s.failFor i g e (leadMask i.active)
    | none => match s.descBad x.core c pathLay a 128 with
      | some b => s.complete i g ((x.issueOp i.instr .cp (leadMask i.active) [] [] [] .idle).metBad (some b))
      | none =>
        let gr := gridOf (s.cachedRead x.core c pathLay a 128)
        let r := OpRef.mk g x.nextOp
        let w : Work := if sweep then .sweep gr bank (List.range gr.cells) [] 0 none else .bin gr
        let s1 := (((s.hold c a 128).cacheFill x.core c pathLay a 128).acquire x.core f.scope.toNat).complete i g
          (((x.issueOp i.instr .cp (leadMask i.active) [] [x.rs f.sa.toNat] [] w).pin s ((a, 128) :: gr.ranges)).aim
            (if sweep then [(x.core, bank)] else []))
        let s2 := (gr.ranges.foldl (fun s p => s.hold c p.1 p.2) s1).enterNeigh (dieOf x.core) r ((s.pa? c a).getD 0)
        if sweep then s2.askLease (dieOf x.core) r else s2)

/-- NLBIN (R211). -/
def execNlbin (f : EFmt) (s : State) : Host.Outcome State Fault Refusal :=
  withGroup s (fun i g x => s.neighIssue i g x f false)
/-- NLSWEEP (R212). -/
def execNlsweep (f : EFmt) (s : State) : Host.Outcome State Fault Refusal :=
  withGroup s (fun i g x => s.neighIssue i g x f true)

/-- NLSTAT reads STATE and OUTSIDE of the status record that the descriptor names, as an acquire at .die (R214). -/
def execNlstat (f : EFmt) (s : State) : Host.Outcome State Fault Refusal :=
  withGroup s (fun i g x =>
    let c := s.ctxOf x.launch
    let a := wrap64 ((x.rs f.sa.toNat).toNat + 0x40)
    if !x.uniformOn f.g i.active then s.complete i g x
    else match firstFailure (s.spanFailures c a 8 .read none none ++ s.cacheFailures x.core c pathLay a 8 none) with
      | some e => s.failFor i g e (leadMask i.active)
      | none =>
        let st := ofLe (s.cachedRead x.core c pathLay a 8)
        match firstFailure (s.spanFailures c st 8 .read none none) with
        | some e => s.failFor i g e (leadMask i.active)
        | none =>
          ((((s.hold c a 8).cacheFill x.core c pathLay a 8).hold c st 8).acquire x.core 3).complete i g
            (x.ws f.sd.toNat (BitVec.ofNat 64 (s.vnum c st 8))))

/-! ### Positions (R211, R297, R300) -/

/-- The wrapped coordinate of an axis: code and exact value; none where it is not finite (R211, R297). -/
def Grid.wrapped (g : Grid) (a code : Nat) : Option (Nat × Int) :=
  match fxOf code with
  | none => none
  | some v =>
    if !g.per a then some (code, v)
    else
      let o := g.o a
      let w := rndFx 149 (v - g.side a * ((v - o) / g.side a))
      match fxOf w with
      | none => none
      | some u => if u = o + g.side a then some (g.origin.getD a 0, o) else some (w, u)
/-- The coordinates of a position record, wrapped; none if any is not finite. -/
def Grid.place (g : Grid) (rec : List Byte) : Option (List (Nat × Int)) :=
  (List.range 3).mapM (fun a => g.wrapped a (numAt rec (4 * a) 4))
/-- A particle inside the grid: its cell (R211). -/
def Grid.cellOf (g : Grid) (p : List (Nat × Int)) : Option Nat :=
  let v (a : Nat) : Int := (p.getD a (0, 0)).2
  if (List.range 3).any (fun a => !g.per a && (v a < g.o a || g.o a + g.side a ≤ v a)) then none
  else
    let i (a : Nat) : Nat := min (g.n a - 1) (((v a - g.o a) * (g.n a : Int)) / g.side a).toNat
    some (i 0 + g.n 0 * (i 1 + g.n 1 * i 2))
/-- A position record of the array (R209). -/
def State.posRec (s : State) (c : Nat) (g : Grid) (i : Nat) : List Byte := s.vread c (wrap64 (g.pos + 16 * i)) 16

/-! ### Binning (R211, R297, R303) -/

/-- Every particle that lies inside: index, cell, and the 16 bytes of its wrapped copy. -/
def State.binned (s : State) (c : Nat) (g : Grid) : List (Nat × Nat × List Byte) :=
  (List.range g.npart).filterMap (fun i =>
    let r := s.posRec c g i
    match g.place r with
    | none => none
    | some p => (g.cellOf p).map (fun k => (i, k, p.flatMap (fun q => leBytes 4 q.1) ++ (r.drop 12).take 4)))
/-- One cell record written (R210, R297). -/
def State.writeCell (s : State) (c : Nat) (g : Grid) (k : Nat) (l : List (Nat × List Byte)) : State :=
  let st := l.take g.cap
  let base := wrap64 (g.bins + k * g.stride)
  let past := decide (g.cap < l.length)
  ((s.vwrite c base (leBytes 4 st.length ++ leBytes 4 (min l.length (2 ^ 32 - 1)) ++ leBytes 4 (if past then 1 else 0) ++
    leBytes 4 0)).vwrite c (wrap64 (base + 16)) (st.flatMap (fun p => leBytes 4 p.1))).vwrite c (wrap64 (base + g.copyOff))
    (st.flatMap (·.2))
/-- The spans of a cell record that hold something: the header, and `n` slots and copies; what lies beyond keeps its bytes and is never
read (R210, R297). -/
def Grid.cellSpans (g : Grid) (k n : Nat) : List (Nat × Nat) :=
  let base := wrap64 (g.bins + k * g.stride)
  [(base, 16), (wrap64 (base + 16), 4 * n), (wrap64 (base + g.copyOff), 16 * n)]
/-- The 64 bytes of a status record (R210). -/
def statusBytes (state outside nover cell pairs part : Nat) : List Byte :=
  leBytes 4 state ++ leBytes 4 outside ++ leBytes 4 nover ++ leBytes 4 cell ++ leBytes 8 pairs ++ leBytes 4 part ++
    List.replicate 36 0
/-- The value 0xFFFF_FFFF. -/
def none32 : Nat := 0xFFFFFFFF

/-- NLBIN_COMPLETE: every cell record and the status record are written (R211, R303). -/
def State.nlbinComplete (s : State) (g n : Nat) : Option State :=
  let r := OpRef.mk g n
  match s.opAt? r with
  | none => none
  | some (x, o) =>
    match o.work with
    | .bin gr =>
      let c := s.ctxOf x.launch
      let d := dieOf x.core
      if !s.neighTurn d r then none
      else
        let l := s.binned c gr
        let of_ (k : Nat) : List (Nat × List Byte) := (l.filter (fun p => p.2.1 == k)).map (fun p => (p.1, p.2.2))
        let out := (gr.status, 64) :: (List.range gr.cells).flatMap (fun k => gr.cellSpans k (min gr.cap (of_ k).length))
        match s.badSpan c gr.pos (16 * gr.npart) true, s.badIn c out false with
      | some b, _ | none, some b => some ((s.failOp r b).leaveNeigh d r)
      | none, none =>
        let past := ((List.range gr.cells).filter (fun k => gr.cap < (of_ k).length)).length
        let s1 := (List.range gr.cells).foldl (fun s k => s.writeCell c gr k (of_ k)) s
        let s2 := s1.vwrite c gr.status
          (statusBytes (1 + if past = 0 then 0 else 4) (gr.npart - l.length) past none32 0 none32)
        some (((s2.healAll c out).finishOp r).leaveNeigh d r)
    | _ => none
/-- NLBIN_COMPLETE (R211). -/
def execNlbinComplete (group op : Nat) (s : State) : Host.Outcome State Fault Refusal :=
  whenEnabled "NLBIN_COMPLETE" (s.asOp group op (fun s => s.nlbinComplete group op))

/-! ### Sweeping (R212, R298, R300 to R302) -/

/-- The stencil offsets (dz, dy, dx) in visiting order (R298). -/
def Grid.stencil (g : Grid) : List (Int × Int × Int) :=
  let r : List Int := [-1, 0, 1]
  let all := r.flatMap (fun z => r.flatMap (fun y => r.map (fun x => (z, y, x))))
  if g.full then all else (0, 0, 0) :: all.drop 14
/-- The cell at an offset, none outside a non-periodic axis (R212). -/
def Grid.neighbour (g : Grid) (k : Nat) (d : Int × Int × Int) : Option Nat :=
  let at_ (a : Nat) (i : Nat) (o : Int) : Option Nat :=
    let v := (i : Int) + o
    if g.per a then some (v % (g.n a : Int)).toNat
    else if 0 ≤ v && v < (g.n a : Int) then some v.toNat else none
  match at_ 0 (k % g.n 0) d.2.2, at_ 1 (k / g.n 0 % g.n 1) d.2.1, at_ 2 (k / (g.n 0 * g.n 1)) d.1 with
  | some x, some y, some z => some (x + g.n 0 * (y + g.n 1 * z))
  | _, _, _ => none
/-- The particles a cell record stores, with their copies; slots at or above NPART are skipped (R213). -/
def State.stored (s : State) (c : Nat) (g : Grid) (k : Nat) : List (Nat × List (Option Int)) :=
  let base := wrap64 (g.bins + k * g.stride)
  (List.range (min (s.vnum c base 4) g.cap)).filterMap (fun j =>
    let i := s.vnum c (wrap64 (base + 16 + 4 * j)) 4
    if i < g.npart then
      some (i, (List.range 3).map (fun a => fxOf (s.vnum c (wrap64 (base + g.copyOff + 16 * j + 4 * a)) 4)))
    else none)
/-- The minimum-image value of a difference on an axis. -/
def Grid.minImage (g : Grid) (a : Nat) (d : Int) : Int :=
  if g.per a then d - g.side a * ((2 * d + g.side a) / (2 * g.side a)) else d
/-- A particle is stale: its squared minimum-image displacement exceeds (SKIN/2)², or it is not finite (R212, R300). -/
def Grid.stale (g : Grid) (now : Option (List (Nat × Int))) (copy : List (Option Int)) : Bool :=
  match now, copy.mapM id with
  | some p, some q =>
    let d (a : Nat) : Int := g.minImage a ((p.getD a (0, 0)).2 - q.getD a 0)
    let sk := (fxOf g.skin).getD 0
    sk * sk < 4 * (d 0 * d 0 + d 1 * d 1 + d 2 * d 2)
  | _, _ => true
/-- A displacement component: code and image (R212). -/
def Grid.shift (g : Grid) (a : Nat) (xi xj : Int) : Nat × Nat :=
  let d := rndFx 149 (xj - xi)
  match fxOf d with
  | none => (d, 0)
  | some v =>
    if g.per a && g.side a < 2 * v then (rndFx 149 (v - g.side a), 3)
    else if g.per a && 2 * v < -(g.side a) then (rndFx 149 (v + g.side a), 1)
    else (d, 0)
/-- The pair record of two particles, none when they are not closer than the cut-off (R212). -/
def Grid.pair (g : Grid) (i j : Nat) (pi pj : List (Nat × Int)) (ti tj : Nat) : Option (List Byte) :=
  let u (a : Nat) : Nat × Nat := g.shift a (pi.getD a (0, 0)).2 (pj.getD a (0, 0)).2
  match fxOf (u 0).1, fxOf (u 1).1, fxOf (u 2).1 with
  | some x, some y, some z =>
    let dsq := rndFx 298 (x * x + y * y + z * z)
    let rc := (fxOf g.rc).getD 0
    if (fmtF32.decode dsq).cmp (fmtF32.decode (rndFx 298 (rc * rc))) = .lt then
      some (leBytes 4 i ++ leBytes 4 j ++ leBytes 4 (u 0).1 ++ leBytes 4 (u 1).1 ++ leBytes 4 (u 2).1 ++ leBytes 4 dsq ++
        leBytes 4 ((u 0).2 + 4 * (u 1).2 + 16 * (u 2).2) ++ leBytes 4 (ti % 256 + 256 * (tj % 256)))
    else none
  | _, _, _ => none

/-- What a visit to a cell finds: the stale particles, or the pair records in order (R212). -/
def State.visitCell (s : State) (c : Nat) (g : Grid) (k : Nat) : List Nat × List (List Byte) :=
  let cells := g.stencil.filterMap (g.neighbour k)
  let stored := cells.map (fun q => (q, s.stored c g q))
  let now (i : Nat) : Option (List (Nat × Int)) := g.place (s.posRec c g i)
  let type (i : Nat) : Nat := numAt (s.posRec c g i) 12 4
  let bad := nubNat (stored.flatMap (fun q => (q.2.filter (fun p => g.stale (now p.1) p.2)).map (·.1)))
  let mine := s.stored c g k
  let recs := stored.flatMap (fun q => (mine.mapIdx (fun a p => (a, p.1))).flatMap (fun p =>
    (q.2.mapIdx (fun b p => (b, p.1))).filterMap (fun r =>
      if q.1 = k && (if g.full then p.1 == r.1 else r.1 ≤ p.1) then none
      else match now p.2, now r.2 with
        | some u, some v => g.pair p.2 r.2 u v (type p.2) (type r.2)
        | _, _ => none)))
  if bad.isEmpty then ([], recs) else (bad, [])

/-- Where the data that a visit reads cannot be delivered: headers, slots and copies below COUNT, current positions (R296, R297). -/
def State.visitBad (s : State) (c : Nat) (g : Grid) (k : Nat) : Option Nat :=
  (g.stencil.filterMap (g.neighbour k)).findSome? (fun q =>
    let base := wrap64 (g.bins + q * g.stride)
    match s.badSpan c base 16 true with
    | some b => some b
    | none => match s.badIn c (g.cellSpans q (min (s.vnum c base 4) g.cap)) true with
      | some b => some b
      | none => s.badIn c ((s.stored c g q).map (fun p => (wrap64 (g.pos + 16 * p.1), 16))) true)

/-- The engines that share a sweep: one with ORD, else the four of the die (R213). -/
def sweepEngines (f : EFmt) : Nat := if f.ext = 1 then 1 else 4
/-- The lower of two stale finds, cell and particle each (R210, R213). -/
def staleMin (o : Option (Nat × Nat)) (cell part : Nat) : Option (Nat × Nat) :=
  match o with
  | some q => some (min q.1 cell, min q.2 part)
  | none => some (cell, part)
/-- NLSWEEP_CELL_VISIT: an engine starts a cell, the next one with ORD; or tests it, and a stale particle stops the start of others;
or pushes its next record, in its turn at the bank (R212, R213, R259). -/
def State.nlsweepVisit (s : State) (g n cell : Nat) : Option State :=
  let r := OpRef.mk g n
  match s.opAt? r with
  | none => none
  | some (x, o) =>
    match o.work, enFmt? o.instr with
    | .sweep gr bank left out pairs stale, some f =>
      let c := s.ctxOf x.launch
      let d := dieOf x.core
      let me : Producer := .op g n
      let done (s : State) (out : List (Nat × Option (List (List Byte)))) : State :=
        (if out.isEmpty then s.leaveLine x.core bank me else s).setWork r (.sweep gr bank left out pairs stale)
      if !s.neighTurn d r || !(s.die d).granted.contains (.op r) then none
      else match out.find? (fun e => e.1 == cell) with
        | some (_, some []) => some (done s (out.filter (fun e => e.1 != cell)))
        | some (_, some (b :: rest)) =>
          if s.mayPush x.core bank me then
            let s1 := s.pushRecord x.core bank b
            some (done s1 (if rest.isEmpty then out.filter (fun e => e.1 != cell)
              else out.map (fun e => if e.1 = cell then (cell, some rest) else e)))
          else if ((s.core x.core).bank bank).line.contains me then none
          else some (s.joinLine x.core bank me)
        | some (_, none) => (match s.visitBad c gr cell with
          | some b => some ((s.failOp r b).leaveNeigh d r)
          | none =>
            let (bad, recs) := s.visitCell c gr cell
            let put (l : List Nat) (o : List (Nat × Option (List (List Byte)))) (p : Nat) (st : Option (Nat × Nat)) : State :=
              s.setWork r (.sweep gr bank l o p st)
            some (match least bad with
              | some p => put [] (out.filter (fun e => e.1 != cell)) pairs (staleMin stale cell p)
              | none => put left (out.map (fun e => if e.1 = cell then (cell, some recs) else e)) (pairs + recs.length) stale))
        | none =>
          if !left.contains cell || (f.ext = 1 && left.head? != some cell) || sweepEngines f ≤ out.length then none
          else some (s.setWork r (.sweep gr bank (left.erase cell) (out ++ [(cell, none)]) pairs stale))
    | _, _ => none
/-- NLSWEEP_CELL_VISIT (R212). -/
def execNlsweepCellVisit (group op cell : Nat) (s : State) : Host.Outcome State Fault Refusal :=
  whenEnabled "NLSWEEP_CELL_VISIT" (s.asOp group op (fun s => s.nlsweepVisit group op cell))

/-- NLSWEEP_END: the final status is written and the end record is pushed (R212, R303). -/
def State.nlsweepEnd (s : State) (g n : Nat) : Option State :=
  let r := OpRef.mk g n
  match s.opAt? r with
  | none => none
  | some (x, o) =>
    match o.work with
    | .sweep gr bank [] [] pairs stale =>
      let c := s.ctxOf x.launch
      let d := dieOf x.core
      let b := (s.core x.core).bank bank
      let me : Producer := .op g n
      match s.badSpan c gr.status 64 true with
      | some e => if s.neighTurn d r then some ((s.failOp r e).leaveNeigh d r) else none
      | none =>
      if !s.neighTurn d r then none
      else if !s.mayPush x.core bank me then (if b.line.contains me then none else some (s.joinLine x.core bank me))
      else
        let old := s.vnum c gr.status 4
        let outside := s.vnum c (gr.status + 4) 4
        let nover := s.vnum c (gr.status + 8) 4
        let past := bitAt old 2
        let st := (if bitAt old 0 then 1 else 0) + 2 + (if past then 4 else 0) + (if stale.isSome then 8 else 0) +
          (if past || stale.isSome then 16 else 0)
        let cell := match stale with | some q => q.1 | none => none32
        let part := match stale with | some q => q.2 | none => none32
        let s1 := s.vwrite c gr.status (statusBytes st outside nover cell pairs part)
        let endRec := leBytes 4 none32 ++ leBytes 4 st ++ leBytes 4 nover ++ leBytes 4 cell ++ leBytes 8 pairs ++
          leBytes 4 outside ++ leBytes 4 0x80000000
        some ((((s1.pushRecord x.core bank endRec).leaveLine x.core bank me).finishOp r).leaveNeigh d r)
    | _ => none
/-- NLSWEEP_END (R212). -/
def execNlsweepEnd (group op : Nat) (s : State) : Host.Outcome State Fault Refusal :=
  whenEnabled "NLSWEEP_END" (s.asOp group op (fun s => s.nlsweepEnd group op))

end Sys2Proof.Machine
end

