-- ==== Sys2Proof/Machine/Kv.lean ====
section
/-!
DEFINITION. The KV table: KVX, KVINS, KVREF and the atomic step at the header's home, with its audits (R215 to R217, R373,
R391).
-/
namespace Sys2Proof.Machine

/-- A KV header in 64 bytes keeps its limits (R215). BSIZE = 0, a multiple of 128 too, is refused as well: the spec does not say
that a block may be empty, and its first 64 bytes hold tokens (DESIGN CHOICE, log entry 82). -/
def kvOk (l : List Byte) : Bool :=
  let e := numAt l 8 4
  let z := numAt l 0x0C 4
  numAt l 0 8 % 128 == 0 && 64 ≤ e && e ≤ 2 ^ 24 && 2 ^ Nat.log2 e == e && z != 0 && z % 128 == 0 && numAt l 0x1C 36 == 0
/-- The failing checks of a KV instruction: the whole table, header, entries and heads, before it leaves issue, and for KVINS and
KVREF as a write; KVX is checked as a read, although an audit writes AUDITS (R151, R216; DESIGN CHOICE, log entry 83). -/
def State.kvFailures (s : State) (c h : Nat) (write : Bool) : List Failure :=
  atIssue (s.descFailures c h 64 kvOk (fun l =>
    let n := 0x40 + 20 * numAt l 8 4
    if write then s.updateFailures c h n none else s.spanFailures c h n .read none none))

/-- A table in the midst of a step: the state, its context, header, E, and the audits so far (entry and reason). -/
structure Kv where
  s   : State
  c   : Nat
  h   : Nat
  e   : Nat
  aud : List (Nat × Nat)

/-- An end of a list (R215). -/
def kvEnd : Nat := 0xFFFFFFFF
/-- An n32 or n16 of the table. -/
def Kv.get (k : Kv) (off n : Nat) : Nat := k.s.vnum k.c (wrap64 (k.h + off)) n
/-- That written. -/
def Kv.put (k : Kv) (off n v : Nat) : Kv := { k with s := k.s.vsetNum k.c (wrap64 (k.h + off)) n v }
/-- Offset of entry `p`. -/
def kvEnt (p : Nat) : Nat := 0x40 + 16 * p
/-- Offset of the head of bucket `b`'s overflow chain. -/
def Kv.ovf (k : Kv) (b : Nat) : Nat := 0x40 + 16 * k.e + 4 * b
/-- An audit event. -/
def Kv.audit (k : Kv) (entry reason : Nat) : Kv := { k with aud := k.aud ++ [(entry, reason)] }
/-- FLAGS of an entry. -/
def Kv.flags (k : Kv) (p : Nat) : Nat := k.get (kvEnt p + 10) 2
/-- An entry is VALID. -/
def Kv.valid (k : Kv) (p : Nat) : Bool := bitAt (k.flags p) 0
/-- An entry is PINNED. -/
def Kv.pinned (k : Kv) (p : Nat) : Bool := bitAt (k.flags p) 1
/-- A link at an offset, held by entry `holder`: one out of range counts as an end, with an audit of reason 4 (R216). -/
def Kv.link (k : Kv) (off holder : Nat) : Nat × Kv :=
  let v := k.get off 4
  if v < k.e || v = kvEnd then (v, k) else (kvEnd, k.audit holder 4)
/-- The bucket of a key (R215). -/
def Kv.bucket (k : Kv) (seq lblk : Nat) : Nat := (seq * 64 + lblk * 5) % k.e
/-- The window of a bucket, in order (R215, R216). -/
def Kv.window (k : Kv) (b : Nat) : List Nat := (List.range 8).map (fun r => (b + r) % k.e)
/-- An entry is VALID and has the key. -/
def Kv.hits (k : Kv) (seq lblk p : Nat) : Bool := k.valid p && k.get (kvEnt p) 4 == seq && k.get (kvEnt p + 4) 4 == lblk

/-- The device does not read the LINK of a VALID entry with OVF = 0 (R373): such an entry ends a walk (log entry 88). -/
def Kv.linked (k : Kv) (p : Nat) : Bool := !k.valid p || bitAt (k.flags p) 2
/-- The walk along a chain from entry `q`: what is found, and whether the steps ran out (R216, R373). -/
def Kv.walk (k : Kv) (seq lblk : Nat) : Nat → Nat → Option Nat × Kv
  | 0, q => if q = kvEnd then (none, k) else (none, k.audit kvEnd 3)
  | n + 1, q =>
    if q = kvEnd then (none, k)
    else if k.hits seq lblk q then (some q, k)
    else if !k.linked q then (none, k)
    else
      let (v, k1) := k.link (kvEnt q + 12) q
      k1.walk seq lblk n v
/-- The VALID entry with a key: the window, then the overflow chain (R216). -/
def Kv.find (k : Kv) (seq lblk : Nat) : Option Nat × Kv :=
  let b := k.bucket seq lblk
  match (k.window b).find? (k.hits seq lblk) with
  | some p => (some p, k)
  | none =>
    let (q, k1) := k.link (k.ovf b) kvEnd
    k1.walk seq lblk k.e q

/-- A free entry leaves the free list by its SEQ and LINK (R216). -/
def Kv.unfree (k : Kv) (p : Nat) : Kv :=
  let (prev, k1) := k.link (kvEnt p) p
  let (next, k2) := k1.link (kvEnt p + 12) p
  let k3 := if prev = kvEnd then k2.put 0x10 4 next else k2.put (kvEnt prev + 12) 4 next
  let k4 := if next = kvEnd then k3 else k3.put (kvEnt next) 4 prev
  k4.put 0x14 4 (k4.get 0x14 4 + 2 ^ 32 - 1)
/-- An entry becomes free at the head of the free list (R217). A FREEHEAD out of range is treated as an end here too, with an audit of
reason 4: R216 says so of walks and unlinks (DESIGN CHOICE, log entry 84). -/
def Kv.pushFree (k : Kv) (p : Nat) : Kv :=
  let (head, k1) := k.link 0x10 kvEnd
  let k2 := (k1.put (kvEnt p) 4 kvEnd).put (kvEnt p + 12) 4 head
  let k3 := if head = kvEnd then k2 else k2.put (kvEnt head) 4 p
  (k3.put 0x10 4 p).put 0x14 4 (k3.get 0x14 4 + 1)
/-- The link that names entry `p` on a chain from `q` on is replaced by `next` (R216). -/
def Kv.cut (k : Kv) (p next : Nat) : Nat → Nat → Kv
  | 0, q => if q = kvEnd then k else k.audit kvEnd 3
  | n + 1, q =>
    if q = kvEnd || !k.linked q then k
    else
      let (v, k1) := k.link (kvEnt q + 12) q
      if v = p then k1.put (kvEnt q + 12) 4 next else k1.cut p next n v
/-- An entry with OVF set leaves its overflow chain (R217). -/
def Kv.unchain (k : Kv) (p : Nat) : Kv :=
  if !bitAt (k.flags p) 2 then k
  else
    let o := k.ovf (k.bucket (k.get (kvEnt p) 4) (k.get (kvEnt p + 4) 4))
    let (next, k1) := k.link (kvEnt p + 12) p
    let (head, k2) := k1.link o kvEnd
    let k3 := if head = p then k2.put o 4 next else k2.cut p next k.e head
    k3.put (kvEnt p + 10) 2 (withBit (k3.flags p) 2 false)

/-- A result: the value for V*x*, and whether the flag is 1. -/
structure KvOut where
  w0 : Nat
  w1 : Nat
  ok : Bool

/-- KVX (R216). -/
def Kv.lookup (k : Kv) (seq lblk : Nat) : KvOut × Kv :=
  match k.find seq lblk with
  | (some p, k1) => (KvOut.mk p (k1.get (kvEnt p + 8) 2) true, k1)
  | (none, k1) => (KvOut.mk kvEnd 0 false, k1)
/-- KVINS (R216, R373): a FREEHEAD that names no free entry leaves it with none; a head of the chain that is out of range has had
its audit when the chain was walked. -/
def Kv.insert (k : Kv) (seq lblk : Nat) : KvOut × Kv :=
  match k.find seq lblk with
  | (some p, k1) => (KvOut.mk p 1 false, k1)
  | (none, k1) =>
    let b := k.bucket seq lblk
    let fill (k : Kv) (p fl : Nat) : Kv :=
      (((k.put (kvEnt p) 4 seq).put (kvEnt p + 4) 4 lblk).put (kvEnt p + 8) 2 1).put (kvEnt p + 10) 2 fl
    match (k.window b).find? (fun p => !k1.valid p && !k1.pinned p) with
    | some p => (KvOut.mk p 0 true, fill (k1.unfree p) p 1)
    | none =>
      let (p, k2) := k1.link 0x10 kvEnd
      if p = kvEnd || k2.valid p || k2.pinned p then (KvOut.mk kvEnd 2 false, k2)
      else
        let k3 := k2.unfree p
        let head := (k3.link (k3.ovf b) kvEnd).1
        (KvOut.mk p 0 true, fill ((k3.put (kvEnt p + 12) 4 head).put (k3.ovf b) 4 p) p 5)
/-- An entry is pinned: off its chain or the free list, PINNED set, VALID and OVF clear, REF 0xFFFF (R217). -/
def Kv.pin (k : Kv) (p reason : Nat) : Kv :=
  let k1 := if k.valid p then k.unchain p else k.unfree p
  let fl := withBit (withBit (withBit (k1.flags p) 0 false) 2 false) 1 true
  (((k1.put (kvEnt p + 8) 2 0xFFFF).put (kvEnt p + 10) 2 fl)).audit p reason
/-- KVREF: the first row of R217 that matches. -/
def Kv.ref (k : Kv) (dec : Bool) (p : Nat) : KvOut × Kv :=
  if k.e ≤ p then (KvOut.mk 0 3 false, k)
  else
    let r := k.get (kvEnt p + 8) 2
    let set (v : Nat) : Kv := k.put (kvEnt p + 8) 2 v
    if k.pinned p then (KvOut.mk 0xFFFF 1 false, k)
    else if !dec then
      if !k.valid p then (KvOut.mk r 2 false, k)
      else if r + 1 = 0xFFFF then (KvOut.mk 0xFFFF 0 true, k.pin p 1)
      else (KvOut.mk ((r + 1) % 2 ^ 16) 0 true, set ((r + 1) % 2 ^ 16))
    else if k.valid p && 2 ≤ r then (KvOut.mk (r - 1) 0 true, set (r - 1))
    else if k.valid p && r = 1 then
      let k1 := (set 0).unchain p
      (KvOut.mk 0 0 true, (k1.put (kvEnt p + 10) 2 (withBit (k1.flags p) 0 false)).pushFree p)
    else (KvOut.mk 0xFFFF 1 false, k.pin p 2)

/-- The audits of a step: AUDITS counts them, each posts record kind 6 and is copied to the error log (R217, R391). -/
def Kv.close (k : Kv) : State :=
  k.aud.foldl (fun s a =>
    let n := s.vnum k.c (wrap64 (k.h + 0x18)) 4
    let s1 := (s.vsetNum k.c (wrap64 (k.h + 0x18)) 4 (n + 1)).request k.c (ReqRec.mk 6 a.1 k.h a.2)
    s1.logError 6 (BitVec.ofNat 32 (s.homeDie k.c k.h)) ((s.pa? k.c k.h).getD 0)) k.s

/-- KVX, KVINS and KVREF leave issue; the steps follow at the header's home (R216). -/
def kvInstr (write : Bool) (f : EFmt) (s : State) : Host.Outcome State Fault Refusal :=
  withGroup s (fun i g x =>
    let c := s.ctxOf x.launch
    let h := (x.rs f.sa.toNat).toNat
    let ts := x.enabledSet f.g i.active 0
    if ts.isEmpty then s.complete i g x
    else s.counted g x .en (
      match firstFailure (s.kvFailures c h write) with
      | some e => s.failFor i g e (maskOf ts)
      | none =>
        let n := if s.spoiled c h 64 then 0x40 else 0x40 + 20 * s.vnum c (h + 8) 4
        (s.hold c h n).complete i g
          ((x.issueOp i.instr .en (maskOf ts) (.v f.vx.toNat :: predOut f.pf.toNat) [x.rs f.sa.toNat] [] (.threads ts)).pin s
            [(h, n)])))
/-- KVX (R216). -/
def execKvx (f : EFmt) (s : State) := kvInstr false f s
/-- KVINS (R216). -/
def execKvins (f : EFmt) (s : State) := kvInstr true f s
/-- KVREF (R217). -/
def execKvref (f : EFmt) (s : State) := kvInstr true f s

/-- What one thread's operation does (R216, R217). -/
def Kv.act (k : Kv) (i : Instr) (w : Nat) : Option (KvOut × Kv) :=
  match i with
  | .kvx _ => some (k.lookup (w % 2 ^ 32) (w / 2 ^ 32))
  | .kvins _ => some (k.insert (w % 2 ^ 32) (w / 2 ^ 32))
  | .kvref f => some (k.ref (f.ext == 1) (w % 2 ^ 32))
  | _ => none

/-! ### What a step reads (R384, R385) -/

/-- The entries of a chain that a walk from `q` on reads, up to one at which it stops. -/
def Kv.walked (k : Kv) (stop : Nat → Bool) : Nat → Nat → List Nat
  | 0, _ => []
  | n + 1, q =>
    if k.e ≤ q then [] else if stop q || !k.linked q then [q] else q :: k.walked stop n (k.get (kvEnt q + 12) 4)
/-- The spans of entries. -/
def kvEntries (l : List Nat) : List (Nat × Nat) := l.map (fun p => (kvEnt p, 16))
/-- What the search for a key reads: the window up to the entry found, else all of it, the head of the overflow chain and the chain. -/
def Kv.sought (k : Kv) (seq lblk : Nat) : List (Nat × Nat) :=
  let b := k.bucket seq lblk
  let hit := k.hits seq lblk
  match (k.window b).find? hit with
  | some p => kvEntries ((k.window b).takeWhile (fun q => !hit q) ++ [p])
  | none => kvEntries (k.window b) ++ (k.ovf b, 4) :: kvEntries (k.walked hit k.e (k.get (k.ovf b) 4))
/-- What an unlink of a free entry touches: the entry and its neighbours in the list. -/
def Kv.around (k : Kv) (p : Nat) : List (Nat × Nat) :=
  kvEntries (p :: [k.get (kvEnt p) 4, k.get (kvEnt p + 12) 4].filter (· < k.e))
/-- What taking an entry off its overflow chain touches. -/
def Kv.chained (k : Kv) (p : Nat) : List (Nat × Nat) :=
  if !bitAt (k.flags p) 2 then kvEntries [p]
  else
    let o := k.ovf (k.bucket (k.get (kvEnt p) 4) (k.get (kvEnt p + 4) 4))
    (o, 4) :: kvEntries (p :: k.walked (· == p) k.e (k.get o 4))
/-- What one thread's operation touches of the table besides its header, as spans from the header on. -/
def Kv.touched (k : Kv) (i : Instr) (w : Nat) : List (Nat × Nat) :=
  let seq := w % 2 ^ 32
  let lblk := w / 2 ^ 32
  match i with
  | .kvins _ =>
    let b := k.bucket seq lblk
    k.sought seq lblk ++ (if (k.find seq lblk).1.isSome then [] else match (k.window b).find? (fun p => !k.valid p && !k.pinned p) with
      | some p => k.around p
      | none => let p := k.get 0x10 4; if p < k.e then k.around p else [])
  | .kvref f =>
    let p := seq
    if k.e ≤ p then []
    else
      let r := k.get (kvEnt p + 8) 2
      let head := k.get 0x10 4
      kvEntries [p] ++ (
        if k.pinned p then []
        else if k.valid p && (if f.ext == 1 then 2 ≤ r else r + 1 != 0xFFFF) then []
        else if !k.valid p && f.ext != 1 then []
        else (if k.valid p then k.chained p else k.around p) ++
          (if k.valid p && r = 1 && head < k.e then kvEntries [head] else []))
  | _ => k.sought seq lblk
/-- KV_STEP: the operation of the next thread is one atomic step at the header's home (R216). -/
def State.kvStep (s : State) (g n : Nat) : Option State :=
  let r := OpRef.mk g n
  match s.opAt? r with
  | none => none
  | some (x, o) =>
    match o.work, enFmt? o.instr with
    | .threads (t :: rest), some f =>
      let c := s.ctxOf x.launch
      let h := (o.sargs.getD 0 0).toNat
      let e := s.vnum c (h + 8) 4
      let k0 := Kv.mk s c h e []
      let w := (x.rv t f.vx.toNat).toNat
      match k0.act o.instr w with
        | none => none
        | some (out, k) => s.readingOr r c ((h, 64) :: (k0.touched o.instr w).map (fun q => (wrap64 (h + q.1), q.2))) <|
          some ((k.close.updGroup g (fun y =>
            (y.wv t f.vx.toNat (BitVec.ofNat 64 (out.w0 + out.w1 * 2 ^ 32))).wp t f.pf.toNat (if out.ok then 0xFF else 0))).nextThreads r
            rest)
    | _, _ => none
/-- KV_STEP (R216). -/
def execKvStep (group op : Nat) (s : State) : Host.Outcome State Fault Refusal :=
  whenEnabled "KV_STEP" (s.asOp group op (fun s => s.kvStep group op))

end Sys2Proof.Machine
end

