-- ==== Sys2Proof/Machine/Prefixes.lean ====
section
/-!
DEFINITION. The prefix index: PFXH, PFXL, PFXI and the atomic step at the header's home (R218 to R221).
-/
namespace Sys2Proof.Machine

/-- The modulus of the block hashes (R218). -/
def hashPrime : Nat := 65521
/-- *n* of PFXH and PFXL. -/
def blocksOf (f : EFmt) : Nat := f.imm.toNat % 64 + 1
/-- The tokens of `n` blocks as an agent of a core reads them on .gen (R218, R280). -/
def State.tokensFor (s : State) (core c a n : Nat) : List Nat :=
  (List.range (16 * n)).map (fun k => s.genNum core c (wrap64 (a + 4 * k)) 4)
/-- The tokens of `n` blocks as a home reads them (R372). -/
def State.tokens (s : State) (c a n : Nat) : List Nat := s.tokensFor homeCore c a n
/-- The 16 tokens of block `i`, from 0. -/
def tokensAt (l : List Nat) (i : Nat) : List Nat := (l.drop (16 * i)).take 16
/-- The hash after one more block (R218). -/
def nextHash (h : Nat) (ts : List Nat) : Nat :=
  (31 * h + (ts.mapIdx (fun j t => (j + 1) * t)).foldl (· + ·) 0) % hashPrime
/-- *h*₁ to *h*ₙ (R218). -/
def hashes (h : Nat) : List (List Nat) → List Nat
  | [] => []
  | b :: r => let k := nextHash h b; k :: hashes k r
/-- The hashes of `n` blocks of a launch's tokens (R218). -/
def State.blockHashes (s : State) (l : Nat) (toks : List Nat) (n : Nat) : List Nat :=
  hashes ((s.seedOf l).toNat % hashPrime) ((List.range n).map (tokensAt toks))

/-- The failing checks of reading tokens: check 1, then alignment, with which nothing is read, then the pages (R151, R218, R220). -/
def State.tokenFailures (s : State) (c a n : Nat) : List Failure :=
  let page := atIssue (s.spanFailures c a (64 * n) .read none none)
  if a % 4 != 0 then page.filter (fun e => e.order < 2) ++ [failure 2 0x0F a none] else page

/-- PFXH (R218); where a token is lost it delivers nothing, and its operation ends failed (R385). -/
def execPfxh (f : EFmt) (s : State) : Host.Outcome State Fault Refusal :=
  withGroup s (fun i g x =>
    let c := s.ctxOf x.launch
    let a := (x.rs f.sa.toNat).toNat
    let n := blocksOf f
    if !x.uniformOn f.g i.active then s.complete i g x
    else s.counted g x .en (
      match firstFailure (s.tokenFailures c a n), s.badSpan c a (64 * n) true with
      | some e, _ => s.failFor i g e (leadMask i.active)
      | none, some b => s.complete i g ((x.issueOp i.instr .en (leadMask i.active) [] [] [] .idle).metBad (some b))
      | none, none =>
        let hs := s.blockHashes x.launch (s.tokensFor x.core c a n) n
        let y := ((threadsOf i.active).filter (· < n)).foldl
          (fun y t => y.wv t f.vx.toNat (BitVec.ofNat 64 (hs.getD t 0 + 65536 * (t + 1)))) x
        (s.hold c a (64 * n)).complete i g
          ((y.issueOp i.instr .en (leadMask i.active) [.v f.vx.toNat] [] [] .idle).pin s [(a, 64 * n)])))

/-- A prefix header in 64 bytes keeps its limits (R219). -/
def prefixOk (l : List Byte) : Bool :=
  let e := numAt l 8 4
  numAt l 0 8 % 32 == 0 && 64 ≤ e && e ≤ 2 ^ 24 && 2 ^ Nat.log2 e == e && numAt l 0x0C 4 == 0 && numAt l 0x18 40 == 0

/-- A lookup under way: the matches so far, collisions, the block headers compared, and the entries probed. -/
structure PfxOut where
  phys : List Nat
  hits : Nat
  read : List Nat
  ents : List Nat

/-- The tables of a lookup: context, entries, E, and of the KV table the blocks, block size and E. -/
structure PfxTab where
  c    : Nat
  ents : Nat
  e    : Nat
  blks : Nat
  bs   : Nat
  kvE  : Nat

/-- The tables that a prefix header names. -/
def State.pfxTab (s : State) (c h : Nat) : PfxTab :=
  let kv := s.vnum c (wrap64 (h + 0x10)) 8
  PfxTab.mk c (s.vnum c h 8) (s.vnum c (h + 8) 4) (s.vnum c kv 8) (s.vnum c (wrap64 (kv + 0x0C)) 4) (s.vnum c (wrap64 (kv + 8)) 4)
/-- The address of entry `e`. -/
def PfxTab.entry (t : PfxTab) (e : Nat) : Nat := wrap64 (t.ents + 32 * (e % t.e))
/-- The fields of entry `e`: HASH, POS, FLAGS, PHYS. -/
def State.pfxEntry (s : State) (t : PfxTab) (e : Nat) : Nat × Nat × Nat × Nat :=
  let a := t.entry e
  (s.vnum t.c a 4, s.vnum t.c (a + 4) 4, s.vnum t.c (a + 8) 4, s.vnum t.c (a + 12) 4)
/-- The header of block `p` in the KV table's storage. -/
def PfxTab.block (t : PfxTab) (p : Nat) : Nat := wrap64 (t.blks + p * t.bs)

/-- The probes of one position, in order: the block that verifies, collisions added, headers compared (R220). -/
def State.probes (s : State) (t : PfxTab) (h i : Nat) (toks : List Nat) (o0 : PfxOut) : List Nat → Option Nat × PfxOut
  | [] => (none, o0)
  | r :: rest =>
    let (hash, pos, fl, p) := s.pfxEntry t (h + r)
    let o := { o0 with ents := o0.ents ++ [t.entry (h + r)] }
    if !bitAt fl 0 || hash != h || pos != i then s.probes t h i toks o rest
    else if t.kvE ≤ p then s.probes t h i toks { o with hits := o.hits + 1 } rest
    else
      let o1 := { o with read := o.read ++ [t.block p] }
      if s.tokens t.c (t.block p) 1 = toks then (some p, o1)
      else s.probes t h i toks { o1 with hits := o1.hits + 1 } rest
/-- The chain of positions from `i` on (R220). -/
def State.prefixChain (s : State) (t : PfxTab) (i : Nat) (o : PfxOut) : List (Nat × List Nat) → PfxOut
  | [] => o
  | (h, toks) :: rest =>
    match s.probes t h i toks o [0, 1, 2, 3] with
    | (some p, o1) => s.prefixChain t (i + 1) { o1 with phys := o1.phys ++ [p] } rest
    | (none, o1) => o1
/-- The longest verified prefix (R220). -/
def State.prefixLookup (s : State) (l c h q n : Nat) : PfxOut :=
  let toks := s.tokens c q n
  s.prefixChain (s.pfxTab c h) 1 (PfxOut.mk [] 0 [] []) ((s.blockHashes l toks n).zip ((List.range n).map (tokensAt toks)))

/-- The failing checks of PFXL (R151, R219, R220). -/
def State.pfxlFailures (s : State) (l c h q n : Nat) : List Failure :=
  let toks := s.tokenFailures c q n
  toks ++ atIssue (s.descFailures c h 64 prefixOk (fun b =>
    let t := s.spanFailures c (numAt b 0 8) (32 * numAt b 8 4) .read none none
    let kv := s.descFailures c (numAt b 0x10 8) 64 kvOk (fun _ => [])
    if toks.isEmpty && t.isEmpty && kv.isEmpty && !s.spoiled c q (64 * n) then
      (s.prefixLookup l c h q n).read.flatMap (fun a => s.spanFailures c a 64 .read none none)
    else t ++ kv))
/-- The spans that PFXL reads whatever it finds. -/
def State.pfxlSpans (s : State) (c h q n : Nat) : List (Nat × Nat) :=
  if s.spoiled c h 64 then [(h, 64)]
  else
    let t := s.pfxTab c h
    [(h, 64), (t.ents, 32 * t.e), (s.vnum c (wrap64 (h + 0x10)) 8, 64), (q, 64 * n)]

/-- PFXL leaves issue; the lookup follows at the header's home (R220). -/
def execPfxl (f : EFmt) (s : State) : Host.Outcome State Fault Refusal :=
  withGroup s (fun i g x =>
    let c := s.ctxOf x.launch
    let h := (x.rs f.sa.toNat).toNat
    let q := (x.rs f.sb.toNat).toNat
    let n := blocksOf f
    if !x.uniformOn f.g i.active then s.complete i g x
    else s.counted g x .en (
      match firstFailure (s.pfxlFailures x.launch c h q n) with
      | some e => s.failFor i g e (leadMask i.active)
      | none =>
        let whole := s.pfxlSpans c h q n
        let pins := if (s.badIn c whole true).isSome then whole
          else whole ++ (s.prefixLookup x.launch c h q n).read.map (fun a => (a, 64))
        (pins.foldl (fun s p => s.hold c p.1 p.2) s).complete i g
          ((x.issueOp i.instr .en (leadMask i.active) [.s f.sd.toNat, .v f.vx.toNat] [x.rs f.sa.toNat, x.rs f.sb.toNat]
            ((threadsOf i.active).map (fun t => (t, 0))) (.threads [leader i.active])).pin s pins)))

/-- PFXI leaves issue; the steps follow (R221). -/
def execPfxi (f : EFmt) (s : State) : Host.Outcome State Fault Refusal :=
  withGroup s (fun i g x =>
    let c := s.ctxOf x.launch
    let h := (x.rs f.sa.toNat).toNat
    let ts := x.enabledSet f.g i.active 0
    if ts.isEmpty then s.complete i g x
    else s.counted g x .en (
      match firstFailure (atIssue (s.descFailures c h 64 prefixOk (fun b =>
        s.updateFailures c (numAt b 0 8) (32 * numAt b 8 4) none))) with
      | some e => s.failFor i g e (maskOf ts)
      | none =>
        let t := s.pfxTab c h
        let pins := if s.spoiled c h 64 then [(h, 64)] else [(h, 64), (t.ents, 32 * t.e)]
        (pins.foldl (fun s p => s.hold c p.1 p.2) s).complete i g
          ((x.issueOp i.instr .en (maskOf ts) (.v f.vx.toNat :: predOut f.pf.toNat) [x.rs f.sa.toNat] [] (.threads ts)).pin s pins)))

/-- The probes of an insertion in order: the status, and the entry to write if it is 0 (R221). An entry that is not VALID counts as
free even where its fields equal those inserted: the rule's two outcomes both name it (DESIGN CHOICE, log entry 86). -/
def State.insertAt (s : State) (t : PfxTab) (hash pos phys : Nat) : List Nat → Nat × Option Nat
  | [] => (2, none)
  | r :: rest =>
    let (h, p, fl, y) := s.pfxEntry t (hash + r)
    if !bitAt fl 0 then (0, some ((hash + r) % t.e))
    else if h = hash && p = pos && y = phys then (1, none)
    else s.insertAt t hash pos phys rest

/-- The entries that an insertion probes: up to the first that is free or equal to the one inserted. -/
def State.insertSeen (s : State) (t : PfxTab) (hash pos phys : Nat) : List Nat → List Nat
  | [] => []
  | r :: rest =>
    let (h, p, fl, y) := s.pfxEntry t (hash + r)
    t.entry (hash + r) :: (if !bitAt fl 0 || (h = hash && p = pos && y = phys) then [] else s.insertSeen t hash pos phys rest)
/-- One insertion (R221): the status and the state. -/
def State.prefixInsert (s : State) (c h w : Nat) : Nat × State :=
  let t := s.pfxTab c h
  let hash := bits w 0 16
  let pos := bits w 16 16
  let phys := w / 2 ^ 32
  if hashPrime ≤ hash || pos = 0 then (3, s)
  else match s.insertAt t hash pos phys [0, 1, 2, 3] with
    | (st, some e) =>
      (st, s.vwrite c (wrap64 (t.ents + 32 * e)) (leBytes 4 hash ++ leBytes 4 pos ++ leBytes 4 1 ++ leBytes 4 phys ++ leBytes 16 0))
    | (st, none) => (st, s)

/-- The outcome of a lookup reaches S*d* and V*x* of the threads that were active (R220). -/
def Group.givePrefix (x : Group) (f : EFmt) (o : Op) (n : Nat) (out : PfxOut) : Group :=
  let m := out.phys.length
  ((o.targs.map (·.1)).filter (· < n)).foldl
    (fun y t => y.wv t f.vx.toNat (BitVec.ofNat 64 (if t < m then out.phys.getD t 0 else 0xFFFFFFFF)))
    (x.ws f.sd.toNat (BitVec.ofNat 64 (m + out.hits % 2 ^ 32 * 2 ^ 32)))

/-- The failing checks of the block headers that a lookup reaches at its step but did not at its issue (log entry 89). -/
def State.newFailures (s : State) (c : Nat) (o : Op) (l : List Nat) : List Failure :=
  l.flatMap (fun a => s.lateFailures c o a 64 false)

/-- PREFIX_STEP: a lookup, or the insertion of the next thread, is one atomic step at the header's home (R220, R221). -/
def State.prefixStep (s : State) (g n : Nat) : Option State :=
  let r := OpRef.mk g n
  match s.opAt? r with
  | none => none
  | some (x, o) =>
    let c := s.ctxOf x.launch
    let h := (o.sargs.getD 0 0).toNat
    let t := s.pfxTab c h
    match o.work, o.instr with
    | .threads _, .pfxl f =>
      let q := (o.sargs.getD 1 0).toNat
      let out := s.prefixLookup x.launch c h q (blocksOf f)
      let kv := s.vnum c (wrap64 (h + 0x10)) 8
      s.readingOr r c ((h, 64) :: (if s.spoiled c h 64 then [] else [(kv, 64), (q, 64 * blocksOf f)]))
        (s.readingOr r c (out.ents.map (fun a => (a, 32)) ++ out.read.map (fun a => (a, 64)))
          (match firstFailure (s.newFailures c o out.read) with
           | some e => some (s.failOp r e.addr)
           | none => some (((s.updGroup g (fun y => y.givePrefix f o (blocksOf f) out)).finishOp r).acquire x.core 4)))
    | .threads (u :: rest), .pfxi f =>
      let w := (x.rv u f.vx.toNat).toNat
      let seen := if s.spoiled c h 64 || hashPrime ≤ bits w 0 16 || bits w 16 16 = 0 then []
        else s.insertSeen t (bits w 0 16) (bits w 16 16) (w / 2 ^ 32) [0, 1, 2, 3]
      s.readingOr r c ((h, 64) :: seen.map (fun a => (a, 32))) (
        let (st, s1) := s.prefixInsert c h w
        some (((s1.updGroup g (fun y =>
          (y.wv u f.vx.toNat (BitVec.ofNat 64 (w % 2 ^ 32 + st * 2 ^ 32))).wp u f.pf.toNat (if st = 0 then 0xFF else 0))).nextThreads r
          rest).acquire x.core 4))
    | _, _ => none
/-- PREFIX_STEP (R220). -/
def execPrefixStep (group op : Nat) (s : State) : Host.Outcome State Fault Refusal :=
  whenEnabled "PREFIX_STEP" (s.asOp group op (fun s => s.prefixStep group op))

end Sys2Proof.Machine
end

