-- ==== Sys2Proof/Machine/Coll.lean ====
section
/-!
DEFINITION. Collectives: COLL, COLLW, the contribution and the completion at the descriptor's home (R222 to R224, R368 to
R370).
-/
namespace Sys2Proof.Machine

/-- A collective descriptor as read (R222). -/
structure CollDesc where
  op       : Nat
  n        : Nat
  expect   : Nat
  gen      : Nat
  out      : Nat
  deadline : Nat
  status   : Nat
  arrived  : Nat
  pending  : Nat
deriving DecidableEq, Repr

/-- The descriptor in 64 bytes (R222). -/
def collOf (l : List Byte) : CollDesc :=
  CollDesc.mk (numAt l 0 4) (numAt l 4 4) (numAt l 8 4) (numAt l 0x0C 4) (numAt l 0x10 8) (numAt l 0x18 8) (numAt l 0x20 4)
    (numAt l 0x24 4) (numAt l 0x28 4)
/-- The limits of R222. -/
def collOk (l : List Byte) : Bool :=
  let d := collOf l
  d.op < 3 && 1 ≤ d.n && d.n ≤ (if d.op = 2 then 64 else 4096) && d.expect != 0 && numAt l 0x2C 20 == 0
/-- Bytes of a shard and of OUT (R222). -/
def CollDesc.bytes (d : CollDesc) : Nat := if d.op = 1 then 4 * d.n else 8 * d.n

/-- COLL leaves issue; the contribution is judged at the descriptor's home (R223). -/
def execColl (f : EFmt) (s : State) : Host.Outcome State Fault Refusal :=
  withGroup s (fun i g x =>
    let c := s.ctxOf x.launch
    let a := (x.rs f.sa.toNat).toNat
    if !x.uniformOn f.g i.active then s.complete i g x
    else s.counted g x .en (
      match firstFailure (atIssue (s.updateFailures c a 64 none ++ s.descFailures c a 64 collOk (fun l =>
        s.spanFailures c (collOf l).out (collOf l).bytes .write (some false) none))) with
      | some e => s.failFor i g e (leadMask i.active)
      | none =>
        let d := collOf (s.vread c a 64)
        let pins := if s.spoiled c a 64 then [(a, 64)] else [(a, 64), (d.out, d.bytes)]
        (pins.foldl (fun s p => s.hold c p.1 p.2) s).complete i g
          ((x.issueOp i.instr .en (leadMask i.active) [.s f.sd.toNat] [x.rs f.sa.toNat, x.rs f.sb.toNat, x.rs f.sc.toNat] []
            (.threads [leader i.active])).pin s pins)))

/-- The status of a contribution (R223). -/
def CollDesc.judge (d : CollDesc) (who gen : Nat) : Nat :=
  if d.gen % 2048 != gen then 1 else if !bitAt d.expect who then 2 else if bitAt d.pending who then 3 else 0

/-- COLL_CONTRIBUTION: judged and recorded in one atomic step (R223, R369). -/
def State.collContribution (s : State) (g n : Nat) : Option State :=
  let r := OpRef.mk g n
  match s.opAt? r with
  | none => none
  | some (x, o) =>
    match o.work, o.instr with
    | .threads _, .coll f =>
      let c := s.ctxOf x.launch
      let a := (o.sargs.getD 0 0).toNat
      s.readingOr r c [(a, 64)] (
        let d := collOf (s.vread c a 64)
        let who := f.imm.toNat % 32
        let st := d.judge who (f.imm.toNat / 32)
        let s1 :=
          if st = 0 then
            let s2 := s.vsetNum c (a + 0x28) 4 (d.pending ||| 2 ^ who)
            let s3 := if d.pending = 0 then s2.vsetNum c (a + 0x18) 8 (o.sargs.getD 2 0).toNat else s2
            { s3 with shards := s3.shards ++ [Shard.mk ((s.pa? c a).getD 0) c a who (o.sargs.getD 1 0).toNat d.out d.bytes o.leaves] }
          else s
        some (s1.setWork r (.result (BitVec.ofNat 64 st))))
    | _, _ => none
/-- COLL_CONTRIBUTION (R223). -/
def execCollContribution (group op : Nat) (s : State) : Host.Outcome State Fault Refusal :=
  whenEnabled "COLL_CONTRIBUTION" (s.asOp group op (fun s => s.collContribution group op))

/-- A generation completes: all expected have contributed, or the deadline has passed at the home (R223, R354). -/
def State.collDue (s : State) (c a : Nat) (d : CollDesc) : Bool :=
  d.pending != 0 && (d.pending == d.expect || decide (d.deadline < s.earliest (s.homeDie c a)))

/-- The better of two `.maxi` candidates: value, index; NaN never wins (R223). -/
def maxiPick (best : Option (Nat × Nat)) (p : Nat × Nat) : Option (Nat × Nat) :=
  if (fmtF32.decode p.1).isNan then best
  else match best with
    | none => some p
    | some b =>
      if Entry.better (BitVec.ofNat 32 p.2, BitVec.ofNat 32 p.1) (BitVec.ofNat 32 b.2, BitVec.ofNat 32 b.1) then some p else some b
/-- Later occurrences of an index removed (R223). -/
def dedupEntries : List Entry → List Entry
  | [] => []
  | e :: r => e :: (dedupEntries r).filter (fun d => d.1 != e.1)
/-- The entries of a `.topk` shard. -/
def shardEntries (n : Nat) (l : List Byte) : List Entry :=
  (List.range n).map (fun j => (BitVec.ofNat 32 (numAt l (8 * j) 4), BitVec.ofNat 32 (numAt l (8 * j + 4) 4)))

/-- What OUT receives from the shards read, in ascending contributor (R223). -/
def CollDesc.combine (d : CollDesc) (stepNo : Nat) (l : List (List Byte)) : List Byte :=
  if d.op = 0 then
    (List.range d.n).flatMap (fun k =>
      match l.foldl (fun b sh => maxiPick b (numAt sh (8 * k) 4, numAt sh (8 * k + 4) 4)) none with
      | some p => leBytes 4 p.1 ++ leBytes 4 p.2
      | none => leBytes 4 0x7FC00000 ++ leBytes 4 0xFFFFFFFF)
  else if d.op = 1 then
    match l with
    | [] => (List.range d.n).flatMap (fun k => leBytes 4 (Config.sumOfNothing stepNo k).toNat)
    | first :: rest =>
      (List.range d.n).flatMap (fun k =>
        leBytes 4 (rest.foldl (fun r sh => addF32 r (numAt sh (4 * k) 4)) (numAt first (4 * k) 4)))
  else
    let all := dedupEntries ((l.flatMap (shardEntries d.n)).filter
      (fun e => e != unfilled && !(fmtF32.decode e.2.toNat).isNan))
    let best := (all.foldl (fun row e => placeEntry e row) []).take d.n
    (best ++ List.replicate (d.n - best.length) unfilled).flatMap (fun e => leBytes 4 e.1.toNat ++ leBytes 4 e.2.toNat)

/-- The contributions recorded at a descriptor's home that count: in ascending contributor, the last recorded of each that is pending,
where its shard can be read (R223, R370). -/
def State.collParts (s : State) (pa : Nat) (d : CollDesc) : List Shard :=
  let mine := s.shards.filter (fun h => h.desc == pa)
  (List.range 32).filterMap (fun k => mine.reverse.find? (fun h => h.who == k && bitAt d.pending k &&
    (s.spanFailures h.ctx h.addr d.bytes .read none none).isEmpty))
/-- A descriptor as its home sees it, under the translations with which the contributions checked it (R325, R330). -/
def State.collView (s : State) (c a : Nat) : State :=
  { s with trans := s.shards.flatMap (fun h => if h.ctx = c && h.va = a then h.leaves.map (fun p => (c, p.1, p.2)) else []) }
/-- COLL_COMPLETION: the shards are read in ascending contributor, OUT is written and the descriptor updated, under the
translations with which the contributions checked them (R223, R330, R370); none while the descriptor cannot be read, which each COLLW
then meets as it reads it (R384). -/
def State.collCompletion (s : State) (c a : Nat) : Option State :=
  let v := s.collView c a
  match v.pa? c a with
  | none => none
  | some pa =>
    let d := collOf (v.vread c a 64)
    if v.spoiled c a 64 || !collOk (v.vread c a 64) || !v.collDue c a d then none
    else
      let ok := s.collParts pa d
      let out := d.combine s.stepNo (ok.map (fun h => s.vread h.ctx h.addr d.bytes))
      let arrived := ok.foldl (fun m h => m ||| 2 ^ h.who) 0
      let s1 := if (v.badSpan c d.out d.bytes false).isSome then v else v.vwrite c d.out out
      let s2 := (((s1.vsetNum c (a + 0x20) 4 (1 + if arrived = d.expect then 0 else 2)).vsetNum c (a + 0x24) 4 arrived).vsetNum
        c (a + 0x28) 4 0).vsetNum c (a + 0x0C) 4 (d.gen + 1)
      some { s2 with shards := s2.shards.filter (fun h => h.desc != pa), trans := s.trans }
/-- COLL_COMPLETION (R223). -/
def execCollCompletion (ctx va : Nat) (s : State) : Host.Outcome State Fault Refusal :=
  whenEnabled "COLL_COMPLETION" (s.collCompletion ctx va)

/-- COLLW waits until the generation has completed, reads STATUS and ARRIVED, and acquires at its SCOPE (R224). -/
def execCollw (f : EFmt) (s : State) : Host.Outcome State Fault Refusal :=
  withGroup s (fun i g x =>
    let c := s.ctxOf x.launch
    let a := (x.rs f.sa.toNat).toNat
    let gen := f.imm.toNat / 32
    if !x.uniformOn f.g i.active then s.complete i g x
    else match firstFailure (s.descFailures c a 64 collOk (fun _ => [])) with
      | some e => s.failFor i g e (leadMask i.active)
      | none =>
        let d := collOf (s.vread c a 64)
        if d.gen % 2048 = gen then s.stall g (.coll a gen)
        else ((s.hold c a 64).acquire x.core f.scope.toNat).complete i g
          (x.ws f.sd.toNat (BitVec.ofNat 64 (d.status + d.arrived * 2 ^ 32))))

end Sys2Proof.Machine
end

