-- ==== Sys2Proof/Machine/Control.lean ====
section
/-!
DEFINITION. Control: NOP, branches, calls, CONV, YIELD, EXIT, barriers, SAFE, traps and system registers (R90 to R108).
-/
namespace Sys2Proof.Machine

/-- NOP has no effect (R90); it stands in both streams. -/
def execNop (_f : VFmt) (s : State) : Host.Outcome State Fault Refusal :=
  match s.issue with
  | none => .refused .noIssuer
  | some i =>
    match i.agent with
    | .group _ => withGroup s (fun i g x => s.complete i g x)
    | .tile _ => withTile s (fun i t x => { s with issue := i.follow }.setTile t { x with tpc := i.unit + 1 })

/-! ### Branch targets (R37) -/

/-- Units lie below 5 × 2^50 (R36). -/
def unitLimit : Nat := 5 * 2 ^ 50
/-- The address of the line that holds a unit (R36). -/
def lineOf (u : Nat) : Nat := u / 5 * 64
/-- The fault of a transfer to `target`, none where it is legal: range, the fetch access to its line, its TGT bit (R37). -/
def State.targetFault (s : State) (c : Nat) (target : Int) : Option FaultInfo :=
  if target < 0 || (unitLimit : Int) ≤ target then some (mkFault 0x03 0 none)
  else
    let u := target.toNat
    match firstFailure (s.spanFailures c (lineOf u) 64 .fetch none none) with
    | some i => some i
    | none => if bitAt (s.vnum c (lineOf u) 4) (u % 5) then none else some (mkFault 0x03 0 none)

/-- The target of a direct branch (R37). -/
def branchTarget (i : Issue) (off : BitVec 32) : Int := (i.unit.toNat : Int) + off.toInt
/-- The TPC of every thread of a mask. -/
def Group.jump (x : Group) (m : Mask) (u : Nat) : Group := x.mapThreads m (fun y => { y with tpc := BitVec.ofNat 53 u })

/-- The threads of `taken` go to `target`, the rest of the active set to u + 1; a target at or below u is a backward
branch (R91, R231). -/
def Group.branch (x : Group) (i : Issue) (taken : Mask) (target : Nat) : Group :=
  let y := (x.advance i).jump taken target
  if taken != 0 && target ≤ i.unit.toNat then y.noteBackward i.fetchUnit i.active else y

/-- A branch of the threads `taken` to a direct target; not taken by any, it checks nothing (R37). -/
def State.directBranch (s : State) (i : Issue) (g : Nat) (x : Group) (taken : Mask) (off : BitVec 32) (tmask : Mask) : State :=
  if taken = 0 then s.complete i g x
  else
    let target := branchTarget i off
    match s.targetFault (s.ctxOf x.launch) target with
    | some f => s.fail i g f tmask
    | none => s.completeAt i g (x.branch i taken target.toNat)

/-- BRA (R92). -/
def execBra (f : BFmt) (s : State) : Host.Outcome State Fault Refusal :=
  withGroup s (fun i g x => let m := x.onSet f.g i.active; s.directBranch i g x m f.off m)

/-- The conditions of BRU (R44, R93). -/
def bruCond (c : Nat) (v : Int) : Bool :=
  match c with
  | 0 => v == 0
  | 1 => v != 0
  | 2 => v < 0
  | 3 => 0 ≤ v
  | 4 => 0 < v
  | _ => v ≤ 0

/-- BRU: every active thread branches, or none does (R93). -/
def execBru (f : BFmt) (s : State) : Host.Outcome State Fault Refusal :=
  withGroup s (fun i g x =>
    let go := x.leaderOn f.g i.active && bruCond f.cond.toNat (x.rs f.sx.toNat).toInt
    s.directBranch i g x (if go then i.active else 0) f.off i.active)

/-! ### BRX (R94 to R96) -/

/-- A number read from the table area through the constant path (R95). -/
def State.cstNum (s : State) (core c va n : Nat) : Nat := ofLe (s.cachedRead core c 1 va n)
/-- The failure of reading the table area: a page fault, or a word that cannot be corrected (R96, R384). -/
def State.cstFault (s : State) (core c va n : Nat) : Option FaultInfo :=
  firstFailure (s.spanFailures c va n .read none none ++ s.cacheFailures core c pathCst va n none)

/-- The choice that BRX makes for each enabled thread, or its fault, in the order of R96: the directory word, COUNT, RECONV and the entries
selected are read (R95), and can fault, before TBL, COUNT and the index are tested; past the directory, and for an index at or above
COUNT, the area holds nothing more to read (log entry 66). `area` is the table-area base, `entry` the entry unit. -/
def State.brxTargets (s : State) (core c area ntab entry tbl : Nat) (idx : List (Nat × Nat)) :
    Except FaultInfo (List (Nat × Int)) :=
  let range : Except FaultInfo (List (Nat × Int)) := .error (mkFault 0x06 0 none)
  match s.cstFault core c (wrap64 (area + 4 * tbl)) 4 with
  | some e => .error e
  | none =>
    let base := wrap64 (area + s.cstNum core c (wrap64 (area + 4 * tbl)) 4)
    if ntab ≤ tbl then range
    else match s.cstFault core c base 4 with
    | some e => .error e
    | none =>
      let count := s.cstNum core c base 4
      let slot (i : Nat) : Nat := if i = 2 ^ 64 - 1 then wrap64 (base + 4) else wrap64 (base + 8 + 4 * i)
      let past (p : Nat × Nat) : Bool := count ≤ p.2 && p.2 != 2 ^ 64 - 1
      match (idx.filter (fun p => !past p)).findSome? (fun p => s.cstFault core c (slot p.2) 4) with
      | some e => .error e
      | none =>
        if idx.any past || count = 0 || 256 < count then range
        else .ok (idx.map (fun p => (p.1, (entry : Int) + sint 32 (s.cstNum core c (slot p.2) 4))))

/-- The lines of the table area that BRX reads stay in the constant cache (R251). -/
def State.brxFill (s : State) (core c area tbl : Nat) (idx : List (Nat × Nat)) : State :=
  let base := wrap64 (area + s.cstNum core c (wrap64 (area + 4 * tbl)) 4)
  idx.foldl (fun s p =>
    s.cacheFill core c 1 (if p.2 = 2 ^ 64 - 1 then wrap64 (base + 4) else wrap64 (base + 8 + 4 * p.2)) 4)
    ((s.cacheFill core c 1 (wrap64 (area + 4 * tbl)) 4).cacheFill core c 1 base 4)

/-- The threads go to their own targets; any target at or below u makes the branch backward (R91, R94). -/
def Group.branchEach (x : Group) (i : Issue) (l : List (Nat × Nat)) : Group :=
  let y := l.foldl (fun y p => y.jump (maskOf [p.1]) p.2) (x.advance i)
  if l.any (fun p => p.2 ≤ i.unit.toNat) then y.noteBackward i.fetchUnit i.active else y

/-- BRX (R94, R96). -/
def execBrx (f : BFmt) (s : State) : Host.Outcome State Fault Refusal :=
  withGroup s (fun i g x =>
    let idx := (x.enabledSet f.g i.active 0).map (fun t => (t, (x.rv t f.vx.toNat).toNat))
    if idx.isEmpty then s.complete i g x
    else match s.launch? x.launch with
      | none => s
      | some l =>
        let m := x.onSet f.g i.active
        match s.brxTargets x.core l.ctx l.tables l.ntab l.entry.toNat f.tbl.toNat idx with
        | .error e => s.fail i g e m
        | .ok ts =>
          match ts.findSome? (fun p => (s.targetFault l.ctx p.2).map (fun e => { e with thread := some p.1 })) with
          | some e => s.fail i g e m
          | none =>
            (s.brxFill x.core l.ctx l.tables f.tbl.toNat idx).completeAt i g
              (x.branchEach i (ts.map (fun p => (p.1, p.2.toNat)))))

/-! ### CALL and RET (R97) -/

/-- CALL writes the link and branches; a failing target leaves both (R97). -/
def execCall (f : BFmt) (s : State) : Host.Outcome State Fault Refusal :=
  withGroup s (fun i g x =>
    let m := x.onSet f.g i.active
    if m = 0 then s.complete i g x
    else
      let target := branchTarget i f.off
      match s.targetFault (s.ctxOf x.launch) target with
      | some e => s.fail i g e m
      | none =>
        let y := (threadsOf m).foldl (fun y t => y.wv t f.vx.toNat (BitVec.ofNat 64 (i.unit.toNat + 1))) x
        s.completeAt i g ((y.advance i).jump m target.toNat))

/-- RET takes each enabled thread's TPC from its link; it needs no mark (R97). -/
def execRet (f : BFmt) (s : State) : Host.Outcome State Fault Refusal :=
  withGroup s (fun i g x =>
    let l := (x.enabledSet f.g i.active 0).map (fun t => (t, (x.rv t f.vx.toNat).toNat))
    match l.find? (fun p => unitLimit ≤ p.2) with
    | some p => s.fail i g (mkFault 0x03 0 (some p.1)) (x.onSet f.g i.active)
    | none => s.completeAt i g (l.foldl (fun y p => y.jump (maskOf [p.1]) p.2) (x.advance i)))

/-! ### CONV, YIELD, EXIT (R98 to R100) -/

/-- The operand of CONV and of the barriers: IMM32, or S*a* (R98, R102). -/
def Group.scOperand (x : Group) (f : SFmt) : Nat := if f.subop == 1 then (x.rs f.sa.toNat).toNat else f.imm.toNat
/-- A mask with the bits at or above the thread count cleared. -/
def Group.clip (x : Group) (m : Mask) : Mask := m &&& BitVec.ofNat 32 (2 ^ x.nthr - 1)

/-- CONV parks the enabled threads, and releases those that can be released (R98). -/
def Group.conv (x : Group) (i : Issue) (m on : Mask) : Group :=
  let y := x.advance i
  ({ y with threads := y.threads.mapIdx (fun t (th : Thread) =>
      if on.getLsbD t then { th with st := .conv i.unit (x.clip (m ||| maskOf [t])) } else th) }).releaseConv

/-- CONV (R98). -/
def execConv (f : SFmt) (s : State) : Host.Outcome State Fault Refusal :=
  withGroup s (fun i g x =>
    s.completeAt i g (x.conv i (BitVec.ofNat 32 (x.scOperand f)) (x.onSet f.g i.active)))

/-- YIELD defers the enabled threads; a group whose runnable threads are all deferred is at a long-latency dependence
until the clock after (R99). -/
def Group.yield_ (x : Group) (i : Issue) (on : Mask) (now : Nat) : Group :=
  let y := (x.advance i).mapThreads on (fun th => { th with st := .deferred })
  if y.runnable.isEmpty && !y.deferredThreads.isEmpty then { y with wait := some (.deferral now) } else y

/-- YIELD; in Garnet mode the core passes to the next group. With no thread enabled it has no effect (R21, R99, R244). -/
def execYield (f : VFmt) (s : State) : Host.Outcome State Fault Refusal :=
  withGroup s (fun i g x =>
    let on := x.onSet f.g i.active
    if on = 0 then s.complete i g x else (s.completeAt i g (x.yield_ i on s.clk)).passCore x)

/-- EXIT retires the enabled threads and releases what waited only for them (R100, R98, R102). -/
def Group.exit_ (x : Group) (i : Issue) (on : Mask) : Group :=
  ((x.advance i).mapThreads on (fun th => { th with st := .retired })).releaseConv.releaseBarrier

/-- EXIT; the group ends when its last thread retires (R100). -/
def execExit (f : VFmt) (s : State) : Host.Outcome State Fault Refusal :=
  withGroup s (fun i g x =>
    let y := x.exit_ i (x.onSet f.g i.active)
    let s1 := s.completeAt i g y
    if y.threads.all (fun th => th.st == .retired) then s1.endGroup g else s1)

/-! ### Barriers (R102 to R104) -/

/-- The three barrier instructions. -/
inductive BarKind where
  | bar | bara | barw
deriving DecidableEq, Repr

/-- The active threads park in convergence at u (R102). -/
def Group.park (x : Group) (i : Issue) : Group := x.mapThreads i.active (fun th => { th with st := .barrier i.unit })
/-- Every unexited thread is parked at u (R102). -/
def Group.converged (x : Group) (u : Unit53) : Bool := x.threads.all (fun th => th.st == .retired || th.st == .barrier u)
/-- The parked threads are one active set at u again. -/
def Group.gather (x : Group) (u : Unit53) : Group :=
  { x with threads := x.threads.map (fun th => if th.st = .retired then th else Thread.mk u .runnable) }
/-- All unexited threads continue at u + 1. -/
def Group.passBarrier (x : Group) (i : Issue) : Group := x.mapThreads x.live (fun th => { th with tpc := i.unit + 1 })

/-- The fault of a set operand (R103). -/
def State.setsFault (s : State) (x : Group) (n : Nat) : Option FaultInfo :=
  let d := s.setDef x.launch n
  if 256 ≤ n || (d.ranges.isEmpty && d.tiles.isEmpty) || !d.hasGroup x.gidx then some (mkFault 0x13 0 none) else none

/-- The group holds an arrival in a set (R101). -/
def State.holdsArrival (s : State) (x : Group) (n : Nat) : Bool := (s.setState x.block n).arrived.contains x.gidx

/-- A converged barrier executes once: `y` has its unexited threads runnable at u (R102, R104). -/
def State.barrier (s : State) (k : BarKind) (i : Issue) (g : Nat) (y : Group) (n : Nat) : State :=
  match s.setsFault y n with
  | some e => (s.setGroup g y).fail i g e y.live
  | none =>
    let holding := s.holdsArrival y n
    let older := y.count .ld != 0 || y.count .st != 0
    let wait (s : State) : State := s.updGroup g (fun z => { z with wait := some (.phase n) })
    match k with
    | .barw =>
      let s1 := s.completeAt i g (y.passBarrier i)
      if holding then wait s1 else s1
    | .bara =>
      if holding then (s.setGroup g y).stall g (.previous n false)
      else if older then (s.setGroup g y).stall g .memory
      else (s.completeAt i g (y.passBarrier i)).arrive y.block n y.gidx
    | .bar =>
      if holding then (s.setGroup g y).stall g (.previous n true)
      else if older then (s.setGroup g y).stall g .memory
      else
        let s1 := (s.completeAt i g (y.passBarrier i)).arrive y.block n y.gidx
        if s1.holdsArrival y n then wait s1 else s1

/-- BAR, BARA and BARW converge first (R102). -/
def barInstr (k : BarKind) (f : SFmt) (s : State) : Host.Outcome State Fault Refusal :=
  withGroup s (fun i g x =>
    let p := x.park i
    if p.converged i.unit then s.barrier k i g (p.gather i.unit) (x.scOperand f) else s.completeAt i g p)

/-- BAR (R102). -/
def execBar (f : SFmt) (s : State) := barInstr .bar f s
/-- BARA (R102). -/
def execBara (f : SFmt) (s : State) := barInstr .bara f s
/-- BARW (R102). -/
def execBarw (f : SFmt) (s : State) := barInstr .barw f s

/-! ### SAFE, TRAP, BKPT (R105, R106) -/

/-- A pre-emption request is pending for the group's block (R339). -/
def State.requested (s : State) (x : Group) : Bool := match s.block? x.block with | some b => b.pre.isSome | none => false

/-- SAFE parks the enabled threads while a request is pending and CP is zero (R105). -/
def execSafe (f : VFmt) (s : State) : Host.Outcome State Fault Refusal :=
  withGroup s (fun i g x =>
    let y := x.advance i
    if s.requested x && x.count .cp == 0 then
      s.completeAt i g (y.mapThreads (x.onSet f.g i.active) (fun th => { th with st := .safe i.unit }))
    else s.completeAt i g y)

/-- A trap completes and raises its cause: the active set has passed u when the record is made (R106). -/
def State.trap (s : State) (i : Issue) (g : Nat) (x : Group) (cause : Nat) (code : BitVec 32) (on : Mask) : State :=
  (s.completeAt i g (x.advance i)).faultGroup g (i.mark { mkFault cause 0 none with code := code }) i.unit.toNat (i.unit.toNat + 1) on

/-- TRAP (R106). -/
def execTrap (f : SFmt) (s : State) : Host.Outcome State Fault Refusal :=
  withGroup s (fun i g x =>
    let on := x.onSet f.g i.active
    if on = 0 then s.complete i g x else s.trap i g x 0x10 f.imm on)

/-- `mode`.BKEN as the group's launch was taken with it (R106, R398). -/
def State.bkenOf (s : State) (x : Group) : Bool := match s.launch? x.launch with | some l => l.bken | none => false

/-- BKPT raises BKPT only when `mode`.BKEN is set (R106). -/
def execBkpt (f : SFmt) (s : State) : Host.Outcome State Fault Refusal :=
  withGroup s (fun i g x =>
    let on := x.onSet f.g i.active
    if on = 0 || !s.bkenOf x then s.complete i g x else s.trap i g x 0x11 f.imm on)

/-! ### System registers (R107, R108) -/

/-- `cnt` (R108). -/
def Group.cnt (x : Group) : Nat := x.count .ld + x.count .st * 2 ^ 8 + x.count .cp * 2 ^ 16 + x.count .en * 2 ^ 24

/-- A system register as thread `t` of the active set sees it, none for an unassigned number (R108). -/
def State.sysReg (s : State) (i : Issue) (x : Group) (t n : Nat) : Option Nat :=
  let l (k : Launch → Nat) : Nat := match s.launch? x.launch with | some l => k l | none => 0
  let b (c : Bool) (k : Nat) : Nat := if c then 2 ^ k else 0
  match n with
  | 0x00 => some t
  | 0x01 => some x.gidx
  | 0x02 => some (match s.block? x.block with | some k => k.bidx | none => 0)
  | 0x03 => some x.nthr
  | 0x04 => some (l (·.ngroups))
  | 0x05 => some (l (·.blocks))
  | 0x06 => some x.live.toNat
  | 0x07 => some i.active.toNat
  | 0x08 => some (locOf x.core x.part)
  | 0x09 => some s.clk
  | 0x0A => some x.flags.toNat
  | 0x0B => some (l (·.seed.toNat))
  | 0x0C => some (l (·.lid.toNat))
  | 0x0D => some (s.effPrio 8 x.launch)
  | 0x0E => some x.cnt
  | 0x0F => some (l (fun k => b k.coop 2 + b k.bken 1 + b k.garnet 0))
  | 0x10 => some (if x.fbst then 1 else 0)
  | _ => none

/-- The number of a system register that GETSR names (R107). -/
def Group.srNumber (x : Group) (f : VFmt) : Nat :=
  match f.src with
  | .imm v => v.toNat
  | .regs .. => (x.rs f.a.toNat).toNat % 256

/-- GETSR (R107). -/
def execGetsr (f : VFmt) (s : State) : Host.Outcome State Fault Refusal :=
  withGroup s (fun i g x =>
    let n := x.srNumber f
    let on := if f.g.u then (if x.leaderOn f.g i.active then [leader i.active] else []) else x.enabledSet f.g i.active 0
    if on.isEmpty then s.complete i g x
    else if (s.sysReg i x 0 n).isNone then s.fail i g (mkFault 0x01 0 none) (maskOf on)
    else
      let v (t : Nat) : Word := BitVec.ofNat 64 ((s.sysReg i x t n).getD 0)
      s.complete i g
        (if f.g.u then x.ws f.d.toNat (v (leader i.active)) else on.foldl (fun y t => y.wv t f.d.toNat (v t)) x))

/-- SETSR: `flags` is written, `fbst` is write-1-to-clear, every other register is read-only (R107, R108). -/
def execSetsr (f : VFmt) (s : State) : Host.Outcome State Fault Refusal :=
  withGroup s (fun i g x =>
    let v : Nat := match f.src with | .imm w => w.toNat | .regs .. => (x.rs f.a.toNat).toNat
    if !x.leaderOn f.g i.active then s.complete i g x
    else if f.d = 0x0A then s.complete i g { x with flags := BitVec.ofNat 6 v }
    else if f.d = 0x10 then s.complete i g { x with fbst := x.fbst && !bitAt v 0 }
    else s.fail i g (mkFault 0x12 0 none) (maskOf [leader i.active]))

end Sys2Proof.Machine
end

