-- ==== Sys2Proof/Machine/FloatArith.lean ====
section
/-!
DEFINITION. Floating arithmetic, minimum and maximum, sign moves, compares, classification, rounding to integral and the
special functions (R125 to R133, R137).
-/
namespace Sys2Proof.Machine

/-- A floating instruction over D's elements: its result codes and flags, then u + 1 (R126). -/
def flt (f : VFmt) (s : State) (k : Group → Nat → Nat → Nat × Fl) : Host.Outcome State Fault Refusal :=
  withGroup s (fun i g x => s.complete i g (x.vecOp f i.active f.w (k x)))

/-- The exact result and the flags of the arithmetic operation, saturated and rounded once (R127, R128). -/
def fltFinish (f : VFmt) (r : Num × Fl) : Nat × Fl :=
  let c := (fmtOf f.type).satRound f.sat f.rm.toNat r.1
  (c.1, r.2 ||| c.2)

/-- Sources A and B as values. -/
def Group.fa (x : Group) (f : VFmt) (t e : Nat) : Num := (fmtOf f.type).decode (x.srcA f f.w t e)
/-- Source B, or the immediate, as a value. -/
def Group.fb (x : Group) (f : VFmt) (t e : Nat) : Num := (fmtOf f.type).decode (x.srcB f f.w t e)
/-- Source C as a value. -/
def Group.fc (x : Group) (f : VFmt) (t e : Nat) : Num := (fmtOf f.type).decode (x.srcC f f.w t e)

/-- FADD (R128). -/
def execFadd (f : VFmt) (s : State) := flt f s (fun x t e => fltFinish f (Num.add f.rm.toNat (x.fa f t e) (x.fb f t e)))
/-- FSUB (R128). -/
def execFsub (f : VFmt) (s : State) :=
  flt f s (fun x t e => fltFinish f (Num.add f.rm.toNat (x.fa f t e) (x.fb f t e).negate))
/-- FMUL (R128). -/
def execFmul (f : VFmt) (s : State) := flt f s (fun x t e => fltFinish f (Num.mul (x.fa f t e) (x.fb f t e)))
/-- FFMA (R128). -/
def execFfma (f : VFmt) (s : State) :=
  flt f s (fun x t e => fltFinish f (Num.fma f.rm.toNat (x.fa f t e) (x.fb f t e) (x.fc f t e)))
/-- FDIV (R128, R78, R79). -/
def execFdiv (f : VFmt) (s : State) := flt f s (fun x t e => fltFinish f (Num.div (x.fa f t e) (x.fb f t e)))

/-- The IEEE minimum and maximum operations (R129, R77). -/
def fltMinMax (wantMax numberFirst : Bool) (f : VFmt) (s : State) : Host.Outcome State Fault Refusal :=
  flt f s (fun x t e => minMaxCode (fmtOf f.type) wantMax numberFirst (x.srcA f f.w t e) (x.srcB f f.w t e))

def execFmin (f : VFmt) (s : State) := fltMinMax false false f s
def execFmax (f : VFmt) (s : State) := fltMinMax true false f s
def execFminn (f : VFmt) (s : State) := fltMinMax false true f s
def execFmaxn (f : VFmt) (s : State) := fltMinMax true true f s

/-- A code with its sign bit replaced (R130). -/
def withSign (w : Nat) (neg : Bool) (c : Nat) : Nat := c % 2 ^ (w - 1) + (if neg then 2 ^ (w - 1) else 0)

/-- FABS (R130). -/
def execFabs (f : VFmt) (s : State) := flt f s (fun x t e => (withSign f.w false (x.srcA f f.w t e), 0))
/-- FNEG (R130). -/
def execFneg (f : VFmt) (s : State) :=
  flt f s (fun x t e => let a := x.srcA f f.w t e; (withSign f.w (!bitAt a (f.w - 1)) a, 0))
/-- FCPYS (R130). -/
def execFcpys (f : VFmt) (s : State) :=
  flt f s (fun x t e => (withSign f.w (bitAt (x.srcB f f.w t e) (f.w - 1)) (x.srcA f f.w t e), 0))

/-- FCMP (R131). -/
def execFcmp (f : VFmt) (s : State) : Host.Outcome State Fault Refusal :=
  withGroup s (fun i g x =>
    s.complete i g (x.cmpOp f i.active f.w (fun t e => fcmpCond f.subop.toNat (x.fa f t e) (x.fb f t e))))

/-- FCLASS: a one-hot class word, no flag (R132). -/
def execFclass (f : VFmt) (s : State) := flt f s (fun x t e => (2 ^ fclassBit (fmtOf f.type) (x.fa f t e), 0))

/-- FRND; with `.x` an inexact rounding sets NX (R133). -/
def execFrnd (f : VFmt) (s : State) :=
  flt f s (fun x t e =>
    let (c, fl, inexact) := frndCode (fmtOf f.type) f.rm.toNat (x.fa f t e)
    (c, fl ||| flIf (inexact && f.subop == 1) flNX))

/-- A special function of one source (R137, R78, R79). -/
def special (opc : Nat) (f : VFmt) (s : State) : Host.Outcome State Fault Refusal :=
  flt f s (fun x t e => specialCode (fmtOf f.type) f.sat f.rm.toNat opc (x.srcA f f.w t e))

def execFrcp (f : VFmt) (s : State) := special 0x101 f s
def execFsqrt (f : VFmt) (s : State) := special 0x102 f s
def execFrsq (f : VFmt) (s : State) := special 0x103 f s
def execFexp2 (f : VFmt) (s : State) := special 0x104 f s
def execFlog2 (f : VFmt) (s : State) := special 0x105 f s
def execFsinp (f : VFmt) (s : State) := special 0x106 f s
def execFcosp (f : VFmt) (s : State) := special 0x107 f s
def execFtanh (f : VFmt) (s : State) := special 0x108 f s

end Sys2Proof.Machine
end

