-- ==== Sys2Proof/Machine/Convert.lean ====
section
/-!
DEFINITION. Conversions, narrow packing and block scales (R134 to R136, R81).
-/
namespace Sys2Proof.Machine

/-- FCVT (R134). -/
def execFcvt (f : VFmt) (s : State) :=
  flt f s (fun x t e =>
    let v := (fmtOf f.type2).decode (x.elemV t f.a.toNat (selOff f.w2 f.selA e) f.w2)
    let c := (fmtOf f.type).satRound f.sat f.rm.toNat v
    (c.1, c.2 ||| flIf v.isSig flNV))
/-- FCVTI (R134, R76). -/
def execFcvti (f : VFmt) (s : State) :=
  flt f s (fun x t e =>
    toIntCode (signedTy f.type) f.w f.rm.toNat
      ((fmtOf f.type2).decode (x.elemV t f.a.toNat (selOff f.w2 f.selA e) f.w2)))
/-- ICVTF (R134). -/
def execIcvtf (f : VFmt) (s : State) :=
  flt f s (fun x t e =>
    (fmtOf f.type).satRound f.sat f.rm.toNat
      (Num.ofInt (ival (signedTy f.type2) f.w2 (x.elemV t f.a.toNat (selOff f.w2 f.selA e) f.w2))))

/-! ### Narrow units (R135) -/

/-- The narrow format that FSEL names (R51, R74). -/
def narrowFmt (f : VFmt) : Fmt := fmtOfReg (prebuilt f.subop.toNat)
/-- Unit `k` of `ub` bits of a register. -/
def unitOf (v : Word) (ub k : Nat) : Nat := bits v.toNat (ub * k) ub
/-- Unit `k` replaced. -/
def setUnit (v : Word) (ub k x : Nat) : Word :=
  (v &&& ~~~(lowMask ub <<< (ub * k))) ||| ((BitVec.ofNat 64 x &&& lowMask ub) <<< (ub * k))
/-- The byte that holds unit `k`. -/
def unitByte (ub k : Nat) : Nat := ub * k / 8

/-- Packing: unit j·n + i of D becomes `k` of element i of A where the guard enables it (R135). `w` is the IEEE width, `j`
the block. -/
def Group.packOp (x : Group) (f : VFmt) (active : Mask) (w ub j : Nat) (k : Nat → Nat × Fl) : Group :=
  let n := 64 / w
  let en (t i : Nat) : Bool := x.enabled f.g t (unitByte ub (j * n + i))
  let r (t i : Nat) : Nat × Fl := k (x.elemV t f.a.toNat (i * (w / 8)) w)
  ((threadsOf active).foldl
    (fun y t => y.wv t f.d.toNat
      ((List.range n).foldl (fun v i => if en t i then setUnit v ub (j * n + i) (r t i).1 else v) (x.rv t f.d.toNat))) x).raiseFlags
    ((threadsOf active).foldl
      (fun fl t => fl ||| (List.range n).foldl (fun a i => if en t i then a ||| (r t i).2 else a) 0) 0)

/-- FPACK (R135, R73). -/
def execFpack (f : VFmt) (s : State) : Host.Outcome State Fault Refusal :=
  withGroup s (fun i g x =>
    s.complete i g (x.packOp f i.active f.w2 (narrowFmt f).unit f.selD.toNat (fun c =>
      let v := (fmtOf f.type2).decode c
      let r := (narrowFmt f).satRound f.sat f.rm.toNat v
      (r.1, r.2 ||| flIf v.isSig flNV))))
/-- EXPQ (R135, R81). -/
def execExpq (f : VFmt) (s : State) : Host.Outcome State Fault Refusal :=
  withGroup s (fun i g x =>
    s.complete i g (x.packOp f i.active f.w2 (narrowFmt f).unit f.selD.toNat (fun c => expqCode (fmtOf f.type2) c)))
/-- FUNPK: exact; a narrow NaN becomes the canonical NaN (R135, R72). With D = A every unit is read before any element is written: the rule
does not say (DESIGN CHOICE, log entry 26). -/
def execFunpk (f : VFmt) (s : State) : Host.Outcome State Fault Refusal :=
  withGroup s (fun i g x =>
    let ub := (narrowFmt f).unit
    let n := 64 / f.w
    let u (e : Nat) : Nat := f.selA.toNat * n + e / (f.w / 8)
    let code (t e : Nat) : Nat :=
      ((fmtOf f.type).round 0 ((narrowFmt f).decode (unitOf (x.rv t f.a.toNat) ub (u e) % 2 ^ (narrowFmt f).width))).1
    s.complete i g ((threadsOf i.active).foldl
      (fun y t => y.wv t f.d.toNat
        (newWord (x.rv t f.d.toNat) (fun e => x.enabled f.g t (unitByte ub (u e))) f.w (packedOffsets f.w) (code t))) x))

/-! ### FSCA (R136) -/

/-- x × UE4M3(sa) × UE4M3(sb) (+ c): code and flags (R80, R136). -/
def fscaElem (sat : Bool) (rm x sa sb : Nat) (c : Option Nat) : Nat × Fl :=
  if 0x80 ≤ sa || 0x80 ≤ sb then (0x7FC00000, flSCALE)
  else
    let q := fmtOfReg (prebuilt 0)
    let (p1, f1) := Num.mul (fmtF32.decode x) (q.decode sa)
    let (p2, f2) := Num.mul p1 (q.decode sb)
    let (v, f3) := match c with
      | some z => Num.add rm p2 (fmtF32.decode z)
      | none => (p2, 0)
    let (r, f4) := fmtF32.satRound sat rm v
    (r, f1 ||| f2 ||| f3 ||| f4)

/-- FSCA (R136). -/
def execFsca (f : VFmt) (s : State) :=
  flt f s (fun x t e =>
    let eb := selOff 32 f.selB e
    fscaElem f.sat f.rm.toNat (x.srcA f 32 t e) (x.elemV t f.b.toNat eb 8) (x.elemV t f.b.toNat (eb + 1) 8)
      (if f.subop == 0 then some (x.srcC f 32 t e) else none))

end Sys2Proof.Machine
end

