-- ==== Sys2Proof/Machine/TileScalar.lean ====
section
/-!
DEFINITION. The tile stream's scalars, branches, format registers, set barriers and end (R187, R190 to R192), and the fault
of a context (R286).
-/
namespace Sys2Proof.Machine

/-! ### Registers and the end of an issue -/

/-- T register `k` of a context. -/
def Tile.rt (x : Tile) (k : Nat) : Word := Sparse.get 0 x.t k
/-- T register `k` written. -/
def Tile.wt (x : Tile) (k : Nat) (w : Word) : Tile := { x with t := Sparse.put 0 x.t k w }
/-- The registers that an instruction of a context writes are encoded anew (R382, R384). -/
def badAfter (i : Issue) (l : List RegAt) : List RegAt :=
  l.filter (fun r => match r with
    | .t k => !(regUse i.instr).writes.contains (.t k)
    | .f k => !(regUse i.instr).writes.contains (.f k)
    | _ => true)
/-- The instruction completes: the context becomes `x` and continues at u + 1. -/
def State.tileDone (s : State) (i : Issue) (t : Nat) (x : Tile) : State :=
  { s with issue := i.follow }.setTile t { x with tpc := i.unit + 1, got := [], bad := badAfter i x.bad }
/-- The context waits at the instruction, which has no effect and is fetched again. -/
def State.tileStall (s : State) (t : Nat) (x : Tile) (w : TWait) : State :=
  { s with issue := none }.setTile t { x with wait := some w }

/-! ### The fault of a context (R187, R286, R336) -/

/-- What a context keeps in flight when it stops: what has passed its commit point (R286). -/
def Tile.kept (x : Tile) : List Inflight := x.flight.filter (·.applied)
/-- What it discards, oldest first (R286). -/
def Tile.discarded (x : Tile) : List Inflight := x.flight.filter (fun e => !e.applied)
/-- The unit at which a stopped context resumes: the oldest discarded instruction's, or `u` (R286). -/
def Tile.resumeAt (x : Tile) (u : Unit53) : Unit53 :=
  match x.discarded.head? with | some e => e.unit | none => u
/-- The context without what has not passed its commit point: its T and F registers and its TPC are those of the oldest
discarded instruction (R286). -/
def Tile.cutBack (x : Tile) (u : Unit53) : Tile :=
  match x.discarded.head? with
  | some e => { x with t := e.t, f := e.f, tpc := e.unit, flight := x.kept, got := [] }
  | none => { x with tpc := u, flight := x.kept, got := [] }

/-- A context takes a fault at unit `u`: what is in flight and uncommitted is discarded, and its record is queued (R187,
R286, R336). -/
def State.faultTile (s : State) (t : Nat) (info : FaultInfo) (u : Unit53) : State :=
  match s.tile? t with
  | none => s
  | some x =>
    let r := s.tileRec x info u.toNat (x.resumeAt u).toNat
    (({ s with issue := none }.setTile t { x.cutBack u with status := .faulted r none, wait := none }).queueFault
      (s.ctxOf x.launch) r).logCheck (s.ctxOf x.launch) x.core info
/-- The instruction of a context faults. -/
def State.tileFail (s : State) (i : Issue) (t : Nat) (info : FaultInfo) : State := s.faultTile t (i.mark info) i.unit
/-- A context returns from a fault: Ready at its saved TPC, or at a new one (R334, R337). -/
def Tile.replay (x : Tile) (unit : Nat) : Tile :=
  if unit = 0 then { x with status := .ready } else { x with status := .ready, tpc := BitVec.ofNat 53 unit, entered := true }

/-! ### Scalars (R189, R190) -/

/-- TSMOV (R190). -/
def execTsmov (f : TFmt) (s : State) : Host.Outcome State Fault Refusal :=
  withTile s (fun i t x => s.tileDone i t (x.wt f.td.toNat (x.rt f.ta.toNat)))

/-- What TSMOVI makes of a register under MODE (R189). -/
def tsImm (mode : Nat) (imm : BitVec 32) (old : Word) : Word :=
  match mode with
  | 0 => imm.signExtend 64
  | 1 => imm.setWidth 64
  | _ => setElem old 4 32 imm.toNat
/-- TSMOVI (R190). -/
def execTsmovi (f : TFmt) (s : State) : Host.Outcome State Fault Refusal :=
  withTile s (fun i t x => s.tileDone i t (x.wt f.td.toNat (tsImm (f.mod.toNat % 4) f.imm (x.rt f.td.toNat))))

/-- TSADD, modulo 2^64 (R190). -/
def execTsadd (f : TFmt) (s : State) : Host.Outcome State Fault Refusal :=
  withTile s (fun i t x =>
    let b : Word := if f.mod.getLsbD 0 then f.imm.signExtend 64 else x.rt f.tb.toNat
    s.tileDone i t (x.wt f.td.toNat (x.rt f.ta.toNat + b)))

/-- A branch of a context, checked only when it is taken (R37, R190). -/
def State.tileBranch (s : State) (i : Issue) (t : Nat) (x : Tile) (taken : Bool) (off : BitVec 32) : State :=
  if !taken then s.tileDone i t x
  else
    let target := branchTarget i off
    match s.targetFault (s.ctxOf x.launch) target with
    | some e => s.tileFail i t e
    | none => { s with issue := i.follow }.setTile t { x with tpc := BitVec.ofNat 53 target.toNat }

/-- TLOOP (R190). -/
def execTloop (f : TFmt) (s : State) : Host.Outcome State Fault Refusal :=
  withTile s (fun i t x => s.tileBranch i t x (decide (0 < (x.rt f.ta.toNat).toInt)) f.imm)

/-- TBRA (R189, R190). -/
def execTbra (f : TFmt) (s : State) : Host.Outcome State Fault Refusal :=
  withTile s (fun i t x =>
    let c := f.mod.toNat % 8
    s.tileBranch i t x (c == 6 || bruCond c (x.rt f.ta.toNat).toInt) f.imm)

/-- TFMT: a value that fails R71 raises FORMAT and leaves F*n* (R190). -/
def execTfmt (f : TFmt) (s : State) : Host.Outcome State Fault Refusal :=
  withTile s (fun i t x =>
    let w : Word := if f.mod.getLsbD 0 then f.imm.setWidth 64 else x.rt f.ta.toNat
    if fmtRegOk w.toNat then s.tileDone i t { x with f := x.f.set f.fa.toNat w }
    else s.tileFail i t (mkFault 0x14 0 none))

/-! ### Sets and the end (R191, R192) -/

/-- A context as a member of a set: 2048 + its number (R101, R308). -/
def Tile.member (x : Tile) : Nat := 2048 + x.number
/-- The fault of a set operand of TARR and TWAIT: an empty entry, or one of which the context is no member (R191). -/
def State.tileSetsFault (s : State) (x : Tile) (n : Nat) : Option FaultInfo :=
  if (s.setDef x.launch n).tiles.contains x.number then none else some (mkFault 0x13 0 none)
/-- The context holds an arrival in a set (R101). -/
def State.tileHolds (s : State) (x : Tile) (n : Nat) : Bool := (s.setState x.block n).arrived.contains x.member

/-- TARR waits for older matrix work, then for a phase in which it still holds an arrival, and arrives (R191). -/
def execTarr (f : TFmt) (s : State) : Host.Outcome State Fault Refusal :=
  withTile s (fun i t x =>
    let n := f.imm.toNat
    if !x.flight.isEmpty then s.tileStall t x .drained
    else match s.tileSetsFault x n with
      | some e => s.tileFail i t e
      | none =>
        if s.tileHolds x n then s.tileStall t x (.phase n)
        else (s.tileDone i t x).arrive x.block n x.member)

/-- TWAIT waits for the phase in which the context last arrived (R191). -/
def execTwait (f : TFmt) (s : State) : Host.Outcome State Fault Refusal :=
  withTile s (fun i t x =>
    let n := f.imm.toNat
    match s.tileSetsFault x n with
    | some e => s.tileFail i t e
    | none => if s.tileHolds x n then s.tileStall t x (.phase n) else s.tileDone i t x)

/-- TEND waits for every older instruction and ends the context, which leaves every set and gives up its lease (R192,
R318). -/
def execTend (_f : TFmt) (s : State) : Host.Outcome State Fault Refusal :=
  withTile s (fun i t x =>
    if !x.flight.isEmpty then s.tileStall t x .drained
    else ((((s.tileDone i t { x with status := .ended }).dropLeases [t]).noteIdle [x.core]).settleSets x.block).settleBlock x.block)

end Sys2Proof.Machine
end

