-- ==== Sys2Proof/Machine/Tiles.lean ====
section
/-!
DEFINITION. What matrix and winner-list instructions share: operand tiles in scratchpad or in group registers, formats,
norms, checks, leases and the flight list (R193 to R196, R253, R286).
-/
namespace Sys2Proof.Machine

/-! ### Operand descriptors (R193) -/

/-- An operand descriptor. -/
structure Desc where
  base   : Nat
  rpitch : Nat
  tpitch : Int
  rot    : Nat
  side   : Nat
  top    : Nat
deriving DecidableEq, Repr

/-- A T register of a snapshot. -/
def tReg (t : Sparse Word) (k : Nat) : Nat := (Sparse.get 0 t k).toNat
/-- The descriptor in T*a*, T*a*+1, T*a*+2 (R193). -/
def descOf (t : Sparse Word) (a : Nat) : Desc :=
  let w := tReg t (a + 1)
  Desc.mk (tReg t a) (bits w 0 24) (sint 24 (bits w 24 24)) (bits w 48 6) (tReg t (a + 2)) (bits w 54 10)
/-- The fields keep their limits, SIDE apart, which only TNORM and MMK use; with the operand in group registers the
descriptor has no other field (R193, R194). -/
def Desc.ok (d : Desc) (ga : Bool) : Bool :=
  ga || (d.base % 32 == 0 && d.rpitch % 32 == 0 && 256 ≤ d.rpitch && d.tpitch % 32 == 0 && d.top == 0)
/-- The .sp address of the 32 bytes of row `i`, step `q`; none where a skewed tile has no place for it (R193, R253). -/
def Desc.chunk (d : Desc) (i q : Nat) : Option Nat :=
  if d.rot = 0 then some (wrap64 (d.base + i * d.rpitch + 32 * q))
  else if 32 < d.rot || d.base % 32 != 0 then none
  else skewChunk d.base d.rot 8 i q
/-- Every row and step of a tile. -/
def tileCells : List (Nat × Nat) := (List.range 64).flatMap (fun i => (List.range 8).map (fun q => (i, q)))

/-! ### The operand in group registers (R194) -/

/-- GA: operand A comes from vector registers. -/
def gaOf (f : TFmt) : Bool := f.mod.getLsbD 4
/-- The group that T*a* names, and its first register (R194). -/
def State.gaGroup (s : State) (block : Nat) (t : Sparse Word) (a : Nat) : Option (Group × Nat) :=
  match s.block? block with
  | none => none
  | some b => match b.groups[tReg t a % 2048]? with
    | none => none
    | some g => (s.group? g).map (fun y => (y, tReg t (a + 1) % 2048))
/-- The group is parked in BAR or BARW, waiting for a phase of a set of which the context is a member without an arrival
(R194). -/
def State.gaParked (s : State) (x : Tile) (y : Group) : Bool :=
  let waitsFor (n : Nat) : Bool :=
    s.holdsArrival y n && (s.setDef x.launch n).tiles.contains x.number && !s.tileHolds x n
  match y.wait with
  | some (.phase n) | some (.previous n true) => y.resident && y.status == .ready && waitsFor n
  | _ => false
/-- The 32 bytes of row `i`, step `q` of an operand in registers from V*f* on (R194). -/
def Group.gaChunk (y : Group) (v i q : Nat) : List Byte :=
  (List.range 32).map (fun n =>
    let b := 32 * q + n
    if b / 8 < y.nthr then BitVec.ofNat 8 (elem (y.rv (b / 8) (v + i)) (b % 8) 8) else 0)

/-! ### Elements, norms and cells (R195, R82, R197) -/

/-- The stored unit, in bits, and the format of an operand whose format register is `fr` (R195). -/
def opFormat (f : TFmt) (fr : Word) : Nat × Fmt :=
  if f.type = 12 then let m := fmtOfReg fr.toNat; (m.unit, m) else (16, fmtOf f.type)
/-- The elements of a step of 32 bytes (R75, R195). -/
def stepNums (unit : Nat) (m : Fmt) (l : List Byte) : List Num :=
  let n := ofLe l
  (List.range (256 / unit)).map (fun k => m.decode (bits n (unit * k) unit % 2 ^ m.width))
/-- An operand decoded: 64 rows of 8 steps. -/
abbrev Operand := List (List (List Num))
/-- An operand decoded from its chunks. -/
def operandOf (unit : Nat) (m : Fmt) (chunk : Nat → Nat → List Byte) : Operand :=
  (List.range 64).map (fun i => (List.range 8).map (fun q => stepNums unit m (chunk i q)))
/-- The bytes of row `i`, step `q` in scratchpad. -/
def State.tileChunk (s : State) (core : Nat) (d : Desc) (i q : Nat) : List Byte :=
  match d.chunk i q with | some a => s.spRead core a 32 | none => List.replicate 32 0
/-- Operand A of an instruction in flight, or B (`second`) (R193 to R195). -/
def State.operand (s : State) (x : Tile) (e : Inflight) (f : TFmt) (second : Bool) : Operand :=
  let (unit, m) := opFormat f (e.f.getD (if second then f.fb.toNat else f.fa.toNat) 0)
  if !second && gaOf f then
    match s.gaGroup x.block e.t f.ta.toNat with
    | some (y, v) => operandOf unit m (y.gaChunk v)
    | none => []
  else operandOf unit m (s.tileChunk x.core (descOf e.t (if second then f.tb.toNat else f.ta.toNat)))
/-- The cell of a row of A and a row of B: step sums exact and rounded once, added in ascending step order (R82, R83). -/
def cellValue (a b : List (List Num)) : Nat :=
  (a.zip b).foldl (fun s p =>
    addF32 s (fmtF32.round 0 (exactSum ((p.1.zip p.2).map (fun q => (Num.mul q.1 q.2).1)))).1) 0
/-- The 64 × 64 cells, by rows. -/
def productTile (a b : Operand) : List (List (BitVec 32)) :=
  a.map (fun ra => b.map (fun rb => BitVec.ofNat 32 (cellValue ra rb)))
/-- The sum of squares of a step. -/
def stepSquares (l : List Num) : Num := exactSum (l.map (fun v => (Num.mul v v).1))
/-- A step that holds ∞ or NaN. -/
def stepWild (l : List Num) : Bool := l.any (fun v => match v with | .fin .. => false | _ => true)
/-- The sidecar of a step: its norm rounded upward, +∞ where it holds ∞ or NaN (R197). -/
def normCode (l : List Num) : Nat :=
  if stepWild l then fmtF32.infCode false else (fmtF32.round 2 (stepSquares l).sqrt.1).1
/-- A sidecar value is at least the exact norm of its step, a NaN counting as `nan` (R205, R206). -/
def sideSound (nan : Bool) (code : Nat) (l : List Num) : Bool :=
  match fmtF32.decode code with
  | .nan _ => nan
  | .inf neg => !neg
  | .fin neg m e st =>
    let v : Num := .fin neg m e st
    !stepWild l && (!neg || m == 0) && (Num.mul v v).1.cmp (stepSquares l) != .lt
/-- The sidecar of row `i`, step `q` (R193). -/
def State.sideAt (s : State) (core side i q : Nat) : Nat := ofLe (s.spRead core (side + 32 * i + 4 * q) 4)

/-! ### Checks (R196) -/

/-- Check 1: the group of R194, and its register range. -/
def State.gaFailures (s : State) (x : Tile) (f : TFmt) : List Failure :=
  if !gaOf f then []
  else match s.gaGroup x.block x.t f.ta.toNat with
    | none => [failure 1 0x13 0 none]
    | some (y, v) =>
      if !s.gaParked x y then [failure 1 0x13 0 none]
      else if y.vregs ≤ v + 63 then [Failure.mk 1 { mkFault 0x05 0 none with code := BitVec.ofNat 32 (max v y.vregs) }]
      else if y.bad.any (fun r => match r with | .v _ k => v ≤ k && k < v + 64 | _ => false) then [failure 18 0x0D 0 none]
      else []
/-- A .sp failure as check 2 of R196. -/
def asTile (l : List Failure) : List Failure := l.map (fun e => { e with order := e.order + 1 })
/-- Global checks, and those of a first touch, come last (R196). -/
def asGlobal (l : List Failure) : List Failure := l.map (fun e => { e with order := e.order + 10 })
/-- Check 2 on an operand: every chunk has a place in a SCRATCH bank of the block (R149, R253). -/
def State.chunkFailures (s : State) (x : Tile) (d : Desc) : List Failure :=
  tileCells.flatMap (fun p => match d.chunk p.1 p.2 with
    | some a => asTile (s.spFailures x.core x.block a 32 none)
    | none => [failure 2 0x0E d.base none])
/-- Checks 2 and 3 on a sidecar, which is read or written: its range and its alignment (R193, R196). -/
def State.sideFailures (s : State) (x : Tile) (d : Desc) (write : Bool) : List Failure :=
  asTile (wrote write (s.spFailures x.core x.block d.side 2048 none)) ++
    (if d.side % 32 = 0 then [] else [failure 3 0x0F 0 none])
/-- The .sp spans of an operand's chunks. -/
def Desc.spans (d : Desc) : List (Nat × Nat) := tileCells.filterMap (fun p => (d.chunk p.1 p.2).map (fun a => (a, 32)))
/-- The .sp spans of a sidecar, row by row (R193). -/
def Desc.sideSpans (d : Desc) : List (Nat × Nat) := (List.range 64).map (fun i => (wrap64 (d.side + 32 * i), 32))
/-- What reading .sp spans would meet: a first-touch fill of empty mapped lines, and words that cannot be corrected (R167, R384). -/
def State.spansTouch (s : State) (x : Tile) (l : List (Nat × Nat)) : List Failure :=
  l.flatMap (fun q => asGlobal (s.touchFailures x.core q.1 q.2 none))
/-- Check 3 on a descriptor. -/
def Desc.failures (d : Desc) (ga : Bool) : List Failure := if d.ok ga then [] else [failure 3 0x0F 0 none]
/-- Check 4: the two formats have one storage unit (R195). -/
def formatFailures (x : Tile) (f : TFmt) : List Failure :=
  let u (k : Nat) : Nat := (fmtOfReg (x.f.getD k 0).toNat).unit
  if f.type = 12 && u f.fa.toNat != u f.fb.toNat then [failure 4 0x14 0 none] else []
/-- The checks of operand A, and of its sidecar where it is read. -/
def State.operandA (s : State) (x : Tile) (f : TFmt) (side : Bool) : List Failure :=
  let d := descOf x.t f.ta.toNat
  let ga := gaOf f
  s.gaFailures x f ++ d.failures ga ++ (if ga then [] else s.chunkFailures x d ++ s.spansTouch x d.spans) ++
    (if side then s.sideFailures x d false ++ s.spansTouch x d.sideSpans else [])
/-- The checks of operand B. -/
def State.operandB (s : State) (x : Tile) (f : TFmt) (side : Bool) : List Failure :=
  let d := descOf x.t f.tb.toNat
  d.failures false ++ s.chunkFailures x d ++ s.spansTouch x d.spans ++
    (if side then s.sideFailures x d false ++ s.spansTouch x d.sideSpans else [])

/-- The .sp spans of the operands and sidecars that an instruction reads. -/
def operandSpans (i : Instr) (t : Sparse Word) : List (Nat × Nat) :=
  let part (a : BitVec 5) (ga side : Bool) : List (Nat × Nat) :=
    let d := descOf t a.toNat
    (if ga then [] else d.spans) ++ (if side then d.sideSpans else [])
  match i with
  | .tnorm f => part f.ta (gaOf f) false
  | .mma f | .mmac f => part f.ta (gaOf f) false ++ part f.tb false false
  | .mmk f => part f.ta (gaOf f) true ++ part f.tb false true
  | _ => []
/-- The scratchpad lines that an instruction reads as it leaves issue: it waits in flight while one is empty (R153, R196). -/
def operandLines (i : Instr) (t : Sparse Word) (core : Nat) : List (Nat × Nat) :=
  ((operandSpans i t).flatMap (fun q => spLines core q.1 q.2)).eraseDups
/-- Every line that it still reads is full. -/
def State.operandsFull (s : State) (e : Inflight) : Bool := e.needs.all (fun l => s.isFull l.1 l.2)

/-! ### Winner lists as issue sees them (R202, R203) -/

/-- A winner list of a core. -/
def State.list (s : State) (core n : Nat) : WList := Sparse.get WList.empty (s.core core).lists n
/-- A winner list replaced. -/
def State.putList (s : State) (core n : Nat) (w : WList) : State :=
  let y := s.core core
  s.setCore core { y with lists := Sparse.put WList.empty y.lists n w }
/-- *k* and the floor link of a list after the instructions of the context in flight. -/
def State.listAhead (s : State) (x : Tile) (n : Nat) : Nat × Option Nat :=
  let w := s.list x.core n
  x.discarded.foldl (fun (a : Nat × Option Nat) e => match e.instr with
    | .wlinit f => if f.wn.toNat = n then (f.imm.toNat, none) else a
    | .wlflr f => if f.wn.toNat = n then (a.1, if f.mod.getLsbD 0 then some (f.imm.toNat % 16) else none) else a
    | _ => a) (w.k, w.floor)
/-- The block holds the queue and the lists of a core (R188). -/
def State.holdsMatrix (s : State) (core block : Nat) : Bool := (s.core core).holder == some block
/-- A winner list of a core cannot be corrected (R384). -/
def Core.badList (x : Core) (n : Nat) : Bool := x.bad.contains (.list n)
/-- The winner list whose contents an instruction reads. -/
def listRead? : Instr → Option Nat
  | .mmk f | .wlst f | .wlmrg f | .wlflr f => some f.wn.toNat
  | _ => none
/-- Check 5: the list is held by the block and, where asked, initialised (R196), and it can be read (R384). -/
def State.listFailures (s : State) (x : Tile) (n : Nat) (init : Bool) : List Failure :=
  (if s.holdsMatrix x.core x.block && (!init || (s.listAhead x n).1 != 0) then [] else [failure 5 0x15 0 none]) ++
    (if init && (s.core x.core).badList n then [failure 18 0x0D 0 none] else [])
/-- The sampled floor: the core's copy of the linked bound register as FP32, −∞ where it is a NaN or no link stands
(R204). -/
def State.sampleFloor (s : State) (x : Tile) (n : Nat) : Nat :=
  match (s.listAhead x n).2 with
  | none => 0xFF800000
  | some b =>
    let v := (s.bound x.core b).toNat % 2 ^ 32
    if (fmtF32.decode v).isNan then 0xFF800000 else v

/-! ### Issue (R196, R318) -/

/-- The *k*-th entries of the rows of a list (R202). -/
def WList.thetas (w : WList) : List (BitVec 32 × BitVec 32) := w.rows.map (fun r => (r[w.k - 1]?).getD unfilled)
/-- An instruction enters flight with the T and F values of its issue (R286) and the translations of the spans it uses
(R325). -/
def Tile.launchInto (x : Tile) (s : State) (i : Issue) (floor : Nat) (words : List (BitVec 32)) (spans : List (Nat × Nat)) : Tile :=
  { x with flight := x.flight ++ [Inflight.mk i.instr i.unit x.t x.f floor false [] words 0
      (s.leavesOf (s.ctxOf x.launch) spans) (operandLines i.instr x.t x.core) []
      (match i.instr with | .mmk f => (s.list x.core f.wn.toNat).thetas | _ => []) i.slot2] }
/-- The state as an instruction in flight sees it: its own translations, and the operand lines that it has been handed. -/
def State.asFlight (s : State) (x : Tile) (e : Inflight) : State :=
  { s.overlay e.got with trans := e.leaves.map (fun p => (s.ctxOf x.launch, p.1, p.2)) }
/-- Data that an instruction in flight reads at its commit point has gone bad since its issue: a scratchpad word that it was not handed at
a fill, a register of operand A, or the winner list; the address, or zero (R384). -/
def State.operandBad (s : State) (x : Tile) (e : Inflight) : Option Nat :=
  let handed (q : Nat × Nat) : Bool := (spLines x.core q.1 q.2).all (fun l => e.got.any (fun g => g.1 == l.1 && g.2.1 == l.2))
  if s.cores.all (fun p => p.2.bad.isEmpty) && s.groups.all (fun p => p.2.bad.isEmpty) then none
  else match (operandSpans e.instr e.t).find? (fun q => !handed q && !(s.sramFailures x.core q.1 q.2 none).isEmpty) with
    | some q => some q.1
    | none =>
      let regs := match e.instr with
        | .tnorm f | .mma f | .mmac f | .mmk f => gaOf f && (match s.gaGroup x.block e.t f.ta.toNat with
            | some (y, v) => y.bad.any (fun r => match r with | .v _ k => v ≤ k && k < v + 64 | _ => false)
            | none => false)
        | _ => false
      let list := match listRead? e.instr with | some n => (s.core x.core).badList n | none => false
      if regs || list then some 0 else none
/-- A context faults at an instruction in flight, which and the younger ones are discarded (R286, R384). -/
def State.faultAt (s : State) (t : Nat) (e : Inflight) (info : FaultInfo) : State :=
  s.faultTile t { info with slot2 := info.slot2 || e.slot2 } e.unit
/-- At most four instructions of a context are in flight (R196). -/
def State.inFlight (s : State) (t : Nat) (x : Tile) (k : State) : State :=
  if 4 ≤ x.flight.length then s.tileStall t x .flight else k
/-- An access to a bank that is being switched waits for the switch (R169). -/
def State.banksStill (s : State) (t : Nat) (x : Tile) (lines : List (Nat × Nat)) (k : State) : State :=
  match s.switchingOf (banksOf lines) with
  | some b => s.tileStall t x (.bank b.1 b.2)
  | none => k
/-- The lines that the sidecar which TNORM writes lies in. -/
def sideLines (x : Tile) (f : TFmt) : List (Nat × Nat) := spLines x.core (descOf x.t f.ta.toNat).side 2048
/-- The lease of a tile stream is asked for at its first matrix instruction, which waits for it (R196, R318). -/
def State.leased (s : State) (t : Nat) (x : Tile) (k : State) : State :=
  match x.lease with
  | .held => k
  | .asked => s.tileStall t x .lease
  | .none =>
    let d := dieOf x.core
    let y := s.die d
    (s.setDie d { y with asking := y.asking ++ [.tile t] }).tileStall t { x with lease := .asked } .lease
/-- The checks pass or the instruction faults. -/
def State.checked (s : State) (i : Issue) (t : Nat) (l : List Failure) (k : State) : State :=
  match firstFailure l with
  | some e => s.tileFail i t e
  | none => k
/-- ADVA and ADVB advance an operand's base by its tile pitch, modulo 2^64 (R193). -/
def Tile.advanceBase (x : Tile) (a : BitVec 5) : Tile :=
  x.wt a.toNat (BitVec.ofInt 64 ((x.rt a.toNat).toInt + (descOf x.t a.toNat).tpitch))
/-- The advances of MMA, MMAC and MMK (R189, R193). -/
def Tile.advances (x : Tile) (f : TFmt) : Tile :=
  let y := if f.mod.getLsbD 0 then x.advanceBase f.ta else x
  if f.mod.getLsbD 1 then y.advanceBase f.tb else y

/-! ### First-touch fills (R167, R257) -/

/-- The oldest instruction in flight that waits on a line, with its context. -/
def State.flightOn (s : State) (core line : Nat) : Option (Nat × Inflight) :=
  List.findSome? (fun (p : Nat × Tile) => (p.2.flight.find? (fun e => !e.applied && e.needs.contains (core, line))).map (fun e => (p.1, e))) s.tiles
/-- The context that waits at an instruction on a line. -/
def State.contextOn (s : State) (core line : Nat) : Option Nat :=
  (List.find? (fun (p : Nat × Tile) => p.2.wait == some (.image core line)) s.tiles).map (·.1)
/-- The bytes of a fill: those of the written mask stand, the others come from global memory, and the line is full (R257). -/
def State.fillMapped (s v : State) (core line c va : Nat) : State :=
  let mask := Sparse.get 0 (s.core core).mask line
  let l := v.vread c va 128
  let s1 := (List.range 128).foldl (fun s i =>
    if mask.getLsbD i then s else s.setSpByte core (line * 128 + i) (l.getD i 0)) s
  let filled := (List.range 16).filter (fun k => (List.range 8).all (fun i => !mask.getLsbD (8 * k + i)))
  ((s1.mendWords (filled.map (fun k => (core, line * 16 + k)))).hold c va 128).fillLine core line
/-- A load meets a failing check in the fill that it waits for: its group takes the fault at the load, which goes on waiting; a load
of an ended group fails; while the group is Faulted there is nothing to do (log entry 105). -/
def State.faultLoad (s : State) (r : OpRef) (va : Nat) (info : FaultInfo) : Option State :=
  match s.opAt? r with
  | none => none
  | some (x, o) => match x.status with
    | .ready => some (s.faultGroup r.group { info with thread := (threadsOf o.mask).head? } o.unit
        ((x.minTpc x.candidates).getD o.unit) o.mask)
    | .faulted .. => none
    | .ended => some (s.failOp r va)
/-- MAP_FILL: an empty mapped line that an access has touched is read from global memory, merged under its written mask and set
full (R167, R257). Loads touched it under the translation of their issue; where its bytes are lost they fail (R385). A page fault is
raised at the instruction that touches the line, in a group or in the tile stream. -/
def State.mapFill (s : State) (core line : Nat) : Option State :=
  match (s.core core).mapOf line with
  | none => none
  | some (_, m) =>
    let ws := s.waitersOn core line
    let c := s.ctxOf m.launch
    let va := m.va + (line * 128 - m.off)
    let under (r : OpRef) : State := s.as r.group r.op
    let fails (v : State) : List Failure := v.spanFailures c va 128 .read none none
    let lost (r : OpRef) : Bool := let l := fails (under r); !l.isEmpty && l.all (fun e => e.order == 8)
    if s.isFull core line then none
    else match ws.find? (fun r => (fails (under r)).isEmpty) with
      | some r => some (s.fillMapped (under r) core line c va)
      | none =>
        if ws.any lost then some (((ws.filter lost).foldl (fun s r => s.failOp r va) s).tidyStalled core)
        else if !ws.isEmpty then
          (ws.findSome? (fun r => (firstFailure (fails (under r))).bind (s.faultLoad r va))).map (·.tidyStalled core)
        else match s.flightOn core line, s.contextOn core line with
          | some (t, e), _ => (match firstFailure (fails s) with
            | none => some (s.fillMapped s core line c va)
            | some info => some (s.faultAt t e info))
          | none, some t =>
            if (fails s).isEmpty then some (s.fillMapped s core line c va)
            else (s.tile? t).map (fun y => s.setTile t { y with wait := none })
          | none, none => none
/-- MAP_FILL (R257). -/
def execMapFill (core line : Nat) (s : State) : Host.Outcome State Fault Refusal :=
  whenEnabled "MAP_FILL" (s.mapFill core line)

end Sys2Proof.Machine
end

