-- ==== Sys2Proof/Machine/Matrix.lean ====
section
/-!
DEFINITION. The matrix engine: TNORM, MMA, MMAC and MMK with their commit points, and AQPOP (R197 to R206, R286 to R290).
-/
namespace Sys2Proof.Machine

/-! ### Issue -/

/-- TNORM (R197). -/
def execTnorm (f : TFmt) (s : State) : Host.Outcome State Fault Refusal :=
  withTile s (fun i t x =>
    s.inFlight t x (s.leased t x (s.banksStill t x (operandLines i.instr x.t x.core ++ sideLines x f) (
      let d := descOf x.t f.ta.toNat
      s.checked i t (s.operandA x f false ++ s.sideFailures x d true) (s.tileDone i t (x.launchInto s i 0 [] []))))))

/-- MMA (R198). -/
def execMma (f : TFmt) (s : State) : Host.Outcome State Fault Refusal :=
  withTile s (fun i t x =>
    s.inFlight t x (s.leased t x (s.banksStill t x (operandLines i.instr x.t x.core) (
      s.checked i t (s.operandA x f false ++ s.operandB x f false ++ formatFailures x f ++
          (if s.holdsMatrix x.core x.block then [] else [failure 5 0x15 0 none]))
        (s.tileDone i t ((x.launchInto s i 0 [] []).advances f))))))

/-- The target of an MMAC: address, row pitch, tag, sequence number (R200). -/
structure Target where
  at_   : Nat
  pitch : Nat
  tag   : Nat
  n     : Nat
  top   : Nat
deriving DecidableEq, Repr
/-- The target as the T registers hold it (R200). -/
def targetOf (t : Sparse Word) (f : TFmt) : Target :=
  let c := f.tc.toNat
  Target.mk (tReg t c) (bits (tReg t (c + 1)) 0 24) (tReg t (c + 2)) (tReg t f.td.toNat) (bits (tReg t (c + 1)) 24 40)
/-- The limits of a target (R200). -/
def Target.ok (g : Target) : Bool :=
  g.at_ % 128 == 0 && g.pitch % 128 == 0 && 256 ≤ g.pitch && g.top == 0 && g.tag % 128 == 0 && g.n ≤ 1023
/-- The address of row `i` of the target (R200). -/
def Target.row (g : Target) (i : Nat) : Nat := wrap64 (g.at_ + i * g.pitch)
/-- The lines of the target tile, two for each row. -/
def Target.lines (g : Target) : List Nat := (List.range 128).map (fun k => wrap64 (g.row (k / 2) + 128 * (k % 2)))
/-- The global spans of a target. -/
def Target.spans (g : Target) : List (Nat × Nat) := (List.range 64).map (fun i => (g.row i, 256)) ++ [(g.tag, 128)]
/-- The checks of a span that is read and written in place (R151, R200, R384). -/
def State.addFailures (s : State) (c va n : Nat) : List Failure :=
  asGlobal (s.spanFailures c va n .write (some false) none ++
    (s.spanFailures c va n .read none none).filter (fun e => e.order == 8))

/-- MMAC (R200). -/
def execMmac (f : TFmt) (s : State) : Host.Outcome State Fault Refusal :=
  withTile s (fun i t x =>
    s.inFlight t x (s.leased t x (s.banksStill t x (operandLines i.instr x.t x.core) (
      let c := s.ctxOf x.launch
      let g := targetOf x.t f
      s.checked i t (s.operandA x f false ++ s.operandB x f false ++ (if g.ok then [] else [failure 3 0x0F 0 none]) ++
          formatFailures x f ++ g.spans.flatMap (fun p => s.addFailures c p.1 p.2))
        (((g.spans.foldl (fun s p => s.hold c p.1 p.2) s)).tileDone i t ((x.launchInto s i 0 [] g.spans).advances f))))))

/-- Check 5 on the column base of an MMK (R204). -/
def columnFailures (g0 : Nat) : List Failure := if g0 + 63 < 0xFFFFFFFF then [] else [failure 5 0x15 0 none]

/-- MMK (R204, R206). -/
def execMmk (f : TFmt) (s : State) : Host.Outcome State Fault Refusal :=
  withTile s (fun i t x =>
    s.inFlight t x (s.leased t x (s.banksStill t x (operandLines i.instr x.t x.core) (
      s.checked i t (s.operandA x f true ++ s.operandB x f true ++ formatFailures x f ++
          s.listFailures x f.wn.toNat true ++ columnFailures (tReg x.t f.tc.toNat))
        (s.tileDone i t ((x.launchInto s i (s.sampleFloor x f.wn.toNat) [] []).advances f))))))

/-! ### What they do at their commit points (R286) -/

/-- TNORM writes the sidecar, and every line of which it writes a byte becomes full (R197). -/
def State.commitTnorm (s : State) (x : Tile) (e : Inflight) (f : TFmt) : State :=
  let d := descOf e.t f.ta.toNat
  let l := ((s.overlay e.got).operand x e f false).flatMap (fun row => row.flatMap (fun st => leBytes 4 (normCode st)))
  (s.spWrite x.core d.side l).fillSpans x.core [(d.side, 2048)]

/-- MMA: the 64 rows enter the queue together, when at least 64 rows are free (R198, R287). -/
def State.commitMma (s : State) (x : Tile) (e : Inflight) (f : TFmt) : Option State :=
  let y := s.core x.core
  let v := s.overlay e.got
  if 192 < y.queue.length then none
  else some (s.setCore x.core { y with queue := y.queue ++ productTile (v.operand x e f false) (v.operand x e f true) })

/-- The first sidecar of an operand below its norm, or a NaN: row and step (R206). -/
def State.firstUnsound (s : State) (core side : Nat) (o : Operand) : Option (Nat × Nat) :=
  tileCells.find? (fun p => !sideSound false (s.sideAt core side p.1 p.2) ((o.getD p.1 []).getD p.2 []))
/-- Every sidecar of one row of an operand is sound, a NaN counting as +∞ (R205, R290). -/
def State.rowSound (s : State) (core side : Nat) (o : Operand) (i : Nat) : Bool :=
  (List.range 8).all (fun q => sideSound true (s.sideAt core side i q) ((o.getD i []).getD q []))
/-- Round(f32, ·, rp) (R205). -/
def upF32 (x : Num) : Num := fmtF32.decode (fmtF32.round 2 x).1
/-- A sidecar value in a bound: a NaN counts as +∞ (R205). -/
def sideNum (code : Nat) : Num := let v := fmtF32.decode code; if v.isNan then .inf false else v
/-- The suffix norm of a row from step `q` on, from its eight sidecars (R205). -/
def suffixNorm (side : List Nat) (q : Nat) : Num :=
  upF32 (exactSum ((side.drop q).map (fun c => upF32 (Num.mul (sideNum c) (sideNum c)).1))).sqrt.1
/-- *U* for a running sum with `m` steps remaining and the suffix norms of its row of A and of B (R205). -/
def boundU (run : Nat) (na nb : Num) (m : Nat) : Num :=
  let v := fmtF32.decode run
  let mag : Num := match v with | .fin _ a e st => .fin false a e st | .inf _ => .inf false | .nan sig => .nan sig
  let part (k : Nat) : Num := .fin false k (-23) false
  let grow : Num := .fin false (2 ^ 23 + m + 1) (-23) false
  upF32 (exactSum [v, (Num.mul (Num.mul na nb).1 grow).1, (Num.mul (part m) mag).1])
/-- The running sum of a cell before step `q`. -/
def runningSum (a b : List (List Num)) (q : Nat) : Nat := cellValue (a.take q) (b.take q)
/-- The tests of R205 on a cell with index `g`, against the floor and the *k*-th entry of its row, would abandon it before some
step from 1 to 7. -/
def abandons (floor : Nat) (last : Entry) (g : Nat) (a b : List (List Num)) (sideA sideB : List Nat) : Bool :=
  (List.range 7).any (fun k =>
    let q := k + 1
    let u := boundU (runningSum a b q) (suffixNorm sideA q) (suffixNorm sideB q) (8 - q)
    let theta := fmtF32.decode last.2.toNat
    !u.isNan && (u.cmp (fmtF32.decode floor) == .lt || u.cmp theta == .lt || (u.cmp theta == .eq && last.1.toNat < g)))
/-- A value is at or above the floor (R204). -/
def aboveFloor (f v : Nat) : Bool := (fmtF32.decode v).cmp (fmtF32.decode f) != .lt
/-- A count that saturates at 2^32 − 1 (R202). -/
def satAdd (a b : BitVec 32) : BitVec 32 := BitVec.ofNat 32 (min (2 ^ 32 - 1) (a.toNat + b.toNat))
/-- One cell is offered to its row: counted if it is a NaN, entered if it is at or above the floor and better than the *k*-th
entry (R204). -/
def offerCell (k floor : Nat) (acc : BitVec 32 × List Entry) (g : Nat) (v : BitVec 32) : BitVec 32 × List Entry :=
  if (fmtF32.decode v.toNat).isNan then (satAdd acc.1 1, acc.2)
  else if aboveFloor floor v.toNat then (acc.1, offerEntry k acc.2 (BitVec.ofNat 32 g, v))
  else acc
/-- The cells of a row, columns ascending, `skip` telling those that are left out. -/
def offerRow (k floor g0 : Nat) (skip : Nat → Bool) (acc : BitVec 32 × List Entry) (row : List (BitVec 32)) :
    BitVec 32 × List Entry :=
  (row.mapIdx (fun j v => (j, v))).foldl (fun (a : BitVec 32 × List Entry) p =>
    if skip p.1 then a else offerCell k floor a (g0 + p.1) p.2) acc
/-- A winner list after the cells of a product tile (R204). -/
def WList.select (w : WList) (floor g0 : Nat) (skip : Nat → Nat → Bool) (cells : List (List (BitVec 32))) : WList :=
  let out := (cells.mapIdx (fun i row => (i, row))).map (fun (p : Nat × List (BitVec 32)) =>
    offerRow w.k floor g0 (skip p.1) (w.nans.getD p.1 0, w.rows.getD p.1 []) p.2)
  { w with nans := out.map (·.1), rows := out.map (·.2) }
/-- The test of R205 on a cell abandons it, against the floor of the instruction and the *k*-th entry given for its row, where a sidecar
of the row or the column is unsound; `.audit` abandons nothing (R206). -/
def State.abandoned (s : State) (x : Tile) (e : Inflight) (f : TFmt) (a b : Operand) (theta : List Entry) (i j : Nat) : Bool :=
  let sideA := (descOf e.t f.ta.toNat).side
  let sideB := (descOf e.t f.tb.toNat).side
  let sides (side r : Nat) : List Nat := (List.range 8).map (s.sideAt x.core side r)
  !f.mod.getLsbD 2 && !(s.rowSound x.core sideA a i && s.rowSound x.core sideB b j) &&
    abandons e.floor ((theta[i]?).getD unfilled) (tReg e.t f.tc.toNat + j) (a.getD i []) (b.getD j [])
      (sides sideA i) (sides sideB j)
/-- The cells of an MMK that are not inserted: those which the test abandons against the entries that stood at its issue, and of those
which it abandons only against the entries at its commit the ones tested late enough, which is free (R289, R290; log entry 11). -/
def State.misses (s : State) (x : Tile) (e : Inflight) (f : TFmt) (a b : Operand) (w : WList) (i j : Nat) : Bool :=
  s.abandoned x e f a b e.theta i j || (s.abandoned x e f a b w.thetas i j && Config.columnMissed s.stepNo i j)
/-- MMK: the selection of R204; over unsound sidecars a column may be missing (R205); `.audit` abandons nothing and records
the first violation (R206). -/
def State.commitMmk (s : State) (x : Tile) (e : Inflight) (f : TFmt) : State :=
  let n := f.wn.toNat
  let w := s.list x.core n
  let v := s.overlay e.got
  let a := v.operand x e f false
  let b := v.operand x e f true
  let w1 := w.select e.floor (tReg e.t f.tc.toNat) (v.misses x e f a b w) (productTile a b)
  let found : Option (Nat × Nat × Nat) :=
    match v.firstUnsound x.core (descOf e.t f.ta.toNat).side a with
    | some p => some (0, p.1, p.2)
    | none => (v.firstUnsound x.core (descOf e.t f.tb.toNat).side b).map (fun p => (1, p.1, p.2))
  s.putList x.core n (if f.mod.getLsbD 2 && w.audit.isNone then { w1 with audit := found } else w1)

/-! ### MMAC: the tag step and the lines (R201) -/

/-- The entry of a context's flight that is next to commit, and those around it. -/
def Tile.nextCommit (x : Tile) : Option Inflight := x.discarded.head?
/-- The flight without its oldest uncommitted instruction. -/
def dropFirst (k : Inflight → Bool) : List Inflight → List Inflight
  | [] => []
  | e :: r => if k e then r else e :: dropFirst k r
/-- The flight with its oldest uncommitted instruction changed. -/
def changeFirst (k : Inflight → Bool) (h : Inflight → Inflight) : List Inflight → List Inflight
  | [] => []
  | e :: r => if k e then h e :: r else e :: changeFirst k h r
/-- The context takes part in steps of its instructions: it is resident and has not ended. -/
def Tile.live (x : Tile) : Bool := x.resident && x.status != .ended

/-- MMAC_TAG_STEP: at the tag's home the contribution is dropped, held, or recorded and released to the line homes (R201); a tag
that is lost, or an operand that has gone bad, faults the context at the instruction, before its commit point (R384). -/
def State.tagStep (s : State) (t : Nat) : Option State :=
  match s.tile? t with
  | none => none
  | some x =>
    match x.nextCommit with
    | none => none
    | some e => match e.instr with
      | .mmac f =>
        if !x.live || !s.operandsFull e then none
        else
          let c := s.ctxOf x.launch
          let g := targetOf e.t f
          let v := s.asFlight x e
          let tag := v.vnum c g.tag 128
          let drop : State := s.setTile t { x with flight := dropFirst (fun d => !d.applied) x.flight }
          if (v.spanFailures c g.tag 128 .read none none).any (fun p => p.order == 8) then
            some (s.faultAt t e (mkFault 0x0D g.tag none))
          else if bitAt tag g.n then some drop
          else if f.mod.getLsbD 3 && tag % 2 ^ g.n != 2 ^ g.n - 1 then none
          else match s.operandBad x e with
          | some a => some (s.faultAt t e (mkFault 0x0D a none))
          | none =>
            let sums := (productTile (v.operand x e f false) (v.operand x e f true)).flatten
            let go (d : Inflight) : Inflight := { d with applied := true, lines := g.lines, words := sums, release := s.stepNo }
            some ({ { s with trans := v.trans }.vsetNum c g.tag 128 (tag + 2 ^ g.n) with trans := s.trans }.setTile t
              { x with flight := changeFirst (fun d => !d.applied) go x.flight })
      | _ => none
/-- MMAC_TAG_STEP (R201). -/
def execMmacTagStep (tile : Nat) (s : State) : Host.Outcome State Fault Refusal :=
  whenEnabled "MMAC_TAG_STEP" (s.tagStep tile)

/-- A contribution released earlier has still to reach a physical line (R201). -/
def State.earlierOn (s : State) (line release : Nat) : Bool :=
  s.tiles.any (fun p => p.2.flight.any (fun d =>
    d.applied && d.release < release && d.lines.any (fun l => (s.asFlight p.2 d).pa? (s.ctxOf p.2.launch) l == some line)))
/-- The sums of line `l` of a contribution. -/
def Inflight.sumsOn (e : Inflight) (g : Target) (l : Nat) : List (BitVec 32) :=
  ((e.words.drop (32 * (g.lines.takeWhile (· != l)).length)).take 32)
/-- A line of a contribution is added element by element (R84, R201); of a line that is lost the sum is lost too, and it stays
lost (R386). -/
def State.addLine (s : State) (c l : Nat) (sums : List (BitVec 32)) : State :=
  if (s.spanFailures c l 128 .read none none).any (fun p => p.order == 8) then s
  else s.vwrite c l ((sums.mapIdx (fun k v => (k, v))).flatMap (fun (p : Nat × BitVec 32) =>
    leBytes 4 (addF32 (s.vnum c (wrap64 (l + 4 * p.1)) 4) p.2.toNat)))
/-- MMAC_LINE_APPLY: the oldest released contribution of the context with a line left applies it, in release order at the
line's home; with its last line it completes (R201). -/
def State.lineApply (s : State) (t line : Nat) : Option State :=
  match s.tile? t with
  | none => none
  | some x =>
    let has (d : Inflight) : Bool := d.applied && d.lines.contains line
    match x.flight.find? has with
    | none => none
    | some e => match e.instr with
      | .mmac f =>
        let c := s.ctxOf x.launch
        let v := s.asFlight x e
        match v.pa? c line with
        | none => none
        | some pa =>
          if s.earlierOn pa e.release then none
          else
            let s1 : State := { { s with trans := v.trans }.addLine c line (e.sumsOn (targetOf e.t f) line) with trans := s.trans }
            let rest := e.lines.erase line
            let l := if rest.isEmpty then dropFirst has x.flight
              else changeFirst has (fun (d : Inflight) => { d with lines := rest }) x.flight
            some (s1.setTile t { x with flight := l })
      | _ => none
/-- MMAC_LINE_APPLY (R201). -/
def execMmacLineApply (tile line : Nat) (s : State) : Host.Outcome State Fault Refusal :=
  whenEnabled "MMAC_LINE_APPLY" (s.lineApply tile line)

/-! ### AQPOP (R199) -/

/-- No group that waits at the queue came before this one (R199). -/
def State.popTurn (s : State) (core g : Nat) : Bool :=
  let ahead := (s.core core).poppers.takeWhile (· != g)
  (s.waitingPoppers core).all (fun h => !ahead.contains h)
/-- The group stands in the list of those that wait. -/
def State.queuePopper (s : State) (core g : Nat) : State :=
  let y := s.core core
  if y.poppers.contains g then s else s.setCore core { y with poppers := y.poppers ++ [g] }
/-- A row given to the enabled threads: columns 2*t* and 2*t* + 1 to thread *t* (R199). -/
def Group.takeRow (x : Group) (d : Nat) (ts : List Nat) (row : List (BitVec 32)) : Group :=
  ts.foldl (fun y t => y.wv t d (BitVec.ofNat 64 ((row.getD (2 * t) 0).toNat + (row.getD (2 * t + 1) 0).toNat * 2 ^ 32))) x

/-- AQPOP (R199). -/
def execAqpop (f : VFmt) (s : State) : Host.Outcome State Fault Refusal :=
  withGroup s (fun i g x =>
    let ts := x.enabledSet f.g i.active 0
    let y := s.core x.core
    if ts.isEmpty then s.complete i g x
    else if !s.holdsMatrix x.core x.block then s.failFor i g (mkFault 0x15 0 none) (maskOf ts)
    else match y.queue with
      | row :: rest =>
        if s.popTurn x.core g then
          if y.badRow then s.failFor i g (mkFault 0x0D 0 none) (maskOf ts)
          else (s.setCore x.core { y.popRow rest with poppers := y.poppers.filter (· != g) }).complete i g
            (x.takeRow f.d.toNat ts row)
        else (s.queuePopper x.core g).stall g .queue
      | [] => (s.queuePopper x.core g).stall g .queue)

end Sys2Proof.Machine
end

