-- ==== Sys2Proof/Machine/Winner.lean ====
section
/-!
DEFINITION. Winner lists: WLINIT, WLFLR, WLST, WLMRG and WLRD, and the commit point of matrix and winner-list instructions
(R202, R203, R207, R208, R286).
-/
namespace Sys2Proof.Machine

/-! ### Issue (R203, R207) -/

/-- WLINIT (R203). -/
def execWlinit (f : TFmt) (s : State) : Host.Outcome State Fault Refusal :=
  withTile s (fun i t x =>
    s.inFlight t x (s.checked i t (s.listFailures x f.wn.toNat false) (s.tileDone i t (x.launchInto s i 0 [] []))))

/-- WLFLR: linking or unlinking the floor of an initialised list (R203). -/
def execWlflr (f : TFmt) (s : State) : Host.Outcome State Fault Refusal :=
  withTile s (fun i t x =>
    s.inFlight t x (s.checked i t (s.listFailures x f.wn.toNat true) (s.tileDone i t (x.launchInto s i 0 [] []))))

/-- SP: the image is on path .sp (R189). -/
def imageSp (f : TFmt) : Bool := f.mod.getLsbD 0
/-- Bytes of the image of a list of `k` entries a row (R207). -/
def imageBytes (k : Nat) : Nat := 0x140 + 8 * k * 64
/-- The failing checks of a span of an image: SP_MAP, or those of global memory (R196). -/
def State.imageFailures (s : State) (x : Tile) (sp write : Bool) (a n : Nat) : List Failure :=
  if sp then
    asTile (wrote write (s.spFailures x.core x.block a n none)) ++ (if write then [] else asGlobal (s.touchFailures x.core a n none))
  else if write then asGlobal (s.spanFailures (s.ctxOf x.launch) a n .write (some false) none ++
    (match s.badSpan (s.ctxOf x.launch) a n false with | some b => wrote true [failure 8 0x0D b none] | none => []))
  else asGlobal (s.spanFailures (s.ctxOf x.launch) a n .read none none)
/-- The address of an image is a multiple of 64 (R207). -/
def imageAligned (a : Nat) : List Failure := if a % 64 = 0 then [] else [failure 3 0x0F a none]
/-- The first line of a .sp span that is empty and has not been handed to the context at a fill (R153, R256). -/
def State.emptyIn (s : State) (x : Tile) (a n : Nat) : Option (Nat × Nat) :=
  (spLines x.core a n).find? (fun l => !s.isFull l.1 l.2 && !x.got.any (fun e => e.1 == l.1 && e.2.1 == l.2))

/-- The lines of an image on path .sp. -/
def imageLines (x : Tile) (f : TFmt) (a n : Nat) : List (Nat × Nat) := if imageSp f then spLines x.core a n else []

/-- WLST (R207). -/
def execWlst (f : TFmt) (s : State) : Host.Outcome State Fault Refusal :=
  withTile s (fun i t x =>
    s.inFlight t x (
      let a := tReg x.t f.ta.toNat
      let n := imageBytes (s.listAhead x f.wn.toNat).1
      s.banksStill t x (imageLines x f a n) <| s.checked i t (s.imageFailures x (imageSp f) true a n ++ imageAligned a ++ s.listFailures x f.wn.toNat true)
        ((if imageSp f then s else s.hold (s.ctxOf x.launch) a n).tileDone i t
          (x.launchInto s i 0 [] (if imageSp f then [] else [(a, n)])))))

/-- Bytes of an image. -/
def State.imageRead (s : State) (x : Tile) (sp : Bool) (a n : Nat) : List Byte :=
  if sp then (s.overlay x.got).spRead x.core a n else s.vread (s.ctxOf x.launch) a n
/-- A list of bytes as 32-bit words. -/
def words32 (n : Nat) (l : List Byte) : List (BitVec 32) :=
  (List.range n).map (fun k => BitVec.ofNat 32 (numAt l (4 * k) 4))
/-- The image is read whole at issue, or the context waits for a line of it that is empty (R153, R207). -/
def State.takeImage (s : State) (i : Issue) (t : Nat) (x : Tile) (f : TFmt) (a n : Nat) : State :=
  match (if imageSp f then s.emptyIn x a n else none) with
  | some l => s.tileStall t x (.image l.1 l.2)
  | none =>
    (if imageSp f then s else s.hold (s.ctxOf x.launch) a n).tileDone i t
      (x.launchInto s i (s.sampleFloor x f.wn.toNat) (words32 (n / 4) (s.imageRead x (imageSp f) a n)) [])

/-- WLMRG: the header is read first, for its K; a WLST in flight comes before it (R196, R207). -/
def execWlmrg (f : TFmt) (s : State) : Host.Outcome State Fault Refusal :=
  withTile s (fun i t x =>
    s.inFlight t x (
      let a := tReg x.t f.ta.toNat
      let sp := imageSp f
      let lists := s.listFailures x f.wn.toNat true
      let header := s.imageFailures x sp false a 64 ++ imageAligned a
      if x.flight.any (fun e => match e.instr with | .wlst _ => true | _ => false) then s.tileStall t x .stored
      else s.banksStill t x (imageLines x f a 64) <| if !header.isEmpty then s.checked i t (header ++ lists) s
      else match (if sp then s.emptyIn x a 64 else none) with
        | some l => s.tileStall t x (.image l.1 l.2)
        | none =>
          let k := ofLe (s.imageRead x sp a 4)
          if !(1 ≤ k && k ≤ 32) then s.checked i t [failure 3 0x0F a none] s
          else s.banksStill t x (imageLines x f a (imageBytes k)) <| s.checked i t (s.imageFailures x sp false a (imageBytes k) ++ lists)
            (s.takeImage i t x f a (imageBytes k))))

/-! ### Effects (R203, R207) -/

/-- A list initialised with `k` (R203). -/
def WList.init (k : Nat) : WList :=
  WList.mk k (List.replicate 64 (List.replicate k unfilled)) (List.replicate 64 0) none none
/-- The bytes of a stored image (R207). -/
def WList.image (w : WList) : List Byte :=
  let au : List Byte := match w.audit with
    | some (o, r, q) => leBytes 4 1 ++ leBytes 4 o ++ leBytes 4 r ++ leBytes 4 q
    | none => List.replicate 16 0
  leBytes 4 w.k ++ au ++ leBytes 4 (match w.floor with | some b => 2 ^ 31 + b % 16 | none => 0) ++ List.replicate 40 0 ++
    w.nans.flatMap (fun n => leBytes 4 n.toNat) ++
    w.rows.flatMap (fun r => r.flatMap (fun e => leBytes 4 e.1.toNat ++ leBytes 4 e.2.toNat))
/-- One entry of an image is offered to a row, unless it is unfilled, a NaN, or its index stands in the row (R207). -/
def mergeEntry (k floor : Nat) (row : List Entry) (e : Entry) : List Entry :=
  if e = unfilled || (fmtF32.decode e.2.toNat).isNan || row.any (fun d => d.1 == e.1) || !aboveFloor floor e.2.toNat then row
  else offerEntry k row e
/-- A stored image merged into a list (R207). -/
def WList.merge (w : WList) (floor : Nat) (m : List (BitVec 32)) : WList :=
  let ki := (m.getD 0 0).toNat
  let entry (r e : Nat) : Entry := (m.getD (80 + 2 * (ki * r + e)) 0, m.getD (81 + 2 * (ki * r + e)) 0)
  { w with
    nans := w.nans.mapIdx (fun r n => satAdd n (m.getD (16 + r) 0))
    rows := w.rows.mapIdx (fun r row => ((List.range ki).map (entry r)).foldl (mergeEntry w.k floor) row)
    audit := if w.audit.isNone && (m.getD 1 0).getLsbD 0 then
        some ((m.getD 2 0).toNat, (m.getD 3 0).toNat, (m.getD 4 0).toNat) else w.audit }
/-- WLST: the whole image (R207, R255). -/
def State.commitWlst (s : State) (x : Tile) (e : Inflight) (f : TFmt) : State :=
  let a := tReg e.t f.ta.toNat
  let l := (s.list x.core f.wn.toNat).image
  if imageSp f then (s.spWrite x.core a l).fillSpans x.core [(a, l.length)]
  else { { s with trans := (s.asFlight x e).trans }.vwrite (s.ctxOf x.launch) a l with trans := s.trans }

/-- A winner list that is written whole is encoded anew (R382, R384). -/
def State.mendList (s : State) (core n : Nat) : State :=
  let y := s.core core
  if y.bad.contains (.list n) then s.setCore core { y with bad := y.bad.filter (· != .list n) } else s
/-- A list that is initialised again has lost the entries that the instructions in flight on it met at their issue (R289). -/
def State.forgetThetas (s : State) (core n : Nat) : State :=
  let forget (e : Inflight) : Inflight := match e.instr with
    | .mmk f => if f.wn.toNat = n then { e with theta := [] } else e
    | _ => e
  { s with tiles := s.tiles.map (fun p => (p.1, if p.2.core = core then { p.2 with flight := p.2.flight.map forget } else p.2)) }
/-- What an instruction does at its commit point; an MMAC has its own step (R286). -/
def State.commitEffect (s : State) (x : Tile) (e : Inflight) : Option State :=
  match e.instr with
  | .tnorm f => some (s.commitTnorm x e f)
  | .mma f => s.commitMma x e f
  | .mmk f => some (s.commitMmk x e f)
  | .wlinit f => some (((s.putList x.core f.wn.toNat (WList.init f.imm.toNat)).mendList x.core f.wn.toNat).forgetThetas x.core f.wn.toNat)
  | .wlflr f =>
    let w := s.list x.core f.wn.toNat
    some (s.putList x.core f.wn.toNat { w with floor := if f.mod.getLsbD 0 then some (f.imm.toNat % 16) else none })
  | .wlst f => some (s.commitWlst x e f)
  | .wlmrg f => some (s.putList x.core f.wn.toNat ((s.list x.core f.wn.toNat).merge e.floor e.words))
  | _ => none

/-- MATRIX_COMMIT: the oldest uncommitted instruction of a context reaches its commit point, with every operand line full, and leaves
flight (R196, R286); where data that it reads has gone bad since its issue the context faults at it (R384). -/
def State.matrixCommit (s : State) (t : Nat) : Option State :=
  match s.tile? t with
  | none => none
  | some x => match x.nextCommit with
    | none => none
    | some e =>
      if !x.live || !s.operandsFull e then none
      else (s.commitEffect x e).bind (fun s1 => match s.operandBad x e with
        | some a => some (s.faultAt t e (mkFault 0x0D a none))
        | none => (s1.tile? t).map (fun y => s1.setTile t { y with flight := dropFirst (fun d => !d.applied) y.flight }))
/-- MATRIX_COMMIT (R286). -/
def execMatrixCommit (tile : Nat) (s : State) : Host.Outcome State Fault Refusal :=
  whenEnabled "MATRIX_COMMIT" (s.matrixCommit tile)

/-! ### WLRD (R208) -/

/-- WLRD: entry *t* of a row to each enabled thread *t* (R208). -/
def execWlrd (f : VFmt) (s : State) : Host.Outcome State Fault Refusal :=
  withGroup s (fun i g x =>
    let ts := x.enabledSet f.g i.active 0
    let w := s.list x.core f.subop.toNat
    if ts.isEmpty then s.complete i g x
    else if !s.holdsMatrix x.core x.block || w.k = 0 then s.failFor i g (mkFault 0x15 0 none) (maskOf ts)
    else if (s.core x.core).badList f.subop.toNat then s.failFor i g (mkFault 0x0D 0 none) (maskOf ts)
    else
      let row := w.rows.getD f.xa.toNat []
      s.complete i g (ts.foldl (fun y t =>
        let e := row.getD t unfilled
        y.wv t f.d.toNat (BitVec.ofNat 64 (e.1.toNat + e.2.toNat * 2 ^ 32))) x))

end Sys2Proof.Machine
end

