-- ==== Sys2Proof/Machine/Launch.lean ====
section
/-!
DEFINITION. Launches: records, kernel descriptors and set tables, the refusal checks, identities, the two kinds of queue,
the end of a launch and its ageing (R109, R306 to R309, R312 to R317).
-/
namespace Sys2Proof.Machine

/-! ### Launch records (R306 to R308) -/

/-- Bytes of a span that can be read through a context's translation, none where a page fault would arise (R309). -/
def State.readable (s : State) (c va n : Nat) : Option (List Byte) :=
  if (s.spanFailures c va n .read none none).isEmpty then some (s.vread c va n) else none

/-- The limits of a launch record (R306). -/
def recordOk (l : List Byte) : Bool :=
  let ctl := numAt l 0x34 4
  let ndep := bits ctl 7 2
  let ntab := bits ctl 9 9
  bits (numAt l 0 8) 53 11 == 0 && (ntab == 0 || numAt l 8 8 % 4 == 0) && numAt l 0x10 8 % 64 == 0 &&
    numAt l 0x20 8 % 8 == 0 && numAt l 0x28 8 % 16 == 0 && numAt l 0x30 4 != 0 && ndep ≤ 2 && ntab ≤ 256 &&
    bits ctl 18 14 == 0 && (2 ≤ ndep || numAt l 0x3C 4 == 0) && (1 ≤ ndep || numAt l 0x38 4 == 0)
/-- The limits of a kernel descriptor (R307). -/
def descriptorOk (l : List Byte) : Bool :=
  let vregs := numAt l 0x28 2
  let thr := numAt l 0x2A 1
  let streams := numAt l 0x2B 1
  let groups := numAt l 0x2C 4
  numAt l 0 8 % 4 == 0 && 64 ≤ vregs && vregs ≤ 2048 && vregs % 64 == 0 && 1 ≤ thr && thr ≤ 32 && bits streams 4 4 == 0 &&
    (List.range 4).all (fun k => bitAt streams k || numAt l (8 + 8 * k) 8 == 0) && 1 ≤ groups && groups ≤ 2048 &&
    numAt l 0x30 4 &&& numAt l 0x34 4 == 0 && bits (numAt l 0x38 4) 1 31 == 0 && numAt l 0x3C 4 == 0

/-- One entry of a set table: none where it breaks a limit (R308). -/
def State.setEntry (s : State) (c base streams groups w : Nat) : Option SetDef :=
  let ctx := bits w 24 4
  let n := bits w 16 8
  if bits w 28 4 != 0 || ctx &&& streams != ctx then none
  else
    let words : Option (List Byte) := if n = 0 then some [] else s.readable c (wrap64 (base + 4 * (w % 65536))) (4 * n)
    match words with
    | none => none
    | some l =>
      let rs := (List.range n).map (fun k => numAt l (4 * k) 4)
      if rs.all (fun r => bits r 27 5 == 0 && bits r 11 5 == 0 && bits r 0 11 ≤ bits r 16 11 && decide (bits r 16 11 < groups)) then
        some (SetDef.mk (rs.map (fun r => (bits r 0 11, bits r 16 11))) ((List.range 4).filter (bitAt ctx)))
      else none
/-- No group is in more than four sets (R242, R309). -/
def fourSets (groups : Nat) (l : List SetDef) : Bool :=
  (List.range groups).all (fun g => (l.filter (fun d => d.hasGroup g)).length ≤ 4)
/-- The set table of a launch, read once; none where it is malformed or cannot be read (R308, R309). -/
def State.setTable (s : State) (c base streams groups : Nat) : Option (Sparse SetDef) :=
  if base = 0 then some []
  else match s.readable c base 1024 with
    | none => none
    | some l =>
      let es := (List.range 256).map (fun k => s.setEntry c base streams groups (numAt l (4 * k) 4))
      let ds := es.filterMap id
      if es.any (·.isNone) || !fourSets groups ds then none
      else some (((List.range 256).zip ds).foldl (fun m p => Sparse.put (SetDef.mk [] []) m p.1 p.2) [])
/-- The initial S registers, none where they cannot be read (R306). -/
def State.readSinit (s : State) (c a : Nat) : Option (Sparse Word) :=
  if a = 0 then some []
  else (s.readable c a 1024).map (fun l =>
    (List.range 128).foldl (fun m k => Sparse.put 0 m k (BitVec.ofNat 64 (numAt l (8 * k) 8))) [])

/-- What is known of a launch from its record alone, as yet without an identity; breakpoints and debug readback are as its context
has them now (R398). -/
def launchOf (c : Nat) (x : Ctx) (now : Nat) (l : List Byte) : Launch where
  ctx := c
  lid := 0
  entry := BitVec.ofNat 53 (numAt l 0 8)
  tables := numAt l 8 8
  ntab := bits (numAt l 0x34 4) 9 9
  seed := BitVec.ofNat 64 (numAt l 0x18 8)
  sinit := []
  done := numAt l 0x28 8
  blocks := numAt l 0x30 4
  prio := bits (numAt l 0x34 4) 0 3
  coop := bitAt (numAt l 0x34 4) 3
  garnet := bitAt (numAt l 0x34 4) 4
  strict := bitAt (numAt l 0x34 4) 5
  irq := bitAt (numAt l 0x34 4) 6
  deps := (List.range (bits (numAt l 0x34 4) 7 2)).map (fun k => BitVec.ofNat 32 (numAt l (0x38 + 4 * k) 4))
  vregs := 0
  nthr := 0
  ngroups := 0
  streams := []
  tsentry := []
  scrMask := 0
  fifoMask := 0
  matrix := false
  sets := []
  bken := x.bken
  readback := x.readback
  next := 0
  placed := 0
  finished := 0
  boost := 0
  waitFrom := now
  doom := none
  outcome := none
  endDie := 0
/-- The launch with its kernel descriptor, set table and initial values; none where check 2 of R309 fails. Initial values that cannot be
read fail it too (DESIGN CHOICE, log entry 35), and of a TSENTRY only bits 52:0 are kept (DESIGN CHOICE, log entry 100). -/
def State.fullLaunch (s : State) (c : Nat) (x : Ctx) (l : List Byte) : Option Launch :=
  if !recordOk l then none
  else match s.readable c (numAt l 0x10 8) 64 with
    | none => none
    | some d =>
      if !descriptorOk d then none
      else
        let streams := numAt d 0x2B 1
        let groups := numAt d 0x2C 4
        match s.setTable c (numAt d 0 8) streams groups, s.readSinit c (numAt l 0x20 8) with
        | some sets, some sinit => some { launchOf c x s.clk l with
            sinit := sinit
            vregs := numAt d 0x28 2
            nthr := numAt d 0x2A 1
            ngroups := groups
            streams := (List.range 4).filter (bitAt streams)
            tsentry := (List.range 4).map (fun k => BitVec.ofNat 53 (numAt d (8 + 8 * k) 8))
            scrMask := numAt d 0x30 4
            fifoMask := numAt d 0x34 4
            matrix := bitAt (numAt d 0x38 4) 0
            sets := sets }
        | _, _ => none

/-! ### Capacity (R309, R310) -/

/-- Every group and context of a block lies on one core (R310). -/
def Launch.oneCore (l : Launch) : Bool := l.fifoMask != 0 || !l.streams.isEmpty || l.matrix
/-- Groups of a kernel that one empty partition holds (R237, R310). -/
def Launch.perPartition (l : Launch) : Nat := min 32 (2048 / l.vregs)
/-- Groups that one empty core holds. -/
def Launch.perCore (l : Launch) : Nat := 8 * l.perPartition
/-- Unretired cores of a cluster. -/
def State.clusterCores (s : State) (k : Nat) : Nat :=
  ((List.range 8).filter (fun j => !(s.core (8 * k + j)).retired)).length
/-- Blocks that an empty cluster of `n` unretired cores holds at once: on cores of their own where they set banks or hold the
matrix engine, else by groups, and by context slots (R310). -/
def Launch.perCluster (l : Launch) (n : Nat) : Nat :=
  let own := l.scrMask != 0 || l.fifoMask != 0 || l.matrix
  if l.oneCore then
    let byGroups := l.perCore / l.ngroups
    let byCtx := if l.streams.isEmpty then byGroups else 4 / l.streams.length
    n * min (min byGroups byCtx) (if own then 1 else byGroups)
  else if own then n / ((l.ngroups + l.perCore - 1) / l.perCore)
  else n * l.perCore / l.ngroups
/-- The number of blocks that the device's unretired cores hold at once. -/
def State.capacity (s : State) (l : Launch) : Nat :=
  (List.range 16).foldl (fun a k => a + l.perCluster (s.clusterCores k)) 0

/-! ### Taking a launch (R309, R313) -/

/-- An identity after another: 0 is skipped (R313). -/
def nextIdentity (n : BitVec 32) : BitVec 32 := if n + 1 = 0 then 1 else n + 1
/-- A DEP names an earlier launch of the context (R109, R313). -/
def State.depOk (s : State) (c : Nat) (lid dep : BitVec 32) : Bool :=
  dep != 0 && 1 ≤ (lid - dep).toNat && (lid - dep).toNat < 2 ^ 31 &&
    s.launches.any (fun p => p.2.ctx == c && p.2.lid == dep)
/-- Checks 2 to 5 of R309 on a record: the launch, or its refusal status. -/
def State.judge (s : State) (c : Nat) (x : Ctx) (l : List Byte) : Except Nat Launch :=
  match s.fullLaunch c x l with
  | none => .error 2
  | some k =>
    if !(k.deps.all (s.depOk c x.nextLid)) then .error 4
    else if s.capacity k = 0 then .error 5
    else if k.coop && s.capacity k < k.blocks then .error 3
    else .ok { k with lid := x.nextLid }
/-- A launch enters the device under a new handle, and its identity is used (R313). -/
def State.addLaunch (s : State) (c : Nat) (k : Launch) : State :=
  ({ s with launches := Sparse.set s.launches s.nextId k, nextId := s.nextId + 1 }).updCtx c
    (fun x => { x with nextLid := nextIdentity x.nextLid })

/-- HOST_QUEUE_TAKE: the slot at HEAD is read and taken; it has an identity whether or not it is refused (R312, R313). A slot whose
address is no multiple of 64 is refused with no read of the record (R309). -/
def State.hostTake (s : State) (c q : Nat) : Option State :=
  match s.ctx? c with
  | none => none
  | some x =>
    let d := x.hostQ.getD q 0
    let a := s.slotAt d 64 (s.ringHead d)
    if 16 ≤ q || !x.rung.contains q || !s.ringReady d || !s.sound a 64 then none
    else
      let refused (l : List Byte) (e : Nat) : Launch := { launchOf c x s.clk l with lid := x.nextLid, doom := some (2, e) }
      let k := if a % 64 != 0 then refused [] 2
        else match s.judge c x (s.bytes a 64) with
          | .ok k => k
          | .error e => refused (s.bytes a 64) e
      some ((s.takeRung c d q).addLaunch c k)
/-- HOST_QUEUE_TAKE (R313). -/
def execHostQueueTake (ctx queue : Nat) (s : State) : Host.Outcome State Fault Refusal :=
  whenEnabled "HOST_QUEUE_TAKE" (s.hostTake ctx queue)

/-- The queue that a doorbell value names: a host queue, or the control ring (R397). -/
def Ctx.rungQueue (x : Ctx) (v : Nat) : Nat := if v = 16 then x.ctl else if v < 16 then x.hostQ.getD v 0 else 0
/-- DOORBELL_WRITE: the queue named is read up to TAIL; other values, and contexts that do not exist, are ignored (R397). A
descriptor that cannot be read, or whose slot at HEAD cannot, is an event of the error log (R389, R399). -/
def State.doorbell (s : State) (c v : Nat) : State :=
  let q := match s.ctx? c with | some x => x.rungQueue v | none => 0
  let z := if v = 16 then 32 else 64
  let a := s.slotAt q z (s.ringHead q)
  (if q = 0 then s else if !s.sound q 64 then s.logPa q 64 else if s.ringReady q && !s.sound a z then s.logPa a z else s).updCtx c (fun x => if s.ringReady (x.rungQueue v) && !x.rung.contains v then { x with rung := x.rung ++ [v] } else x)
/-- DOORBELL_WRITE (R397). -/
def execDoorbellWrite (ctx : Nat) (value : BitVec 32) (s : State) : Host.Outcome State Fault Refusal :=
  .next (s.doorbell ctx value.toNat)

/-- The result of a LAUNCH that is refused (R109). -/
def refusalWord (status : Nat) : Word := BitVec.ofNat 64 (2 ^ 63 + status)
/-- A device queue that is placed (R109). -/
def Ctx.devQueue (x : Ctx) (q : Nat) : Nat := x.devQ.getD q 0
/-- Check 1 of R309: the device queue is placed and has room. -/
def State.queueRefusal (s : State) (x : Ctx) (q : Nat) : Option Nat :=
  if x.devQueue q = 0 then some 6 else if !s.ringRoom (x.devQueue q) then some 1 else none
/-- A record submitted to a device queue in one atomic step: the slot is written and taken, where checks 2 to 5 of R309 pass (R312,
R313). -/
def State.submit (s : State) (c : Nat) (x : Ctx) (q : Nat) (l : List Byte) : State × Word :=
  let d := x.devQueue q
  match s.judge c x l with
  | .error e => (s, refusalWord e)
  | .ok k => (((s.ringPut d 64 l).ringTake d).addLaunch c k, BitVec.ofNat 64 x.nextLid.toNat)

/-- LAUNCH: the address is tested first, as R109 says; then the checks of R309 in the order of its table, the queue before any read
of the record (DEDUCED, log entry 93). Its result is written when it retires (R109). -/
def execLaunch (f : EFmt) (s : State) : Host.Outcome State Fault Refusal :=
  withGroup s (fun i g x =>
    let c := s.ctxOf x.launch
    let a := (x.rs f.sa.toNat).toNat
    let put (s : State) (w : Word) : State :=
      s.complete i g (x.issueOp i.instr .en (leadMask i.active) [.s f.sd.toNat] [] [] (.result w))
    if !x.uniformOn f.g i.active then s.complete i g x
    else s.counted g x .en (
      match s.ctx? c with
      | none => s
      | some k =>
        if a % 64 != 0 then put s (refusalWord 2)
        else match s.queueRefusal k (f.imm.toNat % 8), firstFailure (s.spanFailures c a 64 .read none none) with
          | some e, _ => put s (refusalWord e)
          | none, some e => s.failFor i g e (leadMask i.active)
          | none, none =>
            let r := (s.hold c a 64).submit c k (f.imm.toNat % 8) (s.vread c a 64)
            put r.1 r.2))

/-! ### The end of a launch (R314) -/

/-- The launch that an identity names in a context. -/
def State.launchBy (s : State) (c : Nat) (lid : BitVec 32) : Option (Nat × Launch) :=
  List.find? (fun (p : Nat × Launch) => p.2.ctx == c && p.2.lid == lid) s.launches.reverse
/-- Each launch that it waits on has ended (R314). -/
def State.depsEnded (s : State) (l : Launch) : Bool :=
  l.deps.all (fun d => match s.launchBy l.ctx d with | some (_, k) => k.outcome.isSome | none => true)
/-- STRICT, and a dependence ended other than completed (R314). -/
def State.depFailed (s : State) (l : Launch) : Bool :=
  l.strict && l.deps.any (fun d => match s.launchBy l.ctx d with
    | some (_, k) => (match k.outcome with | some o => o.1 != 0 | none => false)
    | none => false)
/-- Every block that was placed has ended. -/
def State.blocksOver (s : State) (l : Nat) : Bool := s.blocks.all (fun p => p.2.launch != l || p.2.st == .ended)
/-- How a launch ends now: outcome and status, none where it goes on (R314). -/
def State.ending (s : State) (h : Nat) (l : Launch) : Option (Nat × Nat) :=
  if l.outcome.isSome then none
  else match l.doom with
    | some o => if s.blocksOver h then some o else none
    | none =>
      if l.placed = 0 && s.depFailed l then some (3, 0)
      else if l.finished = l.blocks then some (0, 0)
      else none
/-- The completion record, or request kind 7 where it cannot be written (R314); that of a record refused for a DONE that is no multiple of
16 is written at that DONE (DESIGN CHOICE, log entry 101). -/
def State.writeDone (s : State) (l : Launch) (o : Nat × Nat) : State :=
  if l.done = 0 then s
  else
    let rec_ := leBytes 4 (o.1 + 256 * o.2) ++ leBytes 4 l.lid.toNat ++ leBytes 8 (s.earliest l.endDie)
    if (s.spanFailures l.ctx l.done 16 .write (some false) none).isEmpty then s.vwrite l.ctx l.done rec_
    else s.request l.ctx (ReqRec.mk 7 l.lid.toNat l.done 0)
/-- LAUNCH_END (R314): the record, the interrupt, the claims of its random slots (R364); its dependants see its outcome. -/
def State.endLaunch (s : State) (h : Nat) : Option State :=
  match s.launch? h with
  | none => none
  | some l => (s.ending h l).map (fun o =>
    let s1 := (s.writeDone l o).setLaunch h { l with outcome := some o }
    (if l.irq then s1.interrupt else s1).dropClaims h)
/-- LAUNCH_END (R314). -/
def execLaunchEnd (launch : Nat) (s : State) : Host.Outcome State Fault Refusal :=
  whenEnabled "LAUNCH_END" (s.endLaunch launch)

/-! ### Ageing (R317) -/

/-- Clocks of 100 ms at 1.25 ns (R2). -/
def ageClocks : Nat := 80000000
/-- Blocks of a launch that are taken and wait to be restored. -/
def State.takenBlocks (s : State) (h : Nat) : List Nat :=
  (s.blocks.filter (fun p => p.2.launch == h && (match p.2.st with | .taken _ => true | _ => false))).map (·.1)
/-- A launch has blocks that wait to be placed. -/
def State.waiting (s : State) (h : Nat) (l : Launch) : Bool :=
  l.outcome.isNone && l.doom.isNone && (l.next < l.blocks || !(s.takenBlocks h).isEmpty)
/-- AGE_BOOST: after 100 ms of waiting the boost grows by 1, up to 6 (R317); the time for which a launch waits for its DEP counts (DESIGN
CHOICE, log entry 102). -/
def State.age (s : State) (h : Nat) : Option State :=
  match s.launch? h with
  | none => none
  | some l =>
    if s.waiting h l && l.boost < 6 && l.waitFrom + ageClocks ≤ s.clk then
      some (s.setLaunch h { l with boost := l.boost + 1, waitFrom := l.waitFrom + ageClocks })
    else none
/-- AGE_BOOST (R317). -/
def execAgeBoost (launch : Nat) (s : State) : Host.Outcome State Fault Refusal := whenEnabled "AGE_BOOST" (s.age launch)

end Sys2Proof.Machine
end

