-- ==== Sys2Proof/Machine/Fetch.lean ====
section
/-!
DEFINITION. Fetching: the fetch line and its checks, the decode checks in their order, when a group or a context may fetch,
and the latch a fetch leaves (R32 to R41, R53, R89, R152, R228, R239).
-/
namespace Sys2Proof.Machine

/-! ### The line (R32 to R35) -/

/-- The exclusive OR of the bits of a number of 64 bits. -/
def parity64 (n : Nat) : Bool := (List.range 64).foldl (fun b k => b != bitAt n k) false
/-- The parity that bit 24 + `i` of the line word must hold; byte 3 counts as zero (R33). -/
def lineParity (l : List Byte) (i : Nat) : Bool :=
  parity64 (ofLe (((l.drop (8 * i)).take 8).mapIdx (fun k b => if i = 0 && k = 3 then 0 else b)))
/-- The first slots of the pairs that a PAIR code names (R34). -/
def pairFirsts (code : Nat) : List Nat :=
  match code with
  | 1 => [0] | 2 => [1] | 3 => [2] | 4 => [3] | 5 => [0, 2] | 6 => [0, 3] | 7 => [1, 3] | _ => []
/-- The pairs of a line (R34). -/
def linePairs (word : Nat) : List Nat := pairFirsts (bits word 5 3)
/-- The line word is valid (R35). -/
def lineOk (l : List Byte) : Bool :=
  let w := ofLe (l.take 4)
  bits w 8 16 == 0 && (List.range 8).all (fun i => bitAt w (24 + i) == lineParity l i) &&
    (linePairs w).all (fun k => !bitAt w (k + 1))
/-- The word in a slot (R32). -/
def slotWord (l : List Byte) (k : Nat) : IWord := BitVec.ofNat 96 (ofLe ((l.drop (4 + 12 * k)).take 12))

/-! ### The decode checks (R53) -/

/-- A check that fails as an instruction is fetched: the fault, and the word whose guard names the enabled threads, none
where no word was decoded. -/
structure FetchFault where
  info : FaultInfo
  word : Option IWord
deriving DecidableEq, Repr

/-- A fault of decoding: cause, CODE, SLOT2 and the word. -/
def decodeFault (cause code : Nat) (slot2 : Bool) (w : IWord) : FetchFault :=
  FetchFault.mk { mkFault cause 0 none with code := BitVec.ofNat 32 code, slot2 := slot2 } (some w)
/-- The V register that CODE reports for REG_RANGE: of those beyond the declaration, the first in the order of `vNamed`, sources
before destinations. Which one the spec means where several are beyond it does not say (DESIGN CHOICE, log entry 74; R45). -/
def beyond (vregs : Option Nat) (i : Instr) : Option Nat :=
  match vregs with
  | some n => (vNamed i).find? (fun r => n ≤ r)
  | none => none
/-- Checks 2 to 7 on the slot alone (R53). -/
def checkOne (tile : Bool) (vregs : Option Nat) (w : IWord) : Except FetchFault Instr :=
  match decodeIn tile w with
  | .error _ => .error (decodeFault 0x01 0 false w)
  | .ok i => match beyond vregs i with
    | some r => .error (decodeFault 0x05 r false w)
    | none => .ok i
/-- Checks 2 to 7 on a pair, each over both slots before the next (R41, R53). -/
def checkPair (tile : Bool) (vregs : Option Nat) (w v : IWord) : Except FetchFault (Instr × Instr) :=
  match decodeIn tile w, decodeIn tile v with
  | .error r, .error q =>
    if q.check < r.check then .error (decodeFault 0x01 0 true v) else .error (decodeFault 0x01 0 false w)
  | .error _, .ok _ => .error (decodeFault 0x01 0 false w)
  | .ok _, .error _ => .error (decodeFault 0x01 0 true v)
  | .ok i, .ok j =>
    if !pairOk i j then .error (decodeFault 0x04 0 false w)
    else match beyond vregs i, beyond vregs j with
      | some r, _ => .error (decodeFault 0x05 r false w)
      | none, some r => .error (decodeFault 0x05 r true v)
      | none, none => .ok (i, j)
/-- The instruction in slot `k` of a line, and the second member of its pair where it is the first (R39); `entry` asks for
the mark of R38. -/
def readLine (tile : Bool) (vregs : Option Nat) (l : List Byte) (k : Nat) (entry : Bool) : Except FetchFault (Instr × Option Instr) :=
  let w := ofLe (l.take 4)
  if !lineOk l then .error (FetchFault.mk (mkFault 0x02 0 none) none)
  else if entry && !bitAt w k then .error (FetchFault.mk (mkFault 0x03 0 none) none)
  else if (linePairs w).contains k then
    (checkPair tile vregs (slotWord l k) (slotWord l (k + 1))).map (fun p => (p.1, some p.2))
  else (checkOne tile vregs (slotWord l k)).map (fun i => (i, none))
/-- The fetch at a unit: the fetch access to its line, then the checks of the line (R35, R324). -/
def State.readUnit (s : State) (c : Nat) (tile : Bool) (vregs : Option Nat) (u : Nat) (entry : Bool) :
    Except FetchFault (Instr × Option Instr) :=
  match firstFailure (s.spanFailures c (lineOf u) 64 .fetch none none) with
  | some e => .error (FetchFault.mk e none)
  | none => readLine tile vregs (s.vread c (lineOf u) 64) (u % 5) entry

/-! ### When a group may fetch (R228, R239, R244, R311, R314, R340) -/

/-- A long-latency dependence still holds: one of R239, or the wait of FENCE, PFENCE, a `.sc` access, an access to a bank that is being
switched, STST's prepare phase or a random slot, which R239 does not name (DESIGN CHOICE, log entry 107). -/
def State.waitHolds (s : State) (g : Nat) (x : Group) : Bool :=
  match x.wait with
  | none => false
  | some (.counts a b c d) => a < x.count .ld || b < x.count .st || c < x.count .cp || d < x.count .en
  | some .memory => x.count .ld != 0 || x.count .st != 0
  | some (.stores m p) => x.storesOn m p
  | some (.phase n) | some (.previous n _) => s.holdsArrival x n
  | some (.full k) => x.classFull k
  | some .queue => (s.core x.core).queue.isEmpty || !s.popTurn x.core g
  | some (.coll a n) =>
    (s.descFailures (s.ctxOf x.launch) a 64 collOk (fun _ => [])).isEmpty &&
      (collOf (s.vread (s.ctxOf x.launch) a 64)).gen % 2048 == n
  | some (.deferral _) => true
  | some .serving => x.cont.isSome
  | some (.slot d k) => (s.slot d k).claim.isSome && (s.slot d k).claim != some x.launch
  | some (.bank c b) => ((s.core c).bank b).switching
/-- A group of a block, or a context of it that has not ended, stands on a core. -/
def State.standsOn (s : State) (b c : Nat) : Bool :=
  s.groups.any (fun p => p.2.block == b && p.2.core == c && p.2.resident) ||
    s.tiles.any (fun p => p.2.block == b && p.2.core == c && p.2.resident && p.2.status != .ended)
/-- The block of a group or context is placed, may issue, and every core on which a part of it stands has woken; one that its groups have
left may be gated again (R311, R338, R340). -/
def State.blockRuns (s : State) (b : Nat) : Bool :=
  match s.block? b with
  | some k => k.st == .running && !(match k.pre with | some r => r.taking | none => false) &&
      k.cores.all (fun c => !s.standsOn b c || (s.core c).powered)
  | none => false
/-- A group is Ready: it has a candidate and no long-latency dependence holds (R238). -/
def State.groupReady (s : State) (g : Nat) (x : Group) : Bool :=
  x.status == .ready && x.resident && x.cont.isNone && !x.candidates.isEmpty && !s.waitHolds g x
/-- In Garnet mode only the holder issues (R244). -/
def State.holds (s : State) (x : Group) : Bool := !s.isGarnet x || s.holder x.core == some (s.logical x)

/-! ### Interlocks (R89, R152, R274) -/

/-- Memory and engine instructions that access memory for their threads, and BRX, which reads its table (R95), so that an acquire
not yet performed holds them back (R274). -/
def accesses (i : Instr) : Bool :=
  match i with
  | .fence _ | .pfence _ | .wait _ | .qpush _ | .qpop _ | .pgreq _ | .bndup _ | .bndrd _ | .tnow _ | .aqpop _ | .wlrd _ => false
  | _ => match i.opcode? with
    | some o => o == 0x003 || o == 0x011 || (0x120 ≤ o && o ≤ 0x134) || (0x160 ≤ o && o ≤ 0x170) || (0x1C0 ≤ o && o ≤ 0x1CA)
    | none => false
/-- The threads for which an instruction acts: those whose guard is set at the element's place, or the leader (R88). -/
def Group.actingSet (x : Group) (i : Instr) (active : Mask) : Mask :=
  let g := guardOf i
  let e := match memFmt? i with | some f => mOff f | none => 0
  if g.u then (if x.enabled g (leader active) e then maskOf [leader active] else 0) else maskOf (x.enabledSet g active e)
/-- An operation that later accesses of its threads await: a load, store, gather or atomic that is not performed, a deque, KV
or prefix operation, whose reads and writes are its threads' (R263, R267, R270, R274, R283), or VACQ. -/
def Op.awaited (o : Op) : Bool :=
  !o.done && (match o.work, o.instr with
    | .commits _, _ => false
    | _, .vacq _ => true
    | _, .dqpush _ | _, .dqpop _ | _, .dqsteal _ => true
    | _, .kvx _ | _, .kvins _ | _, .kvref _ | _, .pfxi _ | _, .pfxl _ => true
    | _, _ => o.cls == .ld || o.cls == .st)
/-- Stamped stores whose commits are outstanding: a release of their threads waits for these (R273, R285, R349). -/
def Op.uncommitted (o : Op) : Bool := !o.done && (match o.work with | .commits _ => true | _ => false)
/-- Instructions that release: a write or atomic with `.rel`, `.ar` or `.sc`, and the releases built into instructions (R272,
R283). -/
def releasing (i : Instr) : Bool :=
  match i with
  | .st f | .sst f => releases f.order.toNat || f.subop == 1
  | .atom f | .amaxr f | .stst f => releases f.order.toNat
  | .dqpush f | .dqpop f | .dqsteal f | .kvx f | .kvins f | .kvref f | .pfxi f | .coll f => releases f.order.toNat
  | .vrel _ | .launch _ => true
  | _ => false
/-- An instruction of the active set may issue: no interlocked register, no access it must come after, and for a release no
stamped store of its threads without its commit. -/
def Group.mayIssue (x : Group) (active : Mask) (i : Instr) : Bool :=
  let held := x.interlocked
  let mine (o : Op) : Bool := (o.mask &&& x.actingSet i active) != 0
  (allReads i ++ (regUse i).writes).all (fun r => !held.contains r) &&
    (!accesses i || x.ops.all (fun o => !o.awaited || !mine o)) &&
    (!releasing i || x.ops.all (fun o => !o.uncommitted || !mine o))

/-! ### Registers that cannot be corrected (R384) -/

/-- A group's instruction reads a register whose stored code cannot be corrected: the guard of every thread that might act, and
sources where the guard enables it (R21, R88). -/
def Group.consumes (x : Group) (i : Issue) (r : RegAt) : Bool :=
  let g := guardOf i.instr
  let reads := (regUse i.instr).reads
  match r with
  | .v t k => (x.touched i).contains t && reads.contains (.v k)
  | .p t k => (g.pred.toNat == k && k != 15 && (if g.u then t == leader i.active else i.active.getLsbD t)) ||
      ((x.touched i).contains t && reads.contains (.p k))
  | .s k => !(x.touched i).isEmpty && reads.contains (.s k)
  | _ => false
/-- A context's instruction does. -/
def consumedByTile (i : Issue) (r : RegAt) : Bool :=
  match r with
  | .t k => (allReads i.instr).contains (.t k)
  | .f k => (allReads i.instr).contains (.f k)
  | _ => false
/-- The thread of a register. -/
def regThread? : RegAt → Option Nat
  | .v t _ | .p t _ => some t
  | _ => none
/-- The latched instruction takes MACHINE_CHECK for a register that it would read, before it has any effect (R384); none where it
reads no such register. -/
def State.regFault (s : State) (i : Issue) : Option State :=
  match i.agent with
  | .group g => match s.group? g with
    | some x => (x.bad.find? (x.consumes i)).map (fun r =>
        s.fail i g (mkFault 0x0D 0 (regThread? r)) (x.onSet (guardOf i.instr) i.active))
    | none => none
  | .tile t => match s.tile? t with
    | some y => (y.bad.find? (consumedByTile i)).map (fun _ => s.tileFail i t (mkFault 0x0D 0 none))
    | none => none

/-! ### The fetch -/

/-- The fetches that a partition has made at this clock (R241). -/
def State.issuesNow (s : State) (core part : Nat) : Nat :=
  (List.filter (fun (p : Nat × Group) => p.2.core == core && p.2.part == part && p.2.issuedAt == some s.clk) s.groups).length
/-- A group may fetch at this clock: it has not, and one of its partition's two issue positions is free (R241). -/
def State.issueFree (s : State) (x : Group) : Bool := x.issuedAt != some s.clk && s.issuesNow x.core x.part < 2

/-- The enabled threads that a record names for a fault of fetching (R336). -/
def Group.fetchMask (x : Group) (active : Mask) (f : FetchFault) : Mask :=
  match f.word with
  | some w => x.onSet (Guard.ofWord w) active
  | none => active
/-- The fetch of a group, its turn aside: the active set fetches at the TPC of R228, and its instruction is latched, or the
fetch faults there; none where the group may not fetch. The clock since which it has been Ready starts anew with its fetch (R240; log entry
107). -/
def State.fetchAlone (s : State) (g : Nat) : Option State :=
  match s.group? g with
  | none => none
  | some x0 =>
    let x := x0.undefer
    if s.issue.isSome || !x0.active || !s.groupReady g x0 || !s.blockRuns x0.block || !s.holds x0 || s.clk < x0.placedAt || !s.issueFree x0 then none
    else match x.selectFetch with
      | none => none
      | some (u, rot) =>
        let active := x.activeAt u
        let c := s.ctxOf x.launch
        let y := { x with rot := rot, wait := none, lastIssue := s.stepNo, readyAt := some s.clk, issuedAt := some s.clk }
        let s1 := if s.isGarnet x then s.setHolder x.core (some (s.logical x)) else s
        match s.readUnit c false (some x.vregs) u (!x.entered) with
        | .error f => some ((s1.setGroup g y).faultGroup g f.info u u (x.fetchMask active f))
        | .ok (i, j) =>
          if !x.mayIssue active i || !((j.map (x.mayIssue active)).getD true) then none
          else some { (s1.setGroup g { y with entered := true }).hold c (lineOf u) 64 with
            issue := some (Issue.mk (.group g) (BitVec.ofNat 53 u) active i j false) }
/-- Of two groups the one that issued less recently, ties to the earlier handle. -/
def issuedBefore (p q : Nat × Group) : Bool :=
  p.2.lastIssue < q.2.lastIssue || (p.2.lastIssue == q.2.lastIssue && p.1 < q.1)
/-- No active group of the partition that issued less recently can fetch (R241). -/
def State.fetchTurn (s : State) (g : Nat) (x : Group) : Bool :=
  List.all s.groups (fun p => !(p.2.active && p.2.core == x.core && p.2.part == x.part && issuedBefore p (g, x)) ||
    (s.fetchAlone p.1).isNone)
/-- GROUP_FETCH: a partition takes the group that issued least recently first (R241). -/
def State.fetchGroup (s : State) (g : Nat) : Option State :=
  match s.group? g with
  | none => none
  | some x => if s.fetchTurn g x then s.fetchAlone g else none
/-- GROUP_FETCH (R228). -/
def execGroupFetch (group : Nat) (s : State) : Host.Outcome State Fault Refusal := whenEnabled "GROUP_FETCH" (s.fetchGroup group)

/-- A dependence of a context still holds (R191, R196). -/
def State.tileWaits (s : State) (x : Tile) : Bool :=
  match x.wait with
  | none => false
  | some (.phase n) => s.tileHolds x n
  | some .drained => !x.flight.isEmpty
  | some .lease => x.lease != .held
  | some .flight => 4 ≤ x.flight.length
  | some (.image c l) => !s.isFull c l && !x.got.any (fun e => e.1 == c && e.2.1 == l)
  | some (.bank c b) => ((s.core c).bank b).switching
  | some .stored => x.flight.any (fun e => match e.instr with | .wlst _ => true | _ => false)
/-- CONTEXT_FETCH: a context fetches its next instruction in order (R187, R38). -/
def State.fetchTile (s : State) (t : Nat) : Option State :=
  match s.tile? t with
  | none => none
  | some x =>
    if s.issue.isSome || x.status != .ready || !x.resident || !s.blockRuns x.block || s.tileWaits x then none
    else
      let c := s.ctxOf x.launch
      let u := x.tpc.toNat
      let y := { x with wait := none }
      match s.readUnit c true none u (!x.entered) with
      | .error f => some ((s.setTile t y).faultTile t f.info x.tpc)
      | .ok (i, j) => some { (s.setTile t { y with entered := true }).hold c (lineOf u) 64 with
          issue := some (Issue.mk (.tile t) x.tpc 0 i j false) }
/-- CONTEXT_FETCH (R187). -/
def execContextFetch (tile : Nat) (s : State) : Host.Outcome State Fault Refusal :=
  whenEnabled "CONTEXT_FETCH" (s.fetchTile tile)

end Sys2Proof.Machine
end

