-- ==== Sys2Proof/Machine/Place.lean ====
section
/-!
DEFINITION. The distributor: room on cores, the order of waiting blocks and the blocking rule, placement of blocks, its own
pre-emption requests, power gating and leases (R237, R247, R310, R311, R315, R316, R318, R339).
-/
namespace Sys2Proof.Machine

/-! ### Room (R310) -/

/-- What a core holds: for each partition its groups and group-registers; banks held or in use, whether its queue and lists
are held, contexts that have not ended, launches with a block on it. -/
structure Room where
  core     : Nat
  parts    : List (Nat × Nat)
  banks    : List Nat
  matrix   : Bool
  ctxs     : Nat
  launches : List Nat
  free     : Bool
deriving DecidableEq, Repr

/-- An empty core; a retired one has no room (R311, R390). -/
def State.emptyRoom (s : State) (c : Nat) : Room :=
  Room.mk c (List.replicate 8 (0, 0)) [] false 0 [] (!(s.core c).retired)
/-- A block that holds its place: running or being aborted. -/
def Block.holds (b : Block) : Bool := b.st == .running || b.st == .aborting
/-- What stands on a core. -/
def State.room (s : State) (c : Nat) : Room :=
  let x := s.core c
  let here := s.groups.filter (fun p => p.2.core == c && p.2.resident)
  let part (k : Nat) : Nat × Nat :=
    let l := here.filter (fun p => p.2.part == k)
    (l.length, l.foldl (fun a p => a + p.2.vregs) 0)
  Room.mk c ((List.range 8).map part)
    ((List.range 32).filter (fun b => (x.bank b).holder.isSome || (x.bank b).mode != .cache || (x.bank b).switching))
    x.holder.isSome (s.tiles.filter (fun p => p.2.core == c && p.2.resident && p.2.status != .ended)).length
    (nubNat ((s.blocks.filter (fun p => p.2.holds && p.2.cores.contains c)).map (·.2.launch))) (!x.retired)
/-- The cores of the device. -/
def allCores : List Nat := List.range 128
/-- The launch of Garnet mode among those on a core. -/
def State.garnetOn (s : State) (ls : List Nat) : Bool := ls.any (fun l => match s.launch? l with | some k => k.garnet | none => false)
/-- Banks of a mask. -/
def maskBanks (m : Nat) : List Nat := (List.range 32).filter (bitAt m)
/-- The banks a kernel holds from its start (R247, R307). -/
def Launch.banks (l : Launch) : List Nat := maskBanks (l.scrMask ||| l.fifoMask)
/-- A core can take part in a placement of a block of launch `h` that needs `banks` and `n` contexts, groups aside (R310). -/
def State.coreOk (s : State) (h : Nat) (l : Launch) (banks : List Nat) (n : Nat) (r : Room) : Bool :=
  r.free && banks.all (fun b => !r.banks.contains b) && !(l.matrix && r.matrix) && r.ctxs + n ≤ 4 &&
    (if l.garnet then r.launches.all (· == h) else r.launches.all (fun k => k == h) || !s.garnetOn (r.launches.filter (· != h)))
/-- One more group on a partition of a core, where it fits (R237). -/
def Room.addGroup (r : Room) (part vregs : Nat) : Option Room :=
  match r.parts[part]? with
  | some (n, v) =>
    if n < 32 && v + vregs ≤ 2048 then some { r with parts := r.parts.set part (n + 1, v + vregs) } else none
  | none => none
/-- A list of groups put one by one into rooms; none where one does not fit. -/
def addGroups (vregs : Nat) : List (Nat × Nat) → List Room → Option (List Room)
  | [], rs => some rs
  | (c, p) :: rest, rs =>
    match List.find? (fun (r : Room) => r.core == c) rs with
    | none => none
    | some r => match r.addGroup p vregs with
      | none => none
      | some y => addGroups vregs rest (rs.map (fun (q : Room) => if q.core = c then y else q))
/-- The rooms after a block has taken its cores. -/
def takeRooms (h : Nat) (l : Launch) (banks : Nat → List Nat) (n : Nat) (cores : List Nat) (rs : List Room) : List Room :=
  rs.map (fun r => if cores.contains r.core then
    { r with banks := r.banks ++ banks r.core, matrix := r.matrix || l.matrix, ctxs := r.ctxs + n, launches := nubNat (h :: r.launches) }
  else r)
/-- A placement of a block: its groups in order on (core, partition), within one cluster, or one core where R310 asks for it.
`banks` gives what it holds on each core, `n` the contexts that run. -/
def State.fit (s : State) (h : Nat) (l : Launch) (banks : Nat → List Nat) (n : Nat) (groups : List (Nat × Nat)) (rs : List Room) :
    Option (List Room) :=
  let cores := nubNat (groups.map (·.1))
  let clusters := nubNat (cores.map (· / 8))
  let used := rs.filter (fun r => cores.contains r.core)
  if groups.isEmpty || cores.any (128 ≤ ·) || clusters.length != 1 || (l.oneCore && cores.length != 1) ||
      !(used.all (fun r => s.coreOk h l (banks r.core) n r)) then none
  else (addGroups l.vregs groups rs).map (takeRooms h l banks n cores)

/-! ### A placement found by the default distributor (R310, R311) -/

/-- Places left on a room for groups of `v` registers, partition by partition. -/
def Room.places (r : Room) (v : Nat) : List (Nat × Nat) :=
  (r.parts.mapIdx (fun p q => (p, min (32 - q.1) ((2048 - q.2) / v)))).flatMap (fun p => List.replicate p.2 (r.core, p.1))
/-- Cores in the order of R311: running work, powered, gated. -/
def State.byCost (s : State) (rs : List Room) : List Room :=
  let running (r : Room) : Bool := r.launches != []
  let powered (r : Room) : Bool := (s.core r.core).powered
  rs.filter running ++ rs.filter (fun r => !running r && powered r) ++ rs.filter (fun r => !running r && !powered r)
/-- What a placement on some cores costs: the gated cores that it wakes, and the powered ones that it takes out of idleness
(R311). -/
def State.placeCost (s : State) (rs : List Room) (cores : List Nat) : Nat × Nat :=
  let idle := rs.filter (fun r => cores.contains r.core && r.launches == [])
  ((idle.filter (fun r => !(s.core r.core).powered)).length, (idle.filter (fun r => (s.core r.core).powered)).length)
/-- One cost is less than another: waking a gated core counts before all else (R311). -/
def cheaper (a b : Nat × Nat) : Bool := a.1 < b.1 || (a.1 == b.1 && a.2 < b.2)
/-- The first of least cost. -/
def cheapest {α : Type} (cost : α → Nat × Nat) : List α → Option α
  | [] => none
  | a :: r => match cheapest cost r with
    | some b => if cheaper (cost b) (cost a) then some b else some a
    | none => some a
/-- A placement of least cost of `m` groups of a block among sets of cores (R310, R311). -/
def State.findPlace (s : State) (h : Nat) (l : Launch) (banks : List Nat) (m : Nat) (rs : List Room) : Option (List (Nat × Nat)) :=
  let ok := (s.byCost rs).filter (s.coreOk h l banks l.streams.length)
  let sets : List (List Room) :=
    if l.oneCore then ok.map (fun r => [r])
    else (nubNat (ok.map (·.core / 8))).map (fun k => ok.filter (fun r => r.core / 8 == k))
  let fits (q : List Room) : Option (List (Nat × Nat)) :=
    let p := (q.flatMap (fun r => r.places l.vregs)).take m
    if p.length = m then some p else none
  if l.oneCore then sets.findSome? fits
  else cheapest (fun (p : List (Nat × Nat)) => s.placeCost rs (nubNat (p.map (·.1)))) (sets.filterMap fits)
/-- A placement of a block costs no more than any other (R311). -/
def State.leastCost (s : State) (h : Nat) (l : Launch) (p : List (Nat × Nat)) (rs : List Room) : Bool :=
  match s.findPlace h l l.banks l.ngroups rs with
  | some q => !cheaper (s.placeCost rs (nubNat (q.map (·.1)))) (s.placeCost rs (nubNat (p.map (·.1))))
  | none => true
/-- Placements of `k` blocks at once, concatenated. -/
def State.findAll (s : State) (h : Nat) (l : Launch) : Nat → List Room → Option (List (Nat × Nat))
  | 0, _ => some []
  | k + 1, rs =>
    match s.findPlace h l l.banks l.ngroups rs with
    | none => none
    | some p => match s.fit h l (fun _ => l.banks) l.streams.length p rs with
      | none => none
      | some r2 => (s.findAll h l k r2).map (fun q => p ++ q)
/-- Blocks that BLOCK_PLACE places in one step: all that are left of a COOP launch, else one (R316). -/
def Launch.batch (l : Launch) : Nat := if l.coop then l.blocks - l.next else 1

/-! ### The order of waiting blocks (R316) -/

/-- A launch has blocks in the distributor's order: waiting, and its dependences ended. -/
def State.queued (s : State) (h : Nat) (l : Launch) : Bool := s.waiting h l && s.depsEnded l && !(l.placed = 0 && s.depFailed l)
/-- The number of its waiting blocks. -/
def State.waitCount (s : State) (h : Nat) (l : Launch) : Nat := l.blocks - l.next + (s.takenBlocks h).length
/-- The waiting launches of a context at one effective priority, in identity order, with their counts. -/
def State.lineUp (s : State) (p c : Nat) : List (Nat × Nat) :=
  (s.launches.filter (fun e => e.2.ctx == c && s.queued e.1 e.2 && s.effPrio 8 e.1 == p)).map (fun e => (e.1, s.waitCount e.1 e.2))
/-- The launches that hold the first `n` blocks of a line. -/
def headOf (n : Nat) : List (Nat × Nat) → List Nat
  | [] => []
  | (h, k) :: r => if n = 0 then [] else h :: headOf (n - k) r
/-- Distance of a context from the one whose turn was last (R316). -/
def turnOf (turn c : Nat) : Nat := (c + 2 ^ 32 - turn - 1) % 2 ^ 32
/-- The launches with a block ahead of the first waiting block of launch `h` (R316). -/
def State.ahead (s : State) (h : Nat) (l : Launch) : List Nat :=
  let p := s.effPrio 8 h
  let above := (s.launches.filter (fun e => s.queued e.1 e.2 && p < s.effPrio 8 e.1)).map (·.1)
  let own := (s.lineUp p l.ctx).takeWhile (fun e => e.1 != h)
  let n := own.foldl (fun a e => a + e.2) 0
  let others := (s.ctxs.filter (fun e => e.1 != l.ctx)).flatMap (fun e =>
    headOf (n + (if turnOf s.turn e.1 < turnOf s.turn l.ctx then 1 else 0)) (s.lineUp p e.1))
  above ++ own.map (·.1) ++ others
/-- A core is eligible for a waiting block of a launch: the block would fit using it, were its cluster empty (R316). -/
def State.eligible (s : State) (l : Launch) (c : Nat) : Bool :=
  !(s.core c).retired && (if l.oneCore then decide (l.ngroups ≤ l.perCore) else decide (0 < l.perCluster (s.clusterCores (c / 8))))
/-- The blocking rule for a placement on `cores` (R316). -/
def State.mayPass (s : State) (h : Nat) (l : Launch) (cores : List Nat) : Bool :=
  (s.ahead h l).all (fun a => match s.launch? a with
    | some k => cores.all (fun c => !s.eligible k c)
    | none => true)

/-- The rooms of the cores that the blocking rule leaves to a launch (R316). -/
def State.openRooms (s : State) (h : Nat) (l : Launch) : List Room :=
  (allCores.filter (fun c => s.mayPass h l [c])).map s.room

/-! ### Starting a block (R227, R237, R247, R249) -/

/-- The F registers of a context that starts (R70). -/
def presetF : List Word := [0, 1, 2, 3, 4, 0, 0, 0].map (fun k => BitVec.ofNat 64 (prebuilt k))
/-- A group that becomes resident takes a place in the active set of its partition where one is free and no pending group
waits for it; a place that an ended group has left goes to the pending groups by exchange (R238, R240). -/
def State.freePlace (s : State) (core part : Nat) : Bool :=
  let here := s.groups.filter (fun p => p.2.core == core && p.2.part == part && p.2.resident && p.2.status != .ended)
  here.length < 8 && here.all (fun p => p.2.active)
/-- A group at its start (R227). -/
def startGroup (h b gidx core part : Nat) (l : Launch) (active : Bool) (now : Nat) : Group where
  launch := h
  block := b
  gidx := gidx
  core := core
  part := part
  resident := true
  entered := false
  vregs := l.vregs
  threads := List.replicate l.nthr (Thread.mk l.entry .runnable)
  v := []
  p := []
  s := l.sinit
  flags := 0
  fbst := false
  fibres := []
  rot := Rotation.calm 0
  ops := []
  nextOp := 0
  failed := []
  cont := none
  wait := none
  status := .ready
  active := active
  placedAt := now
  readyAt := some now
  lastIssue := 0
  issuedAt := none
  bad := []
/-- A context at its start (R187). -/
def startTile (h b n core : Nat) (l : Launch) : Tile :=
  Tile.mk h b n core true false (l.tsentry.getD n 0) [] presetF [] .none none .ready [] []
/-- A group made resident. -/
def State.addGroup (s : State) (h b gidx core part : Nat) (l : Launch) : State :=
  { s.setGroup s.nextId (startGroup h b gidx core part l (s.freePlace core part) s.clk) with nextId := s.nextId + 1 }
/-- A context made resident. -/
def State.addTile (s : State) (h b n core : Nat) (l : Launch) : State :=
  { s.setTile s.nextId (startTile h b n core l) with nextId := s.nextId + 1 }
/-- A block takes its banks on a core (R247, R249), and its queue and lists where its kernel is MATRIX (R188). A gated core
begins to wake (R311). -/
def State.takeCore (s : State) (b : Nat) (l : Launch) (core : Nat) : State :=
  let s1 := (maskBanks l.scrMask).foldl (fun s k => s.switchBank core k .scratch (some b)) s
  let s2 := (maskBanks l.fifoMask).foldl (fun s k => s.switchBank core k .fifo (some b)) s1
  let x := s2.core core
  let y := if l.matrix then { x with queue := [], lists := [], holder := some b, poppers := [], bad := x.bad.filter placeInBank } else x
  s2.setCore core (if y.powered then y else { y with idleAt := s.clk })
/-- The scope at which the first instructions of a launch's blocks acquire: .sys from the end of those that it waits on, else .mod from
its submission (R109, R283, R314). -/
def Launch.startScope (l : Launch) : Nat := if l.deps.isEmpty then 4 else 5
/-- A block starts: its groups and contexts are resident before any of them fetches (R237), and their first instructions acquire (R109,
R314). -/
def State.startBlock (s : State) (h : Nat) (l : Launch) (bidx : Nat) (groups : List (Nat × Nat)) : State :=
  let b := s.nextId
  let cores := nubNat (groups.map (·.1))
  let s0 : State := { s with nextId := s.nextId + 1 }
  let s1 := cores.foldl (fun s c => s.takeCore b l c) s0
  let g0 := s1.nextId
  let s2 := (groups.mapIdx (fun k p => (k, p))).foldl (fun (s : State) p => s.addGroup h b p.1 p.2.1 p.2.2 l) s1
  let t0 := s2.nextId
  let s3 := l.streams.foldl (fun s n => s.addTile h b n (cores.headD 0) l) s2
  (cores.foldl (fun s c => s.acquire c l.startScope) s3).setBlock b (Block.mk h bidx ((List.range groups.length).map (g0 + ·)) ((List.range l.streams.length).map (t0 + ·))
    cores [] none .running s.clk)
/-- Blocks started one after another from a list of places. -/
def State.startBlocks (s : State) (h : Nat) (l : Launch) : Nat → Nat → List (Nat × Nat) → State
  | 0, _, _ => s
  | k + 1, bidx, p => (s.startBlock h l bidx (p.take l.ngroups)).startBlocks h l k (bidx + 1) (p.drop l.ngroups)
/-- A list of places checked block by block, each of least cost (R310, R311). -/
def State.fitAll (s : State) (h : Nat) (l : Launch) : Nat → List (Nat × Nat) → List Room → Option (List Room)
  | 0, p, rs => if p.isEmpty then some rs else none
  | k + 1, p, rs =>
    if p.length < l.ngroups || !s.leastCost h l (p.take l.ngroups) rs then none
    else match s.fit h l (fun _ => l.banks) l.streams.length (p.take l.ngroups) rs with
      | none => none
      | some r2 => s.fitAll h l k (p.drop l.ngroups) r2
/-- Placement goes on: no fatal error has stopped it (R387). -/
def State.placing (s : State) : Bool := !s.mstat.fatal

/-- BLOCK_PLACE: the next block of a launch, or all blocks of a COOP launch, is placed where R310 allows, at least cost (R311), and the
order of R316 lets it; pre-empted blocks of the launch come first. -/
def State.blockPlace (s : State) (h : Nat) (pl : Placement) : Option State :=
  match s.launch? h with
  | none => none
  | some l =>
    if !s.placing || !s.queued h l || !(s.takenBlocks h).isEmpty || l.blocks ≤ l.next ||
        !s.mayPass h l (nubNat (pl.groups.map (·.1))) then none
    else match s.fitAll h l l.batch pl.groups (s.openRooms h l) with
      | none => none
      | some _ =>
        let s1 := s.startBlocks h l l.batch l.next pl.groups
        some ({ s1 with turn := l.ctx }.setLaunch h
          { l with next := l.next + l.batch, placed := l.placed + l.batch, boost := 0, waitFrom := s.clk })
/-- BLOCK_PLACE (R316). -/
def execBlockPlace (launch : Nat) (place : Placement) (s : State) : Host.Outcome State Fault Refusal :=
  whenEnabled "BLOCK_PLACE" (s.blockPlace launch place)

/-! ### Requests for pre-emption (R316, R339) -/

/-- A request for a running block: a second one merges with the first, and the earlier deadline stands (R339). -/
def State.askPreempt (s : State) (b deadline : Nat) (done : Option (Nat × Nat)) (own : Bool) : State :=
  match s.block? b with
  | none => s
  | some k =>
    let d := done.toList
    let r := match k.pre with
      | some r => { r with deadline := min r.deadline deadline, dones := r.dones ++ d, own := r.own || own }
      | none => PreReq.mk deadline d false own 1 []
    s.setBlock b { k with pre := some r }
/-- The distributor's time limit of 2 ms, in clocks (R337). -/
def ownLimit : Nat := 1600000
/-- The first waiting launch (R316). -/
def State.firstWaiting (s : State) : Option (Nat × Launch) :=
  List.find? (fun (p : Nat × Launch) => s.queued p.1 p.2 && (s.ahead p.1 p.2).isEmpty) s.launches
/-- The running blocks of lower effective priority that hold room the first waiting block could use; one for which the host
has asked already is asked for as well, and the two requests merge (R339). -/
def State.victims (s : State) (l : Launch) (p : Nat) : List (Nat × Block) :=
  s.blocks.filter (fun e => e.2.st == .running && s.effPrio 8 e.2.launch < p && e.2.cores.any (s.eligible l))
/-- One block goes before another: lower effective priority, then the later placed (R316). -/
def State.goesFirst (s : State) (a b : Nat × Block) : Bool :=
  let x := s.effPrio 8 a.2.launch
  let y := s.effPrio 8 b.2.launch
  x < y || (x == y && (b.2.placedAt < a.2.placedAt || (b.2.placedAt == a.2.placedAt && b.1 ≤ a.1)))
/-- The running blocks that a request to one block reaches: all of a COOP launch (R316). -/
def State.together (s : State) (b : Nat) (k : Block) : List Nat :=
  match s.launch? k.launch with
  | some l => if l.coop then (s.blocks.filter (fun e => e.2.launch == k.launch && e.2.st == .running)).map (·.1) else [b]
  | none => [b]
/-! ### Power gating (R311) -/

/-- A group, or a context that has not ended, stands on a core. -/
def State.occupied (s : State) (c : Nat) : Bool :=
  s.groups.any (fun p => p.2.core == c && p.2.resident) || s.tiles.any (fun p => p.2.core == c && p.2.resident && p.2.status != .ended)
/-- CORE_GATE: after 20 µs with no resident group. A core on which a context still runs is running work, and is not gated
(R311; DEDUCED, log entry 94). -/
def State.gate (s : State) (c : Nat) : Option State :=
  let x := s.core c
  if x.powered && !s.occupied c && x.idleAt + 16000 ≤ s.clk then some (s.setCore c { x with powered := false }) else none
/-- CORE_GATE (R311). -/
def execCoreGate (core : Nat) (s : State) : Host.Outcome State Fault Refusal := whenEnabled "CORE_GATE" (s.gate core)
/-- CORE_WAKE: 4 µs after a block was placed on a gated core (R311); a module in TRIP keeps its dies down until reset (R387, R401). -/
def State.wake (s : State) (c : Nat) : Option State :=
  let x := s.core c
  if !x.powered && s.occupied c && x.idleAt + 3200 ≤ s.clk && !s.mstat.fatal && s.mstat.therm != 3 then some (s.setCore c { x with powered := true }) else none
/-- CORE_WAKE (R311). -/
def execCoreWake (core : Nat) (s : State) : Host.Outcome State Fault Refusal := whenEnabled "CORE_WAKE" (s.wake core)

/-! ### Leases (R318) -/

/-- Effective priority of who asks. -/
def State.leaserPrio (s : State) (a : Leaser) : Nat :=
  match a with
  | .tile t => (match s.tile? t with | some x => s.effPrio 8 x.launch | none => 0)
  | .op r => (match s.group? r.group with | some x => s.effPrio 8 x.launch | none => 0)
/-- The next to be granted: highest effective priority, then first asked (R318). -/
def State.nextLease (s : State) (d : Nat) : Option Leaser :=
  let l := (s.die d).asking
  l.find? (fun a => l.all (fun b => s.leaserPrio b ≤ s.leaserPrio a))
/-- LEASE_GRANT: not during an emergency, nor with the dies powered down (R318, R401). -/
def State.grant (s : State) (d : Nat) : Option State :=
  match s.nextLease d with
  | none => none
  | some a =>
    if 2 ≤ s.mstat.therm.toNat then none
    else
      let x := s.die d
      let s1 := s.setDie d { x with asking := x.asking.erase a, granted := x.granted ++ [a] }
      some (match a with
        | .tile t => (match s1.tile? t with | some y => s1.setTile t { y with lease := .held } | none => s1)
        | .op _ => s1)
/-- LEASE_GRANT (R318). -/
def execLeaseGrant (die : Nat) (s : State) : Host.Outcome State Fault Refusal := whenEnabled "LEASE_GRANT" (s.grant die)

end Sys2Proof.Machine
end

