-- ==== Sys2Proof/Machine/Preempt.lean ====
section
/-!
DEFINITION. Answering faults and steering pre-emption: RESUME, ABORT, PREEMPT, WITHDRAW, SAVEAREA and REPLAY; taking and
restoring a block, its time limit, and aborting a block (R333 to R343, R365).
-/
namespace Sys2Proof.Machine

/-! ### Targets and blocks (R337) -/

/-- The block of a launch with an index. -/
def State.blockBy (s : State) (h bidx : Nat) : Option (Nat × Block) :=
  List.find? (fun (p : Nat × Block) => p.2.launch == h && p.2.bidx == bidx) s.blocks
/-- A target in VA keeps its limits: every bit beyond its fields is zero (R337). -/
def targetOk (va : Nat) : Bool := bits va 43 4 == 0 && bits va 50 14 == 0
/-- The launch that a command's ARG names. -/
def State.cmdLaunch (s : State) (c : Nat) (m : Cmd) : Option (Nat × Launch) := s.launchBy c (BitVec.ofNat 32 m.arg)

/-! ### Aborting (R338) -/

/-- A taken block is discarded with its image; a running one stops issuing (R338). -/
def State.stopBlock (s : State) (b : Nat) (k : Block) : State :=
  match k.st with
  | .running => s.setBlock b { k with st := .aborting }
  | .taken _ =>
    let s1 := k.groups.foldl (fun s g => s.updGroup g (fun x => { x with status := .ended, wait := none })) s
    let s2 := k.tiles.foldl (fun s t => match s.tile? t with | some y => s.setTile t { y with status := .ended } | none => s) s1
    ((s2.setBlock b { k with st := .ended }).loseKernel k.groups k.tiles b).endRequest b 1
  | _ => s
/-- An abort is ordered: the launch will end with outcome 1 and the cause, every block of it stops, and no other is placed
(R338). -/
def State.orderAbort (s : State) (h cause : Nat) : State :=
  match s.launch? h with
  | none => s
  | some l =>
    if l.outcome.isSome || l.doom.isSome then s
    else
      (s.blocks.filter (fun p => p.2.launch == h)).foldl (fun s p => s.stopBlock p.1 p.2)
        (s.setLaunch h { l with doom := some (1, cause) })

/-- An operation that waits for an event that cannot now come: a pop or push blocked on a bank or on the queue, an access stalled on an
empty line, PGREQ and VACQ awaiting system software (R338). -/
def State.blockedOp (s : State) (g : Nat) (x : Group) (o : Op) : Bool :=
  let full (b : Nat) : Bool := !s.mayPush x.core b (.op g o.id)
  !o.ripe && (match o.work, o.instr with
    | .spLoad .., _ => true
    | .pages _, _ => true
    | .range .., .vacq _ => true
    | .copy _, .cpy f => f.ext == 1 && full (f.imm.toNat % 32)
    | .rows _, _ => (s.core x.core).queue.isEmpty
    | .sweep _ b _ _ _ _, _ => full b
    | _, _ => false)
/-- An operation that is discarded with its block, or whose effect is made (R338). -/
def State.canDrop (s : State) (g : Nat) (x : Group) (o : Op) : Bool :=
  let still (k : State → Option State) : Bool := (s.asOp g o.id k).isNone
  o.ripe || s.blockedOp g x o || (match o.work, o.instr with
    | .bank .., _ => true
    | .threads _, .rngt _ => false
    | .threads _, _ =>
      still (·.dequeStep g o.id) && still (·.kvStep g o.id) && still (·.prefixStep g o.id) && still (·.collContribution g o.id)
    | _, _ => false)
/-- A group of an aborted block has nothing left that must still complete. -/
def State.groupSpent (s : State) (g : Nat) (x : Group) : Bool :=
  x.ops.all (s.canDrop g x) && (match x.cont with | some (.stst ..) => false | _ => true)
/-- An operation that is dropped leaves the lists that name it. -/
def State.forgetOp (s : State) (x : Group) (r : OpRef) (o : Op) : State :=
  let d := dieOf x.core
  let s1 := s.dropOpLease d r
  let y := s1.die d
  let s2 := (s1.setDie d { y with neigh := y.neigh.filter (fun p => p.1 != r) }).updCtx (s.ctxOf x.launch)
    (fun k => { k with vacqs := k.vacqs.filter (· != r) })
  match o.work with
  | .bank b _ => let k := s2.core x.core; s2.setCore x.core (k.setBank b { k.bank b with switching := false })
  | _ => s2
/-- A group of an aborted block is freed. -/
def State.killGroup (s : State) (g : Nat) : State :=
  match s.group? g with
  | none => s
  | some x =>
    (x.ops.foldl (fun s o => s.forgetOp x (OpRef.mk g o.id) o) s).setGroup g { x with
      status := .ended, resident := false, active := false, ops := [], cont := none, wait := none, readyAt := none }
/-- A context of an aborted block ends. -/
def State.killTile (s : State) (t : Nat) : State :=
  match s.tile? t with
  | none => s
  | some x => s.setTile t { x with status := .ended, flight := [], wait := none }
/-- A context of an aborted block has nothing in flight that can still go on: what has passed its commit point has reached its lines,
and the oldest of the rest waits for an event that cannot now come, ORD predecessors, an empty line, room in the queue (R338). -/
def State.tileSpent (s : State) (t : Nat) (x : Tile) : Bool :=
  x.kept.isEmpty && (s.matrixCommit t).isNone && (s.tagStep t).isNone &&
    x.flight.all (fun e => e.needs.all (fun l => (s.mapFill l.1 l.2).isNone))
/-- An operation of an aborted block is discarded without effect (R338). -/
def State.discardOp (s : State) (g : Nat) (x : Group) (o : Op) : State :=
  (s.forgetOp x (OpRef.mk g o.id) o).updGroup g (fun y => { y with ops := y.ops.filter (fun q => q.id != o.id) })
/-- The first operation of a block's groups that waits for an event that cannot now come. -/
def State.firstBlocked (s : State) (k : Block) : Option (Nat × Group × Op) :=
  k.groups.findSome? (fun g => (s.group? g).bind (fun x => (x.ops.find? (s.blockedOp g x)).map (fun o => (g, x, o))))
/-- BLOCK_ABORT: a blocked operation is discarded (step 2 of R338); with none left, once the others have retired or are ripe, the banks
drain, and the block ends. -/
def State.abortBlock (s : State) (b : Nat) : Option State :=
  match s.block? b with
  | none => none
  | some k =>
    match (if k.st = .aborting then s.firstBlocked k else none) with
    | some q => some (s.discardOp q.1 q.2.1 q.2.2)
    | none =>
    let spent := k.groups.all (fun g => match s.group? g with | some x => s.groupSpent g x | none => true)
    let past := k.tiles.all (fun t => match s.tile? t with | some x => s.tileSpent t x | none => true)
    if k.st = .aborting && spent && past then
      some ((k.tiles.foldl (fun s t => s.killTile t) (k.groups.foldl (fun s g => s.killGroup g) s)).endBlock b)
    else none
/-- BLOCK_ABORT (R338). -/
def execBlockAbort (block : Nat) (s : State) : Host.Outcome State Fault Refusal :=
  whenEnabled "BLOCK_ABORT" (s.abortBlock block)

/-! ### RESUME, ABORT (R337) -/

/-- RESUME of a Faulted group; in a taken block the image is marked (R334, R337). -/
def State.resumeGroup (s : State) (b g unit : Nat) : State × Nat :=
  match s.group? g, s.block? b with
  | some x, some k =>
    (match x.status with
     | .faulted r _ =>
       (match k.st with
        | .taken _ => (s.setGroup g { x with status := .faulted r (some unit) }, 0)
        | _ => (s.setGroup g (x.replay unit), 0))
     | _ => (s, 1))
  | _, _ => (s, 1)
/-- RESUME of a Faulted context (R337). -/
def State.resumeTile (s : State) (b t unit : Nat) : State × Nat :=
  match s.tile? t, s.block? b with
  | some x, some k =>
    (match x.status with
     | .faulted r _ =>
       (match k.st with
        | .taken _ => (s.setTile t { x with status := .faulted r (some unit) }, 0)
        | _ => (s.setTile t (x.replay unit), 0))
     | _ => (s, 1))
  | _, _ => (s, 1)
/-- RESUME of what a target names (R337). -/
def State.resumeTarget (s : State) (h va unit : Nat) : State × Nat :=
  match s.blockBy h (bits va 0 32) with
  | none => (s, 1)
  | some (b, k) =>
    if bitAt va 47 then
      match k.tiles.find? (fun t => match s.tile? t with | some x => x.number == bits va 48 2 | none => false) with
      | some t => s.resumeTile b t unit
      | none => (s, 1)
    else match k.groups[bits va 32 11]? with
      | some g => s.resumeGroup b g unit
      | none => (s, 1)
/-- RESUME (R337). -/
def State.resume (s : State) (c : Nat) : Option State :=
  s.command c 8 (fun m => targetOk m.va && m.len < unitLimit && (s.cmdLaunch c m).isSome) (fun s m =>
    match s.cmdLaunch c m with
    | none => none
    | some (h, _) => let r := s.resumeTarget h m.va m.len; some (r.1.answer m.done r.2))
/-- RESUME (R337). -/
def execResume (ctx : Nat) (s : State) : Host.Outcome State Fault Refusal := whenEnabled "RESUME" (s.resume ctx)

/-- VA of ABORT names the whole launch, or a block of it. -/
def abortAll : Nat := 2 ^ 64 - 1
/-- What ABORT names has ended (R337). -/
def State.alreadyEnded (s : State) (h : Nat) (l : Launch) (va : Nat) : Bool :=
  l.outcome.isSome || (va != abortAll && (match s.blockBy h va with | some (_, k) => k.st == .ended | none => false))
/-- ABORT (R337, R338). -/
def State.abort (s : State) (c : Nat) : Option State :=
  s.command c 9 (fun m => m.len < 256 && (match s.cmdLaunch c m with
      | some (_, l) => m.va == abortAll || decide (m.va < l.blocks)
      | none => false)) (fun s m =>
    match s.cmdLaunch c m with
    | none => none
    | some (h, l) =>
      if s.alreadyEnded h l m.va then some (s.answer m.done 1)
      else some ((s.orderAbort h (if m.len = 0 then 0x21 else m.len)).answer m.done 0))
/-- ABORT (R337). -/
def execAbort (ctx : Nat) (s : State) : Host.Outcome State Fault Refusal := whenEnabled "ABORT" (s.abort ctx)

/-! ### PREEMPT, WITHDRAW, SAVEAREA (R337, R339, R340) -/

/-- A time limit in clocks, of a number of ns; 0 names 2 ms (R337). -/
def limitClocks (ns : Nat) : Nat := if ns = 0 then ownLimit else ns * 4 / 5
/-- A time limit that PREEMPT may name (R337). -/
def limitOk (ns : Nat) : Bool := ns == 0 || (100000 ≤ ns && ns ≤ 1000000000)
/-- PREEMPT: a request for a running block (R337, R339). -/
def State.preempt (s : State) (c : Nat) : Option State :=
  s.command c 10 (fun m => m.va < 2 ^ 32 && limitOk m.len && (s.cmdLaunch c m).isSome) (fun s m =>
    match s.cmdLaunch c m with
    | none => none
    | some (h, _) =>
      match s.blockBy h m.va with
      | none => some (s.answer m.done 1)
      | some (b, k) =>
        if k.st = .running then some (s.askPreempt b (s.clk + limitClocks m.len) (some (c, m.done)) false)
        else some (s.answer m.done 1))
/-- PREEMPT (R337). -/
def execPreempt (ctx : Nat) (s : State) : Host.Outcome State Fault Refusal := whenEnabled "PREEMPT" (s.preempt ctx)

/-- Threads parked at SAFE are released and continue (R105). -/
def Group.releaseSafe (x : Group) : Group :=
  { x with threads := x.threads.map (fun (y : Thread) => match y.st with | .safe _ => { y with st := .runnable } | _ => y) }
/-- A request ends and the threads parked at SAFE go on (R105, R340). -/
def State.dropRequest (s : State) (b status : Nat) : State :=
  match s.block? b with
  | none => s
  | some k => k.groups.foldl (fun s g => s.updGroup g Group.releaseSafe) (s.endRequest b status)
/-- WITHDRAW (R337, R340). -/
def State.withdraw (s : State) (c : Nat) : Option State :=
  s.command c 11 (fun m => m.va < 2 ^ 32 && m.len == 0 && (s.cmdLaunch c m).isSome) (fun s m =>
    match s.cmdLaunch c m with
    | none => none
    | some (h, _) =>
      match s.blockBy h m.va with
      | none => some (s.answer m.done 1)
      | some (b, k) => match k.pre with
        | some r => if r.taking || k.st != .running then some (s.answer m.done 1) else some ((s.dropRequest b 4).answer m.done 0)
        | none => some (s.answer m.done 1))
/-- WITHDRAW (R337). -/
def execWithdraw (ctx : Nat) (s : State) : Host.Outcome State Fault Refusal := whenEnabled "WITHDRAW" (s.withdraw ctx)

/-- SAVEAREA: a resident, writable, device-owned range; ARG names a launch of the context (R337). -/
def State.savearea (s : State) (c : Nat) : Option State :=
  s.command c 12 (fun m => m.paged && s.coversWhole c m.va m.len && (s.cmdLaunch c m).isSome) (fun s m =>
    if (pagesOf m.va m.len).all (fun p => (s.spanFailures c p 65536 .write none none).isEmpty) then
      some ((s.updCtx c (fun x => { x with save := some (m.va, m.len) })).answer m.done 0)
    else some (s.answer m.done 1))
/-- SAVEAREA (R337). -/
def execSavearea (ctx : Nat) (s : State) : Host.Outcome State Fault Refusal := whenEnabled "SAVEAREA" (s.savearea ctx)

/-! ### REPLAY (R365, R366) -/

/-- The command's own fields (R365). -/
def replayFields (m : Cmd) : Bool :=
  bits m.arg 12 19 == 0 && m.va % 64 == 0 && m.len == 0 && (bitAt m.arg 31 || m.va == 0)
/-- A slot is claimed by an unended launch of a context (R365). -/
def State.slotClaimed (s : State) (c k : Nat) : Bool :=
  (List.range 4).any (fun d => match (s.slot d k).claim with
    | some l => (match s.launch? l with | some x => x.ctx == c && x.outcome.isNone | none => false)
    | none => false)
/-- A header that can bind: resident, writable and well formed (R365, R366). -/
def State.headerOk (s : State) (c a : Nat) : Bool :=
  (s.spanFailures c a 64 .write (some false) none).isEmpty && (s.spanFailures c a 64 .read none none).isEmpty &&
    replayOk (s.vread c a 64)
/-- REPLAY (R365). -/
def State.bindReplay (s : State) (c : Nat) : Option State :=
  s.command c 13 replayFields (fun s m =>
    let k := m.arg % 4096
    let bind (v : Option Nat) : State := (s.updCtx c (fun x => { x with replays := Sparse.put none x.replays k v })).answer m.done 0
    if s.slotClaimed c k then some (s.answer m.done 1)
    else if !bitAt m.arg 31 then some (bind none)
    else if s.headerOk c m.va then some (bind (some m.va))
    else some (s.answer m.done 2))
/-- REPLAY (R365). -/
def execReplay (ctx : Nat) (s : State) : Host.Outcome State Fault Refusal := whenEnabled "REPLAY" (s.bindReplay ctx)

/-! ### Taking a block (R339 to R341) -/

/-- The group is at a safe point (R339). -/
def State.atSafePoint (s : State) (x : Group) : Bool :=
  x.count .cp == 0 &&
    (x.threads.all (fun y => match y.st with | .safe _ | .retired => true | _ => false) ||
      (match x.wait with | some (.phase n) => s.holdsArrival x n | _ => false) ||
      (match x.status with | .faulted .. => true | _ => false))
/-- Every group of a block is at a safe point or has ended (R340). -/
def State.blockSafe (s : State) (k : Block) : Bool :=
  k.groups.all (fun g => match s.group? g with | some x => x.status == .ended || s.atSafePoint x | none => true)
/-- No instruction of a block is latched for issue. -/
def State.notIssuing (s : State) (k : Block) : Bool :=
  match s.issue with
  | some i => (match i.agent with | .group g => !k.groups.contains g | .tile t => !k.tiles.contains t)
  | none => true
/-- Banks that a block holds on a core. -/
def State.heldBanks (s : State) (b core : Nat) : List Nat :=
  (List.range 32).filter (fun i => ((s.core core).bank i).holder == some b)
/-- The size of a block's image: SAVESIZE in whole 64 KiB (R341). -/
def State.imageSize (s : State) (b : Nat) (k : Block) (l : Launch) : Nat :=
  let banks := k.cores.foldl (fun a c => a + (s.heldBanks b c).length) 0
  let n := 4096 + l.ngroups * (256 * l.vregs + 12288) + 18432 * banks + (if l.matrix then 204800 else 0) + 1024 * l.streams.length
  (n + 65535) / 65536 * 65536
/-- Bytes of a context's save area that hold images. -/
def State.savedBytes (s : State) (c : Nat) : Nat :=
  s.blocks.foldl (fun a p => if s.ctxOf p.2.launch = c then (match p.2.st with | .taken i => a + i.bytes | _ => a) else a) 0
/-- Bytes of it that are set aside for blocks that are being taken. -/
def State.promisedBytes (s : State) (c : Nat) : Nat :=
  s.blocks.foldl (fun a p => match p.2.pre, s.launch? p.2.launch with
    | some r, some l => if r.taking && l.ctx == c && p.2.st == .running then a + s.imageSize p.1 p.2 l else a
    | _, _ => a) 0
/-- The image fits in the free part of the save area (R340). -/
def State.imageFits (s : State) (c n : Nat) : Bool :=
  match s.ctx? c with
  | some x => (match x.save with | some (_, len) => s.savedBytes c + s.promisedBytes c + n ≤ len | none => false)
  | none => false
/-- A context stops: what is uncommitted is discarded, and a wait for a lease is given up (R286, R340). -/
def State.stopTile (s : State) (t : Nat) : State :=
  match s.tile? t with
  | none => s
  | some x => if x.status = .ready then s.setTile t { x.cutBack x.tpc with wait := none } else s
/-- The records of a block's Faulted groups and contexts that wait to be posted (R343). -/
def State.owedRecords (s : State) (k : Block) : List FaultRec :=
  let waits (h : Nat) (r : FaultRec) : Bool := match s.ctx? (s.ctxOf h) with | some c => c.faults.contains r | none => false
  (k.groups.filterMap (fun g => match s.group? g with
    | some x => (match x.status with | .faulted r _ => if waits x.launch r then some r else none | _ => none)
    | none => none)) ++
  (k.tiles.filterMap (fun t => match s.tile? t with
    | some x => (match x.status with | .faulted r _ => if waits x.launch r then some r else none | _ => none)
    | none => none))
/-- The records that were raised before taking began are posted (R343). -/
def State.recordsPosted (s : State) (k : Block) : Bool :=
  match k.pre, s.ctx? (s.ctxOf k.launch) with
  | some r, some c => r.owed.all (fun e => !c.faults.contains e)
  | _, _ => true
/-- Taking begins: the contexts stop (step 1 of R340). -/
def State.beginTake (s : State) (b : Nat) : State :=
  match s.block? b with
  | none => s
  | some k => match k.pre with
    | none => s
    | some r => ((k.tiles.foldl (fun s t => s.stopTile t) s).dropLeases k.tiles).setBlock b { k with pre := some { r with taking := true, owed := s.owedRecords k } }
/-- Every counter of every group is zero, and nothing is left in flight (step 2 of R340). -/
def State.drained (s : State) (k : Block) : Bool :=
  k.groups.all (fun g => match s.group? g with | some x => x.ops.isEmpty && (x.cont.isNone || x.status != .ready) | none => true) &&
    k.tiles.all (fun t => match s.tile? t with | some x => x.flight.isEmpty | none => true)
/-- Entries of a table in ranges of keys. -/
def inRanges {α : Type} (m : Sparse α) (unit : Nat) (banks : List Nat) : Sparse α := m.filter (fun p => banks.contains (p.1 / unit))
/-- Entries of a table outside ranges of keys. -/
def outRanges {α : Type} (m : Sparse α) (unit : Nat) (banks : List Nat) : Sparse α := m.filter (fun p => !banks.contains (p.1 / unit))
/-- A place that cannot be corrected goes into an image with the banks, and with the queue and the lists where the block holds them
(R384). -/
def savedPlace (banks : List Nat) (matrix : Bool) : CoreAt → Bool
  | .sram w => banks.contains (w / 2048)
  | .cache .. => false
  | .queue _ | .list _ => matrix
/-- The image of a block's cores (R341). -/
def State.imageOf (s : State) (b : Nat) (k : Block) (n : Nat) : Saved :=
  let at_ {α β : Type} (h : Nat → Core → List α) (w : Nat → α → β) : List β :=
    k.cores.flatMap (fun c => (h c (s.core c)).map (w c))
  let q := s.core (k.cores.headD 0)
  let own := q.holder = some b
  Saved.mk
    (at_ (fun c x => (s.heldBanks b c).map (fun i => (i, x.bank i))) (fun c e => (c, e.1, e.2)))
    (at_ (fun c x => inRanges x.sp 16384 (s.heldBanks b c)) (fun c e => (c, e.1, e.2)))
    (at_ (fun c x => (inRanges x.full 128 (s.heldBanks b c)).map (·.1)) (fun c e => (c, e)))
    (at_ (fun c x => inRanges x.mask 128 (s.heldBanks b c)) (fun c e => (c, e.1, e.2)))
    (at_ (fun c x => (nubNat ((s.heldBanks b c).flatMap x.slotsOf)).filterMap (fun i => (Sparse.get none x.maps i).map (fun m => (i, m))))
      (fun c e => (c, e.1, e.2)))
    (if own then q.queue else []) (if own then q.poppers else []) (if own then q.lists else [])
    (k.cores.filterMap (fun c => (s.core c).garnet.map (fun g => (c, g))))
    k.cores n
    (at_ (fun c x => x.bad.filter (savedPlace (s.heldBanks b c) (own && c == k.cores.headD 0))) (fun c e => (c, e)))
/-- A core without what a taken block held on it: nothing is written back; a bank that an operation of another block still targets drains
before it returns to CACHE (R169, R247, R340). -/
def State.vacate (s : State) (b core : Nat) : State :=
  let busy (i : Nat) : Bool := s.bankBusy core i
  let x := s.core core
  let banks := s.heldBanks b core
  let slots := nubNat (banks.flatMap x.slotsOf)
  let y := { x with sp := outRanges x.sp 16384 banks, full := outRanges x.full 128 banks, mask := outRanges x.mask 128 banks,
                    maps := x.maps.filter (fun p => !slots.contains p.1), bad := x.bad.filter (fun q => !savedPlace banks false q) }
  (s.setCore core (banks.foldl (fun z i => z.setBank i (if busy i then
    { Bank.fresh (z.bank i).mode none with line := (z.bank i).line, switching := true, ending := true } else Bank.idle)) y)).dropMatrix core b
/-- A saved group: it is resident nowhere. -/
def Group.putAway (x : Group) : Group := { x with resident := false, active := false, readyAt := none }
/-- The bytes that the device writes into the save area: their layout is its own (R341). -/
def State.writeImage (s : State) (c n : Nat) : State :=
  match s.ctx? c with
  | some x => (match x.save with
    | some (base, _) => s.vwrite c (wrap64 (base + s.savedBytes c)) ((List.range n).map (Config.imageByte s.stepNo))
    | none => s)
  | none => s
/-- Steps 3 and 4 of R340: the image is written and the cores are released; every PREEMPT of the request completes with 0. -/
def State.finishTake (s : State) (b : Nat) : State :=
  match s.block? b with
  | none => s
  | some k => match s.launch? k.launch with
    | none => s
    | some l =>
      let n := s.imageSize b k l
      let i := s.imageOf b k n
      let s1 := k.cores.foldl (fun s c => s.vacate b c) (s.writeImage l.ctx n)
      let s2 := k.groups.foldl (fun s g => s.updGroup g Group.putAway) s1
      let s3 := k.tiles.foldl (fun s t => match s.tile? t with | some y => s.setTile t { y with resident := false } | none => s) s2
      ((s3.setBlock b { k with st := .taken i }).endRequest b 0).noteIdle k.cores |>.setLaunch k.launch { l with waitFrom := s.clk }
/-- The blocks that are taken together: of a COOP launch all that run (R340). -/
def State.takeSet (s : State) (b : Nat) (k : Block) : List (Nat × Block) :=
  (s.together b k).filterMap (fun j => (s.block? j).map (fun x => (j, x)))
/-- A request for the block is pending, and its time limit has not passed (R340). -/
def State.inTime (s : State) (k : Block) : Bool := match k.pre with | some r => decide (s.clk < r.deadline) | none => false
/-- Blocks that are being taken have drained, and what must be posted first is: they are saved and their cores released, all in one step
(R340, R343). -/
def State.finishAll (s : State) (all : List (Nat × Block)) : Option State :=
  if all.all (fun e => s.drained e.2 && s.notIssuing e.2 && s.recordsPosted e.2) then some (all.foldl (fun s e => s.finishTake e.1) s)
  else none
/-- BLOCK_TAKE: with every group at a safe point the block stops, or is refused for want of room; once it has drained it is
saved and its cores are released, those of a COOP launch all together; past the time limit it is not taken any more (R340). -/
def State.take_ (s : State) (b : Nat) : Option State :=
  match s.block? b with
  | none => none
  | some k => match k.pre, s.launch? k.launch with
    | some r, some l =>
      let all := s.takeSet b k
      if k.st != .running || r.deadline ≤ s.clk then none
      else if r.taking then s.finishAll all
      else if !(all.all (fun e => s.inTime e.2 && s.blockSafe e.2 && s.notIssuing e.2)) then none
      else if !s.imageFits l.ctx (all.foldl (fun a e => a + s.imageSize e.1 e.2 l) 0) then
        some (all.foldl (fun s e => s.dropRequest e.1 3) s)
      else
        let s1 := all.foldl (fun s e => s.beginTake e.1) s
        some ((s1.finishAll (all.filterMap (fun e => (s1.block? e.1).map (fun y => (e.1, y))))).getD s1)
    | _, _ => none
/-- BLOCK_TAKE (R340). -/
def execBlockTake (block : Nat) (s : State) : Host.Outcome State Fault Refusal := whenEnabled "BLOCK_TAKE" (s.take_ block)

/-- PREEMPT_TIMEOUT: the time limit has passed; the block is aborted with cause PREEMPT_TIMEOUT (R340). -/
def State.timeout (s : State) (b : Nat) : Option State :=
  match s.block? b with
  | none => none
  | some k => match k.pre with
    | none => none
    | some r =>
      if k.st != .running || s.clk < r.deadline then none
      else
        let late (s : State) (j : Nat) : State := match s.block? j with
          | some y => s.setBlock j { y with pre := y.pre.map (fun q => { q with onEnd := 2 }) }
          | none => s
        some (((s.together b k).foldl late s).orderAbort k.launch 0x20)
/-- PREEMPT_TIMEOUT (R340). -/
def execPreemptTimeout (block : Nat) (s : State) : Host.Outcome State Fault Refusal :=
  whenEnabled "PREEMPT_TIMEOUT" (s.timeout block)

/-! ### Restoring a block (R342) -/

/-- The groups of a block that have not ended. -/
def State.liveGroups (s : State) (k : Block) : List (Nat × Group) :=
  k.groups.filterMap (fun g => match s.group? g with
    | some x => if x.status = .ended then none else some (g, x)
    | none => none)
/-- The core that takes the place of an old one: the cores of a block keep their distances within the cluster, which the CORE
field of .sp addresses counts (R295; log entry 17). -/
def newCore (from_ to_ old : Nat) : Nat := to_ / 8 * 8 + (old % 8 + to_ % 8 + 8 - from_ % 8) % 8
/-- The rooms after a taken block has found its place: same bank numbers, one cluster, R310 (R342). -/
def State.fitBack (s : State) (h : Nat) (l : Launch) (k : Block) (i : Saved) (groups : List (Nat × Nat)) (core0 : Nat)
    (rs : List Room) : Option (List Room) :=
  let old := i.cores.headD 0
  let live := s.liveGroups k
  let map (c : Nat) : Nat := newCore old core0 c
  let cores := i.cores.map map
  let banksOn (c : Nat) : List Nat := (i.banks.filter (fun e => map e.1 == c)).map (fun e => e.2.1)
  let n := (k.tiles.filter (fun t => match s.tile? t with | some x => x.status != .ended | none => false)).length
  let kept := (live.zip groups).all (fun p => p.2.1 == map p.1.2.core)
  if groups.length != live.length || !kept || 128 ≤ core0 ||
      !((rs.filter (fun r => cores.contains r.core)).all (fun r => s.coreOk h l (banksOn r.core) n r)) then none
  else (addGroups l.vregs groups rs).map (takeRooms h l banksOn n cores)
/-- A group is resident again: parked at SAFE it continues, Faulted with a RESUME it replays (R342). -/
def State.wakeGroup (s : State) (g core part : Nat) : State :=
  let active := s.freePlace core part
  s.updGroup g (fun x =>
    let y := { x.releaseSafe with core := core, part := part, resident := true, active := active, placedAt := s.clk,
                                  readyAt := none, lastIssue := 0, issuedAt := none }
    match y.status with
    | .faulted _ (some u) => y.replay u
    | _ => y)
/-- A context is resident again; it asks for a lease at its next matrix instruction (R342). -/
def State.wakeTile (s : State) (t core : Nat) : State :=
  match s.tile? t with
  | none => s
  | some x =>
    let y := { x with core := core, resident := true, lease := .none }
    s.setTile t (match y.status with | .faulted _ (some u) => y.replay u | _ => y)
/-- The image is written back onto its new cores; a core that other blocks of the launch keep has a holder already, which stays
(R244, R342). -/
def State.writeBack (s : State) (b : Nat) (i : Saved) (map : Nat → Nat) : State :=
  let on {α : Type} (l : List α) (key : α → Nat) (k : Core → α → Core) (s : State) : State :=
    l.foldl (fun s e => let c := map (key e); s.setCore c (k (s.core c) e)) s
  let s1 := on i.banks (fun e => e.1) (fun x e => x.setBank e.2.1 { e.2.2 with holder := some b, switching := false }) s
  let s2 := on i.sp (fun e => e.1) (fun x e => { x with sp := Sparse.put 0 x.sp e.2.1 e.2.2 }) s1
  let s3 := on i.full (fun e => e.1) (fun x e => { x with full := Sparse.put false x.full e.2 true }) s2
  let s4 := on i.masks (fun e => e.1) (fun x e => { x with mask := Sparse.put 0 x.mask e.2.1 e.2.2 }) s3
  let s5 := on i.maps (fun e => e.1) (fun x e => { x with maps := Sparse.put none x.maps e.2.1 (some e.2.2) }) s4
  let s6 := on i.garnet (fun e => e.1) (fun x e => { x with garnet := x.garnet.or (some e.2) }) s5
  let s7 := on i.bad (fun e => e.1) (fun x e => { x with bad := x.bad ++ [e.2] }) s6
  on i.cores id (fun x _ => if x.powered then x else { x with idleAt := s.clk }) s7
/-- The block's queue and lists are written back (R188, R342). -/
def State.giveMatrix (s : State) (b : Nat) (l : Launch) (i : Saved) (core : Nat) : State :=
  if l.matrix then
    s.setCore core { s.core core with queue := i.queue, lists := i.lists, holder := some b, poppers := i.poppers }
  else s
/-- A taken block restored at a place that fits; the restore is an acquire at .mod (R342). -/
def State.restoreAt (s : State) (b : Nat) (k : Block) (l : Launch) (i : Saved) (groups : List (Nat × Nat)) (core0 : Nat) : State :=
  let map (c : Nat) : Nat := newCore (i.cores.headD 0) core0 c
  let s1 := (s.writeBack b i map).giveMatrix b l i core0
  let s2 := ((s.liveGroups k).zip groups).foldl (fun s p => s.wakeGroup p.1.1 p.2.1 p.2.2) s1
  let s3 := k.tiles.foldl (fun s t => match s.tile? t with
    | some x => if x.status = .ended then s else s.wakeTile t core0
    | none => s) s2
  let s4 := (i.cores.map map).foldl (fun s c => s.acquire c 4) s3
  s4.setBlock b { k with st := .running, cores := i.cores.map map, placedAt := s.clk }
/-- The core on which a block's first old core is placed: that of its first live group, moved back by its distance, or the
core of its streams. -/
def State.baseCore (s : State) (k : Block) (i : Saved) (groups : List (Nat × Nat)) (tileCore : Nat) : Nat :=
  match s.liveGroups k, groups with
  | (_, x) :: _, (c, _) :: _ => newCore x.core c (i.cores.headD 0)
  | _, _ => tileCore
/-- The taken blocks that one restore places: the first of the launch, or all of a COOP launch (R316, R342). -/
def State.restoreSet (s : State) (h : Nat) (l : Launch) : List Nat :=
  let t := s.takenBlocks h
  let idx (b : Nat) : Nat := match s.block? b with | some k => k.bidx | none => 0
  if l.coop then t else t.filter (fun b => t.all (fun j => idx b ≤ idx j))
/-- A place for a taken block whose first core becomes `core0`: its live groups on the first partitions with room. -/
def assignGroups (v : Nat) : List Nat → List Room → Option (List (Nat × Nat))
  | [], _ => some []
  | c :: rest, rs =>
    match List.find? (fun (r : Room) => r.core == c) rs with
    | none => none
    | some r => ((List.range 8).findSome? (fun p => (addGroups v [(c, p)] rs).map (fun r2 => (p, r2)))).bind (fun q =>
        (assignGroups v rest q.2).map (fun l => (r.core, q.1) :: l))
/-- The cores that a taken block uses where its first one becomes `core0`. -/
def Saved.coresAt (i : Saved) (core0 : Nat) : List Nat := i.cores.map (newCore (i.cores.headD 0) core0)
/-- A placement of least cost of one taken block: its groups, the first core, and the rooms left (R311, R342). -/
def State.findBackOne (s : State) (h : Nat) (l : Launch) (k : Block) (i : Saved) (rs : List Room) :
    Option (List (Nat × Nat) × Nat × List Room) :=
  let at_ (core0 : Nat) : Option (List (Nat × Nat) × Nat × List Room) :=
    (assignGroups l.vregs ((s.liveGroups k).map (fun p => newCore (i.cores.headD 0) core0 p.2.core)) rs).bind (fun p =>
      (s.fitBack h l k i p core0 rs).map (fun r2 => (p, core0, r2)))
  cheapest (fun q => s.placeCost rs (i.coresAt q.2.1)) (((s.byCost rs).map (·.core)).filterMap at_)
/-- A placement of taken blocks, concatenated, with the core of the streams (R342). -/
def State.findBack (s : State) (h : Nat) (l : Launch) : List Nat → List Room → Option (List (Nat × Nat) × Nat)
  | [], _ => some ([], 0)
  | b :: rest, rs =>
    match s.block? b with
    | none => none
    | some k => match k.st with
      | .taken i => (s.findBackOne h l k i rs).bind (fun q => (s.findBack h l rest q.2.2).map (fun p => (q.1 ++ p.1, q.2.1)))
      | _ => none
/-- The places of taken blocks, one after another from a list: each block with its groups' places and its first core. -/
def State.backParts (s : State) (tileCore : Nat) : List Nat → List (Nat × Nat) → List (Nat × Block × Saved × List (Nat × Nat) × Nat)
  | [], _ => []
  | b :: rest, p =>
    match s.block? b with
    | none => []
    | some k => match k.st with
      | .taken i =>
        let n := (s.liveGroups k).length
        (b, k, i, p.take n, s.baseCore k i (p.take n) tileCore) :: s.backParts tileCore rest (p.drop n)
      | _ => []
/-- The place of a taken block costs no more than any other (R311). -/
def State.leastBack (s : State) (h : Nat) (l : Launch) (k : Block) (i : Saved) (core0 : Nat) (rs : List Room) : Bool :=
  match s.findBackOne h l k i rs with
  | some q => !cheaper (s.placeCost rs (i.coresAt q.2.1)) (s.placeCost rs (i.coresAt core0))
  | none => true
/-- Blocks restored one after another from a list of places, each checked. -/
def State.restoreAll (s : State) (h : Nat) (l : Launch) (tileCore : Nat) : List Nat → List (Nat × Nat) → List Room → Option State
  | [], p, _ => if p.isEmpty then some s else none
  | b :: rest, p, rs =>
    match s.block? b with
    | none => none
    | some k => match k.st with
      | .taken i =>
        let n := (s.liveGroups k).length
        let here := p.take n
        let c0 := s.baseCore k i here tileCore
        (match s.fitBack h l k i here c0 rs with
         | some r2 =>
           if s.leastBack h l k i c0 rs then (s.restoreAt b k l i here c0).restoreAll h l tileCore rest (p.drop n) r2 else none
         | none => none)
      | _ => none
/-- BLOCK_RESTORE: the taken blocks return as blocks are placed, in their turn and at least cost (R311, R316, R342). -/
def State.blockRestore (s : State) (b : Nat) (pl : Placement) : Option State :=
  match s.block? b with
  | none => none
  | some k => match s.launch? k.launch with
    | none => none
    | some l =>
      let h := k.launch
      let set := s.restoreSet h l
      let cores := nubNat ((s.backParts pl.tileCore set pl.groups).flatMap (fun q => q.2.2.1.coresAt q.2.2.2.2))
      if !s.placing || !s.queued h l || set.head? != some b || !s.mayPass h l cores then none
      else (s.restoreAll h l pl.tileCore set pl.groups (s.openRooms h l)).map (fun s1 =>
        { s1 with turn := l.ctx }.setLaunch h { l with boost := 0, waitFrom := s.clk })
/-- BLOCK_RESTORE (R342). -/
def execBlockRestore (block : Nat) (place : Placement) (s : State) : Host.Outcome State Fault Refusal :=
  whenEnabled "BLOCK_RESTORE" (s.blockRestore block place)

/-! ### The distributor's own requests (R316) -/

/-- The first waiting block could be placed now: it is the next of its launch, or with a COOP launch all that are left; blocks that were
taken return first, those of a COOP launch together (R316). -/
def State.placeable (s : State) (h : Nat) (l : Launch) : Bool :=
  if (s.takenBlocks h).isEmpty then (s.findAll h l l.batch (s.openRooms h l)).isSome
  else (s.findBack h l (s.restoreSet h l) (s.openRooms h l)).isSome
/-- DISTRIBUTOR_PREEMPT_REQUEST (R316): for the first waiting block, when it cannot be placed, of one block at a time. -/
def State.ownRequest (s : State) (b : Nat) : Option State :=
  match s.firstWaiting, s.block? b with
  | some (h, l), some k =>
    let vs := s.victims l (s.effPrio 8 h)
    let busy := s.blocks.any (fun e => match e.2.pre with | some r => r.own | none => false)
    if busy || !s.placing || s.placeable h l || !(vs.any (fun e => e.1 == b)) || !(vs.all (fun e => s.goesFirst (b, k) e)) then none
    else some ((s.together b k).foldl (fun s j => s.askPreempt j (s.clk + ownLimit) none true) s)
  | _, _ => none
/-- DISTRIBUTOR_PREEMPT_REQUEST (R316). -/
def execDistributorPreemptRequest (block : Nat) (s : State) : Host.Outcome State Fault Refusal :=
  whenEnabled "DISTRIBUTOR_PREEMPT_REQUEST" (s.ownRequest block)

end Sys2Proof.Machine
end

