-- ==== Sys2Proof/Machine/Errors.lean ====
section
/-!
DEFINITION. Errors: corrected and uncorrectable, links, the lost-unit table, scrubbing, core retirement, fatal errors and
thermal states (R382 to R390, R401).
-/
namespace Sys2Proof.Machine

/-! ### Fatal errors (R387) -/

/-- Launches with a block that runs. -/
def State.runningLaunches (s : State) : List Nat :=
  (List.filter (fun (p : Nat × Launch) => s.blocks.any (fun e => e.2.launch == p.1 && e.2.st == .running)) s.launches).map (·.1)
/-- A fatal error: no block is placed any more, every running block is aborted with cause MACHINE_CHECK, and the host is told
(R387). -/
def State.fatalError (s : State) (where_ : BitVec 32) (addr : Nat) : State :=
  let s1 := s.logError 5 where_ addr
  ((s1.runningLaunches.foldl (fun (s : State) h => s.orderAbort h 0x0D) { s1 with mstat := { s1.mstat with fatal := true } })).interrupt
/-- FATAL_ERROR (R387). -/
def execFatalError (where_ : BitVec 32) (addr : Nat) (s : State) : Host.Outcome State Fault Refusal :=
  .next (s.fatalError where_ addr)

/-! ### The lost-unit table and row sparing (R386, R390) -/

/-- Entries of a lost-unit table (R386). -/
def lostEntries : Nat := 64
/-- A row is listed for sparing (R390). -/
def State.listRow (s : State) (k : Nat) : State := if s.listed.contains k then s else { s with listed := s.listed ++ [k] }
/-- The contents of a unit or line cannot be recovered: it enters its die's table, and a table already full is fatal (R386,
R387). -/
def State.enterLost (s : State) (d addr n : Nat) : State :=
  let x := s.die d
  if x.lost.contains (addr, n) then s
  else if lostEntries ≤ x.lost.length then s.fatalError (dramWhere d addr) addr
  else s.setDie d { x with lost := x.lost ++ [(addr, n)] }
/-- A table that an earlier part of the step has overfilled: what it has no entry for is fatal (R386, R387). -/
def State.settleLost (s : State) (d : Nat) : State :=
  let x := s.die d
  if lostEntries < x.lost.length then
    (s.setDie d { x with lost := x.lost.take lostEntries }).fatalError (whereWord d 0 0 3) ((x.lost.getD lostEntries (0, 0)).1)
  else s
/-- A DRAM unit of a die. -/
def wholeUnit (d addr n : Nat) : Bool := addr % n == 0 && dramDie addr == some d
/-- An uncorrectable error in a DRAM unit: logged, its row listed, the unit lost (R386, R389, R390). -/
def State.loseUnit (s : State) (d addr : Nat) : State :=
  ((s.logError 2 (dramWhere d addr) addr).listRow (rowKey d addr)).enterLost d addr 64

/-! ### Uncorrectable errors (R384, R385) -/

/-- An error in a core's SRAM or register files is counted (R390). -/
def State.countCore (s : State) (core : Nat) : State := s.setCore core { s.core core with errors := (s.core core).errors ++ [s.clk] }
/-- WHERE of a place in a core's stores (R389): the rows of the protection table (R382). -/
def placeWhere (core : Nat) : CoreAt → BitVec 32
  | .sram w => whereWord (dieOf core) core (w / 2048) 2
  | .cache .. => whereWord (dieOf core) core 0 2
  | .queue _ | .list _ => whereWord (dieOf core) core 0 1
/-- An error in a core's stores or registers: logged, with no address, and counted (R389, R390). -/
def State.coreError (s : State) (core : Nat) (w : BitVec 32) : State := (s.logError 2 w 0).countCore core
/-- The place exists in a core. -/
def Core.hasPlace (x : Core) : CoreAt → Bool
  | .sram w => w < 65536
  | .cache p _ => p < 3
  | .queue k => k < x.queue.length
  | .list n => n < 8
/-- A register of a group, by thread and index. -/
def Group.hasReg (x : Group) : RegAt → Bool
  | .v t k => t < x.nthr && k < x.vregs
  | .s k => k < 128
  | .p t k => t < x.nthr && k < 15
  | _ => false
/-- A register of a context. -/
def tileReg? : RegAt → Bool
  | .t k => k < 32
  | .f k => k < 8
  | _ => false
/-- An engine operation of R385: copy, map and bank operations, binning, sweep, fibre, deque, KV, prefix, random, collective and page
operations; a bound update and a range handoff are none. -/
def Op.engine (o : Op) : Bool :=
  !o.done && (match o.instr with
    | .bndup _ | .vacq _ | .vrel _ => false
    | .fbopen _ | .fbnext _ | .pgreq _ => true
    | _ => o.cls == .cp || o.cls == .en)
/-- A failed operation leaves the lists of its core and die that name it. -/
def State.unlist (s : State) (x : Group) (r : OpRef) : State :=
  let d := dieOf x.core
  let y := s.die d
  let s1 := s.setDie d { y with neigh := y.neigh.filter (fun p => p.1 != r) }
  (List.range 4).foldl (fun s d =>
    let z := s.die d
    s.setDie d { z with slots := List.map (fun (p : Nat × RngSlot) => (p.1, { p.2 with tickets := p.2.tickets.filter (· != r) })) z.slots })
    s1
/-- The event of the error log for data that an operation meets at a virtual address (R389). -/
def State.logAt (s : State) (c core addr : Nat) : State :=
  match s.pa? c addr with
  | some pa => s.logError 2 (match dramDie pa with | some d => dramWhere d pa | none => whereWord (dieOf core) 0 0 5) pa
  | none => s.logError 2 (whereWord (dieOf core) core (addr / 16384) 2) 0
/-- UNCORRECTABLE_ERROR: a code that cannot be corrected stands in a store from now on. A DRAM unit or an L2 line at its home enters the
lost-unit table (R386); a register or a place of a core fails at each later read, which takes MACHINE_CHECK before any effect, until it
is written (R384); an engine operation that meets it fails (R385). -/
def State.uncorrectable (s : State) : ErrorSite → Option State
  | .unit d addr => if d < 4 && wholeUnit d addr 64 then some (s.loseUnit d addr) else none
  | .line d addr =>
    if d < 4 && wholeUnit d addr 128 then some ((s.logError 2 (whereWord d 0 0 3) addr).enterLost d addr 128) else none
  | .group g q =>
    match s.group? g with
    | none => none
    | some x =>
      if x.status = .ended || !x.resident || !x.hasReg q then none
      else some ((s.coreError x.core (whereWord (dieOf x.core) x.core 0 1)).setGroup g { x with bad := q :: x.bad.filter (· != q) })
  | .tile t q =>
    match s.tile? t with
    | none => none
    | some x =>
      if x.status = .ended || !x.resident || !tileReg? q then none
      else some ((s.coreError x.core (whereWord (dieOf x.core) x.core 0 1)).setTile t { x with bad := q :: x.bad.filter (· != q) })
  | .core c a =>
    if c < 128 && (s.core c).hasPlace a then
      let s1 := s.coreError c (placeWhere c a)
      let y := s1.core c
      some (s1.setCore c { y with bad := a :: y.bad.filter (· != a) })
    else none
  | .op g n addr =>
    match s.opAt? (OpRef.mk g n) with
    | none => none
    | some (x, o) =>
      if o.engine then some ((State.failOp (s.logAt (s.ctxOf x.launch) x.core addr) (OpRef.mk g n) addr).unlist x (OpRef.mk g n))
      else none
/-- UNCORRECTABLE_ERROR (R384). -/
def execUncorrectableError (where_ : ErrorSite) (s : State) : Host.Outcome State Fault Refusal :=
  whenEnabled "UNCORRECTABLE_ERROR" (s.uncorrectable where_)

/-! ### Corrected errors, scrubbing, sweeping (R382, R388, R390) -/

/-- Corrected errors of a row within one scrub period after one more: at 16 the row is listed (R390). -/
def State.countRow (s : State) (k : Nat) : State :=
  let n := ((s.rowErrors.find? (fun p => p.1 == k)).map (·.2)).getD 0 + 1
  let s1 := { s with rowErrors := s.rowErrors.filter (fun p => p.1 != k) ++ [(k, n)] }
  if 16 ≤ n then s1.listRow k else s1
/-- CORRECTED_ERROR: logged, and counted for its row where it lies in DRAM; nothing else changes (R382, R389, R390). -/
def State.corrected (s : State) (w : BitVec 32) (addr : Nat) : State :=
  let s1 := s.logError 1 w addr
  match bits w.toNat 12 4, dramDie addr with
  | 4, some d => s1.countRow (rowKey d addr)
  | _, _ => s1
/-- CORRECTED_ERROR (R382). -/
def execCorrectedError (where_ : BitVec 32) (addr : Nat) (s : State) : Host.Outcome State Fault Refusal :=
  .next (s.corrected where_ addr)
/-- An hour in clocks (R2). -/
def hourClocks : Nat := 2880000000000
/-- The scrub period of a die is over (R388). -/
def State.scrubDue (s : State) (d : Nat) : Bool := decide ((s.die d).scrubbed + (s.die d).scrubH * hourClocks ≤ s.clk)
/-- An hour has passed since the last sweep of a die's L2 (R388). -/
def State.sweepDue (s : State) (d : Nat) : Bool := decide ((s.die d).swept + hourClocks ≤ s.clk)
/-- SCRUB_PASS: once in each scrub period, at its end, every unit has been read; those that are uncorrectable are lost; the period's
count of corrected errors begins again (R388, R390). -/
def State.scrub (s : State) (d : Nat) (bad : List Nat) : Option State :=
  if d < 4 && s.mstat.ready && s.scrubDue d && bad.all (fun a => wholeUnit d a 64) then
    let s1 := bad.foldl (fun s a => s.loseUnit d a) s
    some ({ s1 with rowErrors := s1.rowErrors.filter (fun p => p.1 % 4 != d) }.setDie d { s1.die d with scrubbed := s.clk })
  else none
/-- SCRUB_PASS (R388). -/
def execScrubPass (die : Nat) (bad : List Nat) (s : State) : Host.Outcome State Fault Refusal :=
  whenEnabled "SCRUB_PASS" (s.scrub die bad)
/-- L2_SWEEP: once in each hour; the lines of 128 bytes that are uncorrectable are lost (R386, R388). -/
def State.sweepL2 (s : State) (d : Nat) (bad : List Nat) : Option State :=
  if d < 4 && s.mstat.ready && s.sweepDue d && bad.all (fun a => wholeUnit d a 128) then
    let s1 := bad.foldl (fun s a => (s.logError 2 (whereWord d 0 0 3) a).enterLost d a 128) s
    some (s1.setDie d { s1.die d with swept := s.clk })
  else none
/-- L2_SWEEP (R388). -/
def execL2Sweep (die : Nat) (bad : List Nat) (s : State) : Host.Outcome State Fault Refusal :=
  whenEnabled "L2_SWEEP" (s.sweepL2 die bad)

/-! ### Core retirement (R390) -/

/-- 24 hours in clocks (R2). -/
def dayClocks : Nat := 69120000000000
/-- CORE_RETIRE: a core with two uncorrectable errors within 24 hours takes no block any more, and its blocks are pre-empted
under the distributor's own requests (R316, R390). -/
def State.retireCore (s : State) (c : Nat) : Option State :=
  let x := s.core c
  let near := x.errors.any (fun a => 2 ≤ (x.errors.filter (fun b => a ≤ b && b ≤ a + dayClocks)).length)
  if x.retired || !near || 128 ≤ c then none
  else
    let s1 := { s.setCore c { x with retired := true } with retired := s.retired ++ [c] }
    some ((List.filter (fun (e : Nat × Block) => e.2.st == .running && e.2.cores.contains c) s.blocks).foldl
      (fun s e => (s.together e.1 e.2).foldl (fun s j => s.askPreempt j (s.clk + ownLimit) none true) s) s1)
/-- CORE_RETIRE (R390). -/
def execCoreRetire (core : Nat) (s : State) : Host.Outcome State Fault Refusal := whenEnabled "CORE_RETIRE" (s.retireCore core)

/-! ### Links (R383) -/

/-- WHERE of a link: store row 5, and the die of a die-to-die port (R389). -/
def linkWhere : Link → BitVec 32
  | .dieToDie a _ => whereWord a 0 0 5
  | .stolvin _ => whereWord 0 0 0 5
/-- A link of the module: a port between neighbouring dies, or one of 16 Stolvin ports (R1). -/
def linkOk : Link → Bool
  | .dieToDie a b => a < 4 && b < 4 && ((a = 0 || a = 3) == (b = 1 || b = 2))
  | .stolvin p => p < 16
/-- Retries of the flit that a link retried last. -/
def State.retries (s : State) (l : Link) : Nat := ((s.linkErrs.find? (fun p => p.1 == l)).map (·.2)).getD 0
/-- LINK_RETRY: the second to sixteenth retry of the flit retried last (`again`), or the first of another one (R383). -/
def State.linkRetry (s : State) (l : Link) (again : Bool) : Option State :=
  if !linkOk l || s.downs.contains l || (again && (s.retries l = 0 || s.retries l = 16)) then none
  else
    let n := if again then s.retries l + 1 else 1
    some { s.logError 3 (linkWhere l) 0 with linkErrs := s.linkErrs.filter (fun p => p.1 != l) ++ [(l, n)] }
/-- LINK_RETRY (R383). -/
def execLinkRetry (link : Retry) (s : State) : Host.Outcome State Fault Refusal :=
  whenEnabled "LINK_RETRY" (s.linkRetry link.link link.again)
/-- LINK_DOWN: the flit retried last fails a 17th time; between dies it is fatal (R383, R387). -/
def State.linkDown (s : State) (l : Link) : Option State :=
  if !linkOk l || s.downs.contains l || s.retries l != 16 then none
  else
    let s1 := { s.logError 4 (linkWhere l) 0 with downs := s.downs ++ [l] }
    some (match l with
      | .dieToDie .. => s1.fatalError (linkWhere l) 0
      | .stolvin _ => s1)
/-- LINK_DOWN (R383). -/
def execLinkDown (link : Link) (s : State) : Host.Outcome State Fault Refusal := whenEnabled "LINK_DOWN" (s.linkDown link)

/-! ### Heat (R401) -/

/-- Every core loses its power. -/
def State.powerDown (s : State) : State :=
  { s with cores := List.map (fun (p : Nat × Core) => (p.1, { p.2 with powered := false })) s.cores }
/-- THERMAL_STATE_CHANGE: MSTAT.THERM shows the new state and the control processor is interrupted; TRIP is fatal and powers the dies
down, and it too is left once the module has cooled, though the fatal error stands until module reset (R387, R401). -/
def State.thermal (s : State) (entered : BitVec 2) : Option State :=
  if s.mstat.therm = entered then none
  else
    let s1 := { s.ctlInterrupt with mstat := { s.mstat with therm := entered } }
    some (if entered = 3 then (s1.fatalError 0 0).powerDown else s1)
/-- THERMAL_STATE_CHANGE (R401). -/
def execThermalStateChange (entered : BitVec 2) (s : State) : Host.Outcome State Fault Refusal :=
  whenEnabled "THERMAL_STATE_CHANGE" (s.thermal entered)

end Sys2Proof.Machine
end

