-- ==== Sys2Proof/Machine/Exchange.lean ====
section
/-!
DEFINITION. The active and pending sets of a partition and the end of a deferral (R99, R238 to R240).
-/
namespace Sys2Proof.Machine

/-- The groups of a partition that have a place: resident and not ended. -/
def State.partGroups (s : State) (core part : Nat) : List (Nat × Group) :=
  List.filter (fun (p : Nat × Group) => p.2.core == core && p.2.part == part && p.2.resident && p.2.status != .ended) s.groups
/-- The earliest of a list of groups by the clock at which they entered their present set, ties to the earlier handle. -/
def earliestPlaced : List (Nat × Group) → Option (Nat × Group)
  | [] => none
  | p :: r => match earliestPlaced r with
    | some q => if q.2.placedAt < p.2.placedAt then some q else some p
    | none => some p
/-- The oldest Ready group of the pending set (R240). -/
def State.oldestPending (s : State) (core part : Nat) : Option (Nat × Group) :=
  earliestPlaced ((s.partGroups core part).filter (fun p => !p.2.active && s.groupReady p.1 p.2))
/-- Clocks of an exchange (R240). -/
def exchangeClocks : Nat := 2
/-- A pending group takes an active place, which issues nothing for 2 clocks; the group that had it, if any, is pending
(R240). -/
def State.swap (s : State) (out : Option (Nat × Group)) (g : Nat) (x : Group) : State :=
  let s1 := match out with
    | some (h, y) => s.setGroup h { y with active := false, placedAt := s.clk }
    | none => s
  s1.setGroup g { x with active := true, placedAt := s.clk + exchangeClocks, readyAt := some (x.readyAt.getD s.clk) }
/-- GROUP_EXCHANGE: the place of an active group that waits or is Faulted, or an empty place, goes to the oldest Ready pending
group (R240). Of several that wait or are Faulted the first by handle gives up its place: the rule orders none of them (DESIGN CHOICE,
log entry 107). -/
def State.exchange (s : State) (core part : Nat) : Option State :=
  match s.oldestPending core part with
  | none => none
  | some (g, x) =>
    let act := (s.partGroups core part).filter (fun p => p.2.active)
    if act.length < 8 then some (s.swap none g x)
    else (act.find? (fun p => !s.groupReady p.1 p.2)).map (fun o => s.swap (some o) g x)
/-- GROUP_EXCHANGE (R240). -/
def execGroupExchange (core part : Nat) (s : State) : Host.Outcome State Fault Refusal :=
  whenEnabled "GROUP_EXCHANGE" (s.exchange core part)
/-- YIELD_DEPENDENCE_END: at the clock after the YIELD the all-deferred group is Ready again; the exchange that the YIELD
gave occasion for is made first (R99, R239, R240). -/
def State.endDeferral (s : State) (g : Nat) : Option State :=
  match s.group? g with
  | some x => match x.wait with
    | some (.deferral at_) =>
      if at_ < s.clk && (!x.active || (s.exchange x.core x.part).isNone) then some (s.setGroup g { x with wait := none }) else none
    | _ => none
  | none => none
/-- YIELD_DEPENDENCE_END (R99). -/
def execYieldDependenceEnd (group : Nat) (s : State) : Host.Outcome State Fault Refusal :=
  whenEnabled "YIELD_DEPENDENCE_END" (s.endDeferral group)

/-- Clocks for which a pending group is Ready before it forces an exchange (R240). -/
def forceClocks : Nat := 1024
/-- The clock from which on a pending group forces an exchange: its 1,024 clocks run from when it became Ready, or from when it entered the
pending set if it was Ready before: the rule does not say from when (R240; DESIGN CHOICE, log entry 107). -/
def Group.forceAt (x : Group) : Option Nat := x.readyAt.map (fun t => max t x.placedAt + forceClocks)
/-- FORCED_EXCHANGE: the oldest pending group that has been Ready for 1,024 clocks takes the place of the group active longest;
at most one such exchange is made in a clock (R240). -/
def State.forceExchange (s : State) (core part : Nat) : Option State :=
  let here := s.partGroups core part
  let due := here.filter (fun p => !p.2.active && s.groupReady p.1 p.2 &&
    (match p.2.forceAt with | some t => t ≤ s.clk | none => false))
  if here.any (fun p => p.2.active && p.2.placedAt == s.clk + exchangeClocks) then none
  else match earliestPlaced due, earliestPlaced (here.filter (fun p => p.2.active)) with
  | some (g, x), some o => some (s.swap (some o) g x)
  | _, _ => none
/-- FORCED_EXCHANGE (R240). -/
def execForcedExchange (core part : Nat) (s : State) : Host.Outcome State Fault Refusal :=
  whenEnabled "FORCED_EXCHANGE" (s.forceExchange core part)

end Sys2Proof.Machine
end

