-- ==== Sys2Proof/Machine/Quartz.lean ====
section
/-!
DEFINITION. Quartz units: probes, samples, the control processor's readings, states and registers (R374 to R380).
-/
namespace Sys2Proof.Machine

/-- Whole ns of an advance of `q` quarter ns slowed by a drift in units of 0.01 ppm, rounded down (R375). -/
def slowed (q drift : Nat) : Nat := q * (100000000 - drift) / 400000000
/-- Whole ns of an advance quickened by a drift, rounded up (R375). -/
def quickened (q drift : Nat) : Nat := (q * (100000000 + drift) + 399999999) / 400000000
/-- A Quartz unit changed. -/
def State.setQuartz (s : State) (d : Nat) (q : Quartz) : State := s.setDie d { s.die d with quartz := q }
/-- Clocks in `n` µs (R2). -/
def usClocks (n : Nat) : Nat := 800 * n
/-- AGE: µs since the last accepted sample, saturating (R378). -/
def State.quartzAge (s : State) (q : Quartz) : Nat := min (2 ^ 46 - 1) ((s.clk - q.sampled) / 800)
/-- AGE has reached 1,000 × PERIOD (R379). -/
def State.stale (s : State) (q : Quartz) : Bool := 1000 * q.period.toNat ≤ s.quartzAge q

/-! ### Probes (R376, R377) -/

/-- The dies that a die has a port to (R1). -/
def neighbours (d : Nat) : List Nat := if d = 0 || d = 3 then [1, 2] else [0, 3]
/-- A party from which a die takes samples (R377). -/
def State.partyOk (s : State) (d : Nat) : Party → Bool
  | .die b => (neighbours d).contains b
  | .peer n => s.peers.any (fun r => r.1 == n && !s.downs.contains (.stolvin r.2))
  | .control => true
/-- The interval that the control processor answers with at this clock, none before FW_BOUND or without a reading (R377). -/
def State.controlInterval (s : State) : Option (Nat × Nat) :=
  match s.ptm with
  | none => none
  | some (host, at_, bound) =>
    let q := quartersSince s.clk at_
    some (host + slowed q s.ctlDrift.toNat - bound, host + bound + quickened q s.ctlDrift.toNat)
/-- The interval that a party inside the module reads as a probe arrives; a die in UNSET has none to give (R376). -/
def State.readParty (s : State) : Party → Option (Nat × Nat)
  | .die b => if (s.die b).quartz.state = .unset then none else some (s.earliest b, s.latest b)
  | .peer _ => none
  | .control => s.controlInterval
/-- QUARTZ_PROBE: once in each PERIOD a die sends a probe to a party (R376, R377). -/
def State.probe (s : State) (d : Nat) (p : Party) : Option State :=
  let q := (s.die d).quartz
  let recent := q.probes.any (fun r => r.party == p && decide (s.clk < r.sent + usClocks q.period.toNat))
  if 4 ≤ d || !s.partyOk d p || recent then none
  else some (s.setQuartz d { q with probes := q.probes.filter (fun r => r.party != p) ++ [Probe.mk p s.clk true (s.readParty p)] })
/-- QUARTZ_PROBE (R377). -/
def execQuartzProbe (die : Nat) (party : Party) (s : State) : Host.Outcome State Fault Refusal :=
  whenEnabled "QUARTZ_PROBE" (s.probe die party)
/-- PEER_PROBE: a die answers a peer's probe with its interval read at arrival, or not at all while UNSET (R376). -/
def State.peerProbe (s : State) (d : Nat) : Option State :=
  if 4 ≤ d then none
  else if (s.die d).quartz.state = .unset then some s
  else some { s with told := some (s.earliest d, s.latest d) }
/-- PEER_PROBE (R376). -/
def execPeerProbe (die : Nat) (s : State) : Host.Outcome State Fault Refusal := whenEnabled "PEER_PROBE" (s.peerProbe die)

/-! ### Samples (R376, R379, R380) -/

/-- The state of a unit that is not UNSET, by its half-width and the age of its last sample (R379). -/
def stateFor (q : Quartz) (lo hi : Nat) (old : Bool) : QState :=
  if 2 * q.qlim.toNat < hi - lo then .wide else if old then .free else .locked
/-- A move between states of which the control processor is told: an entry to WIDE or FREE, or an exit from WIDE (R379). -/
def tells (a b : QState) : Bool := a != b && (b == .wide || b == .free || a == .wide)
/-- A unit replaced by one in another state perhaps; the control processor is interrupted where R379 says. -/
def State.moveQuartz (s : State) (d : Nat) (q : Quartz) : State :=
  (if tells (s.die d).quartz.state q.state then s.ctlInterrupt else s).setQuartz d q
/-- A candidate interval meets the interval that a die holds (R376). -/
def State.agrees (s : State) (d lo hi : Nat) : Bool := lo ≤ s.latest d && s.earliest d ≤ hi
/-- A candidate interval reaches a unit: it intersects, or is discarded and counted as a conflict (R376). -/
def State.sampled (s : State) (d : Nat) (q : Quartz) (lo hi : Nat) : Quartz :=
  let e := s.earliest d
  let l := s.latest d
  if s.agrees d lo hi then
    let e2 := max e lo
    let l2 := min l hi
    { q with e0 := e2, l0 := l2, base := s.clk, sampled := s.clk, state := stateFor q e2 l2 false }
  else { q with conflicts := if q.conflicts = 0xFFFF then q.conflicts else q.conflicts + 1 }
/-- The interval that an answer brings; none where the answering party is in UNSET (R376). -/
def answerOf (r : Probe) : Answer → Option (Nat × Nat)
  | .own => r.answer
  | .peer lo hi unset => if unset then none else some (lo, hi)
/-- QUARTZ_SAMPLE: the answer to an open probe; while UNSET a die takes only the control processor's (R376, R380). A conflict interrupts
the control processor (R376). -/
def State.sample (s : State) (d : Nat) (p : Party) (a : Answer) : Option State :=
  let q := (s.die d).quartz
  match q.probes.find? (fun r => r.party == p && r.open_) with
  | none => none
  | some r =>
    let y := { q with probes := q.probes.map (fun t => if t.party = p then { t with open_ := false } else t) }
    match p, a with
    | .peer _, .own => none
    | .die _, .peer .. => none
    | .control, .peer .. => none
    | _, _ =>
      if p = .control && r.answer.isNone then none
      else some (match answerOf r a with
        | some (lo, hi) =>
          let top := hi + quickened (quartersSince s.clk r.sent) q.qdrift.toNat
          if q.state = .unset && p != .control then s.setQuartz d y
          else (if s.agrees d lo top then s else s.ctlInterrupt).moveQuartz d (s.sampled d y lo top)
        | none => s.setQuartz d y)
/-- QUARTZ_SAMPLE (R376). -/
def execQuartzSample (die : Nat) (party : Party) (answer : Answer) (s : State) : Host.Outcome State Fault Refusal :=
  whenEnabled "QUARTZ_SAMPLE" (s.sample die party answer)
/-- PTM_READING: the control processor reads the host's clock; the bound in force is taken with it (R377). -/
def execPtmReading (hostTime : Nat) (s : State) : Host.Outcome State Fault Refusal :=
  .next (match s.ptmBound with
    | some b => { s with ptm := some (hostTime, s.clk, b) }
    | none => s)

/-! ### States and registers (R378, R379) -/

/-- QUARTZ_FREE: AGE has reached 1,000 × PERIOD (R379). -/
def State.goFree (s : State) (d : Nat) : Option State :=
  let q := (s.die d).quartz
  if q.state = .locked && s.stale q then some (s.moveQuartz d { q with state := .free }) else none
/-- QUARTZ_FREE (R379). -/
def execQuartzFree (die : Nat) (s : State) : Host.Outcome State Fault Refusal := whenEnabled "QUARTZ_FREE" (s.goFree die)
/-- QUARTZ_WIDE: the half-width has passed QLIM (R379). -/
def State.goWide (s : State) (d : Nat) : Option State :=
  let q := (s.die d).quartz
  if (q.state = .locked || q.state = .free) && s.tooWide d then some (s.moveQuartz d { q with state := .wide }) else none
/-- QUARTZ_WIDE (R379). -/
def execQuartzWide (die : Nat) (s : State) : Host.Outcome State Fault Refusal := whenEnabled "QUARTZ_WIDE" (s.goWide die)

/-- STATE as QSTAT codes it (R378). -/
def QState.code : QState → Nat
  | .unset => 0 | .locked => 1 | .free => 2 | .wide => 3
/-- QSTAT (R378). -/
def State.qstat (s : State) (d : Nat) : Word :=
  let q := (s.die d).quartz
  BitVec.ofNat 64 (q.conflicts.toNat * 2 ^ 48 + s.quartzAge q * 4 + q.state.code)
/-- QCFG (R378). -/
def State.qcfg (s : State) (d : Nat) : Word :=
  let q := (s.die d).quartz
  BitVec.ofNat 64 (q.qlim.toNat * 2 ^ 32 + q.qdrift.toNat * 2 ^ 16 + q.period.toNat)
/-- QSTAT_READ: the register is returned and CONFLICTS cleared (R378). -/
def State.readQstat (s : State) (d : Nat) : Option State :=
  if 4 ≤ d then none
  else some ({ s with hostRead := some (s.qstat d) }.setQuartz d { (s.die d).quartz with conflicts := 0 })
/-- QSTAT_READ (R378). -/
def execQstatRead (die : Nat) (s : State) : Host.Outcome State Fault Refusal := whenEnabled "QSTAT_READ" (s.readQstat die)

/-- QDRIFT as it is written: at least 1,000 (R378). -/
def driftOf (v : Word) : BitVec 16 :=
  let d := v.toNat / 2 ^ 16 % 2 ^ 16
  BitVec.ofNat 16 (if d < 1000 then 1000 else d)
/-- PERIOD as it is written: at least 1 (R378). -/
def periodOf (v : Word) : BitVec 16 :=
  let p := v.toNat % 2 ^ 16
  BitVec.ofNat 16 (if p = 0 then 1 else p)
/-- QCFG of one die written; a change of QDRIFT is a base event (R375, R378, R379). -/
def State.writeQcfg (s : State) (d : Nat) (v : Word) : State :=
  let q := (s.die d).quartz
  let y := { q with qlim := BitVec.ofNat 32 (v.toNat / 2 ^ 32), qdrift := driftOf v, period := periodOf v }
  if q.state = .unset then s.setQuartz d y
  else
    let z := if y.qdrift = q.qdrift then y else { y with e0 := s.earliest d, l0 := s.latest d, base := s.clk }
    s.moveQuartz d { z with state := stateFor z (s.earliest d) (s.latest d) (s.stale z) }

end Sys2Proof.Machine
end

