-- ==== Sys2Proof/Machine/Firmware.lean ====
section
/-!
DEFINITION. The host's windows and the control processor's firmware commands (R392 to R399).
-/
namespace Sys2Proof.Machine

/-! ### The mailbox (R398) -/

/-- Where host memory begins in the system range (R399). -/
def hostBase : Nat := 0x10000000000
/-- A span of host memory that the system range reaches (R399). -/
def hostSpan (a n : Nat) : Bool := hostBase + a + n ≤ 0x80000000000000
/-- The n32 at offset 0 of a command in host memory (R398). -/
def State.fwNumber (s : State) (a : Nat) : Nat := s.num (hostBase + a) 4
/-- A command is answered: its status stands at offset 4 (R398). -/
def State.fwAnswer (s : State) (a status : Nat) : State :=
  let s1 := if hostSpan a 64 then s.setNum (hostBase + a + 4) 4 status else s
  { s1 with mbox := { s1.mbox with answered := some (a, status) } }
/-- The command is FW_LOG or FW_ATTEST, which are carried out before READY too (R398). -/
def State.fwEarly (s : State) (a : Nat) : Bool :=
  a % 64 == 0 && hostSpan a 64 && (s.fwNumber a == 3 || s.fwNumber a == 4)
/-- The status of a command that is not carried out: before READY 2 for every one but FW_LOG and FW_ATTEST, else 1 for a malformed one
(R398). -/
def State.fwVerdict (s : State) (a : Nat) : Option Nat :=
  let n := s.fwNumber a
  if !s.mstat.ready && !s.fwEarly a then some 2
  else if a % 64 != 0 || !hostSpan a 64 || n = 0 || 10 < n then some 1
  else none
/-- Commands at the head of the mailbox that are not carried out are answered, in order (R398). -/
def State.fwSettle (s : State) : Nat → State
  | 0 => s
  | k + 1 =>
    match s.mbox.queue with
    | [] => s
    | a :: rest =>
      match s.fwVerdict a with
      | some st => ({ s with mbox := { s.mbox with queue := rest } }.fwAnswer a st).fwSettle k
      | none => s
/-- MBOX_WRITE: the command waits its turn; with BOOTFAIL set none is answered (R398). -/
def State.mboxWrite (s : State) (a : Nat) : State :=
  if s.mstat.bootfail then s
  else ({ s with mbox := { s.mbox with queue := s.mbox.queue ++ [a] } }).fwSettle (s.mbox.queue.length + 1)
/-- MBOX_WRITE (R398). -/
def execMboxWrite (addr : Nat) (s : State) : Host.Outcome State Fault Refusal := .next (s.mboxWrite (wrap64 addr))

/-- The command at the head of the mailbox, where it has the number given. -/
def State.fwHead (s : State) (n : Nat) : Option Nat :=
  match s.mbox.queue with
  | [] => none
  | a :: _ => if s.mstat.bootfail || s.fwNumber a != n || (s.fwVerdict a).isSome then none else some a
/-- The command at the head completes with a status (R398). -/
def State.fwDone (s : State) (a status : Nat) : State :=
  let rest := s.mbox.queue.drop 1
  ({ s with mbox := { s.mbox with queue := rest, destroying := none } }.fwAnswer a status).fwSettle rest.length
/-- A firmware command of one step: its effect where it is well formed, else status 1 (R398). -/
def State.firmware (s : State) (n : Nat) (k : Option State) : Option State :=
  (s.fwHead n).map (fun a => match k with
    | some t => t.fwDone a 0
    | none => s.fwDone a 1)

/-! ### Contexts (R398) -/

/-- The number of contexts (R396). -/
def ctxCount : Nat := 512
/-- The least free context number. -/
def State.freeCtx (s : State) : Option Nat := (List.range ctxCount).find? (fun c => (s.ctx? c).isNone)
/-- A context as FW_CTX creates it; debug readback and breakpoints are off (R398). -/
def newCtx (a : FwCtxArgs) : Ctx where
  root := a.root
  ctl := a.ctl
  fault := a.fault
  req := a.req
  hostQ := a.hostQ
  devQ := a.devQ
  rung := []
  nextLid := 1
  serial := 0
  faults := []
  reqs := []
  asked := []
  vacqs := []
  pend := []
  save := none
  readback := false
  bken := false
  replays := []
  held := []
/-- A well-formed FW_CTX: at most 16 host and 8 device queues, descriptors 64-aligned, the root table 4 KiB-aligned (R312,
R322, R398). -/
def ctxArgsOk (a : FwCtxArgs) : Bool :=
  a.root % 4096 == 0 && a.hostQ.length ≤ 16 && a.devQ.length ≤ 8 &&
    (a.ctl :: a.fault :: a.req :: a.hostQ ++ a.devQ).all (fun q => q % 64 == 0 && q < 2 ^ 56) && a.root < 2 ^ 56
/-- FW_CTX: a context is created, whose pages have not moved, and its number returned; with none free the command is refused (R398). -/
def State.fwCtx (s : State) (a : FwCtxArgs) : Option State :=
  s.firmware 1 (match s.freeCtx with
    | some c => if ctxArgsOk a then some { s.setCtx c (newCtx a) with
        hostRead := some (BitVec.ofNat 64 c), history := s.history.filter (fun p => p.1 / 2 ^ 48 != c) } else none
    | none => none)
/-- FW_CTX (R398). -/
def execFwCtx (args : FwCtxArgs) (s : State) : Host.Outcome State Fault Refusal := whenEnabled "FW_CTX" (s.fwCtx args)

/-- The launches of a context. -/
def State.launchesOf (s : State) (c : Nat) : List Nat :=
  (List.filter (fun (p : Nat × Launch) => p.2.ctx == c) s.launches).map (·.1)
/-- A context's queues are closed and every launch of it that has not ended is aborted with cause ABORTED (R338, R398). -/
def State.closeCtx (s : State) (c : Nat) : State :=
  ((s.launchesOf c).foldl (fun s h => s.orderAbort h 0x21) s).updCtx c (fun x =>
    { x with hostQ := [], devQ := [], ctl := 0, rung := [] })
/-- A context leaves every frame that it reached as stamped memory (R324, R344). -/
def State.leaveFrames (s : State) (c : Nat) : State :=
  s.users.foldl (fun s e => (e.2.filter (fun u => u.1 == c)).foldl (fun s u => s.leaveFrame u.1 u.2 e.1) s) s
/-- Everything of a context leaves the device (R398), but its pages' move histories, which stand until the number names another context,
and the line stamps of frames onto which another context is mapped (R6, R344; log entry 106). -/
def State.freeCtxState (s : State) (c : Nat) : State :=
  let ls := s.launchesOf c
  let s1 := { s with ctxs := List.filter (fun (p : Nat × Ctx) => p.1 != c) s.ctxs }
  let s2 := { s1 with launches := List.filter (fun (p : Nat × Launch) => p.2.ctx != c) s.launches }
  let s3 := { s2 with blocks := List.filter (fun (p : Nat × Block) => !ls.contains p.2.launch) s.blocks }
  let s4 := { s3 with groups := List.filter (fun (p : Nat × Group) => !ls.contains p.2.launch) s.groups }
  let s5 := { s4 with tiles := List.filter (fun (p : Nat × Tile) => !ls.contains p.2.launch) s.tiles }
  let s6 := { s5 with moves := List.filter (fun (p : Nat × Move) => p.2.ctx != c) s.moves }
  { s6 with shards := s.shards.filter (fun q => q.ctx != c) }.leaveFrames c
/-- Every launch of a context has ended. -/
def State.ctxOver (s : State) (c : Nat) : Bool :=
  s.launches.all (fun (p : Nat × Launch) => p.2.ctx != c || p.2.outcome.isSome)
/-- FW_DESTROY: the first step stops the context; once its launches have ended, the next frees it (R398). -/
def State.fwDestroy (s : State) (c : Nat) : Option State :=
  match s.fwHead 2 with
  | none => none
  | some a =>
    match s.mbox.destroying with
    | none =>
      if (s.ctx? c).isNone then some (s.fwDone a 1)
      else
        let s1 := s.closeCtx c
        some { s1 with mbox := { s1.mbox with destroying := some c } }
    | some d => if d = c && s.ctxOver c then some ((s.freeCtxState c).fwDone a 0) else none
/-- FW_DESTROY (R398). -/
def execFwDestroy (ctx : Nat) (s : State) : Host.Outcome State Fault Refusal := whenEnabled "FW_DESTROY" (s.fwDestroy ctx)

/-! ### Reports (R389, R394, R398) -/

/-- The 32 bytes of an error-log record (R389). -/
def LogRec.bytes (r : LogRec) : List Byte :=
  leBytes 4 r.kind ++ leBytes 4 r.where_.toNat ++ leBytes 8 r.addr ++ leBytes 8 r.time ++ leBytes 4 r.count ++ leBytes 4 0
/-- FW_LOG: up to 64 records, oldest first, go to a host buffer and leave the log; their count is returned (R398). -/
def State.fwLog (s : State) (buffer : Nat) : Option State :=
  s.firmware 3 (
    let l := s.log.take 64
    if hostSpan buffer (32 * l.length) then
      let s1 := s.putBytes pathAll homeCore none (hostBase + buffer) (l.flatMap LogRec.bytes)
      some { s1 with log := s.log.drop 64, hostRead := some (BitVec.ofNat 64 l.length) }
    else none)
/-- FW_LOG (R398). -/
def execFwLog (buffer : Nat) (s : State) : Host.Outcome State Fault Refusal := whenEnabled "FW_LOG" (s.fwLog buffer)

/-- The report that the security engine forms for a nonce, with the two certificates after it (R394). -/
def State.attest (s : State) (nonce : Nat) : Report where
  nonce := nonce
  images := s.booted.map (fun i => (i.measured, i.version))
  rollback := Config.rollback
  retired := s.retired.length
  spared := s.spared.length
  debugged := s.debugged
  earliest := s.earliest 0
  signature := (List.range 96).map (Config.signatureByte s.stepNo)
  attestation := (List.range 192).map (Config.attestationByte (s.booted.map (·.measured)))
  identity := (List.range 192).map Config.identityByte
/-- FW_ATTEST: the report for a 48-byte nonce is returned (R394, R398). -/
def State.fwAttest (s : State) (nonce buffer : Nat) : Option State :=
  s.firmware 4 (if nonce < 2 ^ 384 && hostSpan buffer 0 then some { s with report := some (s.attest nonce) } else none)
/-- FW_ATTEST (R394). -/
def execFwAttest (nonce buffer : Nat) (s : State) : Host.Outcome State Fault Refusal :=
  whenEnabled "FW_ATTEST" (s.fwAttest nonce buffer)

/-! ### Settings (R377, R378, R388, R396, R398, R399) -/

/-- FW_QCFG: QCFG of every die, and the drift that the control processor's own interval uses (R377, R378). -/
def State.fwQcfg (s : State) (v : Word) : Option State :=
  s.firmware 5 (some { (List.range 4).foldl (fun s d => s.writeQcfg d v) s with ctlDrift := driftOf v })
/-- FW_QCFG (R378). -/
def execFwQcfg (value : Word) (s : State) : Host.Outcome State Fault Refusal := whenEnabled "FW_QCFG" (s.fwQcfg value)

/-- FW_SCRUB: the scrub period of every die, 1 to 168 hours (R388). -/
def State.fwScrub (s : State) (hours : Nat) : Option State :=
  s.firmware 6 (if 1 ≤ hours && hours ≤ 168 then
    some ((List.range 4).foldl (fun s d => s.setDie d { s.die d with scrubH := hours }) s) else none)
/-- FW_SCRUB (R388). -/
def execFwScrub (hours : Nat) (s : State) : Host.Outcome State Fault Refusal := whenEnabled "FW_SCRUB" (s.fwScrub hours)

/-- FW_DEBUG: readback and breakpoints of a context, for the launches that the device takes from now on; an enabling of readback is
recorded for attestation (R392, R398). -/
def State.fwDebug (s : State) (c : Nat) (readback bken : Bool) : Option State :=
  s.firmware 7 (if (s.ctx? c).isSome then
    some { s.updCtx c (fun x => { x with readback := readback, bken := bken }) with debugged := s.debugged || readback } else none)
/-- FW_DEBUG (R398). -/
def execFwDebug (ctx : Nat) (readback breakpoints : Bool) (s : State) : Host.Outcome State Fault Refusal :=
  whenEnabled "FW_DEBUG" (s.fwDebug ctx readback breakpoints)

/-- FW_PEERS: the route table, (peer, port) by (peer, port); the module has 16 Stolvin ports (R1, R399). -/
def State.fwPeers (s : State) (routes : List (Nat × Nat)) : Option State :=
  s.firmware 8 (if routes.all (fun r => r.1 < 64 && r.2 < 16) then some { s with peers := routes } else none)
/-- FW_PEERS (R399). -/
def execFwPeers (routes : List (Nat × Nat)) (s : State) : Host.Outcome State Fault Refusal := whenEnabled "FW_PEERS" (s.fwPeers routes)

/-- The size of BAR 2 (R396). -/
def apertureSize : Nat := 2 ^ 34
/-- FW_APER: BAR 2 stands at a 16 GiB-aligned DRAM address (R396). -/
def State.fwAper (s : State) (addr : Nat) : Option State :=
  s.firmware 9 (if addr % apertureSize == 0 && (dramDie addr).isSome then some { s with aperture := addr } else none)
/-- FW_APER (R396). -/
def execFwAper (addr : Nat) (s : State) : Host.Outcome State Fault Refusal := whenEnabled "FW_APER" (s.fwAper addr)

/-- FW_BOUND: the bound, the n64 at offset 8 of the command, applies to every later PTM reading (R377, R398). -/
def State.fwBound (s : State) : Option State :=
  match s.fwHead 10 with
  | some a => some ({ s with ptmBound := some (s.num (hostBase + a + 8) 8) }.fwDone a 0)
  | none => none
/-- FW_BOUND (R398). -/
def execFwBound (s : State) : Host.Outcome State Fault Refusal := whenEnabled "FW_BOUND" s.fwBound

/-! ### Accesses from outside (R384, R386, R395, R396) -/

/-- A .sys access of one byte at a DRAM address by an agent outside the module: a read returns the byte, or nothing where
it is lost (R384, R396). -/
def State.outsideAccess (s : State) (pa : Nat) : Option Byte → State
  | some b => s.putBytes pathAll homeCore none pa [b]
  | none => { s with hostRead := if s.lostIn pa 1 then none else some ((s.byte pa).setWidth 64) }
/-- APERTURE_ACCESS (R396). -/
def execApertureAccess (addr : Nat) (write : Option Byte) (s : State) : Host.Outcome State Fault Refusal :=
  whenEnabled "APERTURE_ACCESS"
    (if s.mstat.ready && addr < apertureSize then some (s.outsideAccess (s.aperture + addr) write) else none)
/-- PEER_ACCESS: a peer's access to DRAM of this module (R395). -/
def execPeerAccess (addr : Nat) (write : Option Byte) (s : State) : Host.Outcome State Fault Refusal :=
  whenEnabled "PEER_ACCESS" (if s.mstat.ready && (dramDie addr).isSome then some (s.outsideAccess addr write) else none)

/-- The MSTAT word: QLOCK tells the dies whose Quartz is LOCKED or FREE (R379, R396). -/
def State.mstatWord (s : State) : Word :=
  let m := s.mstat
  let b (c : Bool) (k : Nat) : Nat := if c then 2 ^ k else 0
  let lock (d : Nat) : Bool := (s.die d).quartz.state == .locked || (s.die d).quartz.state == .free
  BitVec.ofNat 64 (b m.ready 0 + b m.link0 1 + b m.link1 2 + b m.fatal 3 + m.therm.toNat * 2 ^ 4 + b m.bootfail 6 +
    ((List.range 4).map (fun d => b (lock d) (8 + d))).sum)
/-- An offset of MSTAT (R396). -/
def mstatOffset (bar offset : Nat) : Bool := bar == 0 && offset < 8
/-- An offset of another window that the table lists: MBOX, the n32 of a doorbell, the aperture (R396, R397). -/
def listedOffset (bar offset : Nat) : Bool :=
  (bar == 0 && ((0x100 ≤ offset && offset < 0x108) || (0x1000 ≤ offset && offset < 0x2000 && offset % 8 < 4))) ||
    (bar == 2 && offset < apertureSize)
/-- A host access outside MBOX, the doorbells and the aperture: a read returns MSTAT, or zero at an offset that no window lists, and a
write is ignored (R396). What a read of MBOX or of a doorbell returns is not stated (DESIGN CHOICE, log entry 9). -/
def State.windowAccess (s : State) (bar offset : Nat) : Option Word → Option State
  | some _ => if listedOffset bar offset then none else some s
  | none =>
    if bar = 2 && offset < apertureSize then none
    else some { s with hostRead := some (
      if mstatOffset bar offset then s.mstatWord >>> (8 * offset)
      else if listedOffset bar offset then Config.windowWord offset else 0) }
/-- UNLISTED_WINDOW_WRITE, and the reads of the same windows (R396). -/
def execUnlistedWindowWrite (bar offset : Nat) (value : Option Word) (s : State) : Host.Outcome State Fault Refusal :=
  whenEnabled "UNLISTED_WINDOW_WRITE" (s.windowAccess bar offset value)

/-! ### Debug readback (R392) -/

/-- A launch belongs to a context and was taken with debug readback enabled (R392, R398). -/
def State.opened (s : State) (c l : Nat) : Bool := match s.launch? l with | some k => k.ctx == c && k.readback | none => false
/-- A group of such a launch. -/
def State.groupIn (s : State) (c g : Nat) : Option Group :=
  match s.group? g with
  | some x => if s.opened c x.launch then some x else none
  | none => none
/-- A tile context of such a launch. -/
def State.tileIn (s : State) (c t : Nat) : Option Tile :=
  match s.tile? t with
  | some x => if s.opened c x.launch then some x else none
  | none => none
/-- A block of such a launch. -/
def State.blockIn (s : State) (c b : Nat) : Option Block :=
  match s.block? b with
  | some k => if s.opened c k.launch then some k else none
  | none => none
/-- The image of such a block (R341). -/
def State.imageIn (s : State) (c b : Nat) : Option Saved :=
  match s.blockIn c b with
  | some k => (match k.st with | .taken i => some i | _ => none)
  | none => none
/-- A bank that such a block holds. -/
def State.bankIn (s : State) (c core b : Nat) : Option Bank :=
  let k := (s.core core).bank b
  (k.holder.bind (s.blockIn c)).map (fun _ => k)
/-- The core whose queue and lists such a block holds. -/
def State.matrixIn (s : State) (c core : Nat) : Option Core :=
  (((s.core core).holder).bind (s.blockIn c)).map (fun _ => s.core core)
/-- A number as a word. -/
def wordOf (n : Nat) : Word := BitVec.ofNat 64 n
/-- The state word of a FIFO bank (R258). -/
def Bank.stateWord (k : Bank) : Nat :=
  let filled := (k.slots.takeWhile (·.isSome)).length
  (k.head + k.slots.length) % 512 * 2 ^ 31 + k.head * 2 ^ 22 + filled * 2 ^ 11 + (512 - k.slots.length)
/-- A word of a list of bytes. -/
def byteWord (l : List Byte) (i : Nat) : Word := wordOf (ofLe ((l.drop (8 * i)).take 8))
/-- A word of a record that stands in a slot from HEAD on; of one not yet complete, zero. -/
def Bank.recordWord (k : Bank) (slot word : Nat) : Word := byteWord (((k.slots.getD slot none)).getD []) word
/-- A word of a map slot: region, global address, length (R167). -/
def MapSlot.word (m : MapSlot) (w : Nat) : Word := wordOf (match w with | 0 => m.off | 1 => m.va | _ => m.len)
/-- Two elements of an accumulator-queue row, by row and pair (R199). -/
def queueWord (q : List (List (BitVec 32))) (i : Nat) : Word :=
  let row := q.getD (i / 32) []
  wordOf ((row.getD (i % 32 * 2) 0).toNat + (row.getD (i % 32 * 2 + 1) 0).toNat * 2 ^ 32)
/-- A state of a thread as a number, with the unit at which it is parked, or the mask of CONV (R226, R98). -/
def threadWord (y : Thread) (w : Nat) : Word :=
  match y.st, w with
  | .conv _ m, 1 => m.setWidth 64
  | _, 1 => 0
  | .runnable, _ => 0
  | .conv u _, _ => wordOf (1 + 8 * u.toNat)
  | .barrier u, _ => wordOf (2 + 8 * u.toNat)
  | .safe u, _ => wordOf (3 + 8 * u.toNat)
  | .deferred, _ => 4
  | .retired, _ => 5
/-- The state of a group or context, its phase apart: Ready, waiting in a phase, Faulted with its record's SERIAL and any RESUME, ended
(R238, R341). Words: the state as a number; the set it waits in, or SERIAL; whether a RESUME is marked; its unit. -/
def statusWord (st : Status) (phase : Option Nat) (w : Nat) : Word :=
  match st, phase, w with
  | .ready, none, _ => 0
  | .ready, some _, 0 => 1
  | .ready, some n, 1 => wordOf n
  | .ready, some _, _ => 0
  | .faulted .., _, 0 => 2
  | .faulted r _, _, 1 => r.serial.setWidth 64
  | .faulted _ q, _, 2 => if q.isSome then 1 else 0
  | .faulted _ q, _, _ => wordOf (q.getD 0)
  | .ended, _, 0 => 3
  | .ended, _, _ => 0
/-- The set in whose phase a group waits (R102). -/
def Group.phaseOf (x : Group) : Option Nat := match x.wait with | some (.phase n) | some (.previous n _) => some n | _ => none
/-- The set in whose phase a context waits (R191). -/
def Tile.phaseOf (x : Tile) : Option Nat := match x.wait with | some (.phase n) => some n | _ => none
/-- A bank mode by its code in BANKCFG (R169). -/
def BankMode.code : BankMode → Nat
  | .cache => 0 | .scratch => 1 | .fifo => 2
/-- An accumulator queue's rows, and how many rows of its first tile have been popped (R287). -/
def queueStateWord (q : List (List (BitVec 32))) (w : Nat) : Word := wordOf (if w = 0 then q.length else (64 - q.length % 64) % 64)
/-- A word of a set-table entry: its ranges, then the mask of its contexts (R308). -/
def SetDef.word (d : SetDef) (i : Nat) : Word :=
  match d.ranges[i]? with
  | some r => wordOf (r.1 + r.2 * 2 ^ 16)
  | none => wordOf ((d.tiles.map (2 ^ ·)).sum)
/-- A word of a line's pending commit: stamp, address, whether it is confirmed, and its bytes (R344). -/
def Pending.word (p : Pending) (w : Nat) : Word :=
  match w with
  | 0 => wordOf p.stamp
  | 1 => wordOf p.addr
  | 2 => if p.confirmed then 1 else 0
  | k => byteWord p.data (k - 3)
/-- Bits of a list of flags as a word. -/
def flagsWord (l : List Bool) : Word := wordOf ((l.mapIdx (fun k b => if b then 2 ^ k else 0)).sum)
/-- Half of the written mask of a line, by line and half. -/
def maskHalf (m : BitVec 128) (i : Nat) : Word := wordOf (m.toNat / 2 ^ (64 * (i % 2)))
/-- A word of a saved bank's bytes. -/
def Saved.spWord (i : Saved) (core k : Nat) : Word :=
  wordOf (ofLe ((List.range 8).map (fun j =>
    ((i.sp.find? (fun (e : Nat × Nat × Byte) => e.1 == core && e.2.1 == 8 * k + j)).map (·.2.2)).getD 0)))
/-- A saved bank. -/
def Saved.bank? (i : Saved) (core b : Nat) : Option Bank :=
  (i.banks.find? (fun (e : Nat × Nat × Bank) => e.1 == core && e.2.1 == b)).map (·.2.2)
/-- The word of an object, none where the context has no such object (R392). Which words an object has is the model's numbering; for
an object of the manual that this list does not name the word is a free value (log entry 9). -/
def State.readObject (s : State) (c : Nat) : Readback → Option Word
  | .vreg g t i => (s.groupIn c g).map (fun x => x.rv t i)
  | .sreg g i => (s.groupIn c g).map (fun x => x.rs i)
  | .preg g t i => (s.groupIn c g).map (fun x => (x.rp t i).setWidth 64)
  | .tpc g t => (s.groupIn c g).map (fun x => (x.thread t).tpc.setWidth 64)
  | .threadState g t w => (s.groupIn c g).map (fun x => threadWord (x.thread t) w)
  | .flags g => (s.groupIn c g).map (fun x => x.flags.setWidth 64)
  | .rotation g w => (s.groupIn c g).map (fun x => match w with
    | 0 => wordOf x.rot.c | 1 => x.rot.x.setWidth 64 | 2 => wordOf x.rot.m | _ => x.rot.e.setWidth 64)
  | .cnt g => (s.groupIn c g).map (fun x => wordOf x.cnt)
  | .fibre g t n w => (s.groupIn c g).map (fun x =>
      let f := Sparse.get Fibre.closed x.fibres (8 * t + n)
      wordOf (match w with | 0 => f.cursor | 1 => f.fin | 2 => f.cols | 3 => f.vals | _ => f.wlog))
  | .treg t i => (s.tileIn c t).map (fun x => Sparse.get 0 x.t i)
  | .freg t i => (s.tileIn c t).map (fun x => x.f.getD i 0)
  | .tilePc t => (s.tileIn c t).map (fun x => x.tpc.setWidth 64)
  | .tileArrivals t n => (s.tileIn c t).map (fun x => if s.tileHolds x n then 1 else 0)
  | .fifo core b => (s.bankIn c core b).map (fun k => wordOf k.stateWord)
  | .record core b slot w => (s.bankIn c core b).map (fun k => k.recordWord slot w)
  | .scratch core i => (s.bankIn c core (8 * i / 16384)).map (fun _ =>
      wordOf (ofLe ((List.range 8).map (fun k => s.spByte core (8 * i + k)))))
  | .fullBits core i => (s.bankIn c core (64 * i * 128 / 16384)).map (fun _ =>
      flagsWord ((List.range 64).map (fun k => s.isFull core (64 * i + k))))
  | .mask core i => (s.bankIn c core (i / 2 * 128 / 16384)).map (fun _ => maskHalf (Sparse.get 0 (s.core core).mask (i / 2)) i)
  | .map core n w => match Sparse.get none (s.core core).maps n with
    | some m => if s.opened c m.launch then some (m.word w) else none
    | none => none
  | .queue core i => (s.matrixIn c core).map (fun x => queueWord x.queue i)
  | .list core n w => (s.matrixIn c core).map (fun x => byteWord (Sparse.get WList.empty x.lists n).image w)
  | .phase b n => (s.blockIn c b).map (fun _ => (s.setState b n).phase.setWidth 64)
  | .arrivals b n i => (s.blockIn c b).map (fun _ => wordOf ((s.setState b n).arrived.getD i (2 ^ 32 - 1)))
  | .setTable b n i => (s.blockIn c b).map (fun k => (s.setDef k.launch n).word i)
  | .garnetHolder core => match (s.core core).garnet with
    | some h => if s.groups.any (fun p => p.2.core == core && s.opened c p.2.launch) then some (wordOf h) else none
    | none => none
  | .savedFifo b core n => ((s.imageIn c b).bind (·.bank? core n)).map (fun k => wordOf k.stateWord)
  | .savedRecord b core n slot w => ((s.imageIn c b).bind (·.bank? core n)).map (fun k => k.recordWord slot w)
  | .savedScratch b core i => (s.imageIn c b).map (fun m => m.spWord core i)
  | .savedFull b core i => (s.imageIn c b).map (fun m => flagsWord ((List.range 64).map (fun k => m.full.contains (core, 64 * i + k))))
  | .savedMask b core i => (s.imageIn c b).map (fun m =>
      maskHalf (((m.masks.find? (fun (e : Nat × Nat × BitVec 128) => e.1 == core && e.2.1 == i / 2)).map (·.2.2)).getD 0) i)
  | .savedMap b core n w => ((s.imageIn c b).bind (fun m =>
      m.maps.find? (fun (e : Nat × Nat × MapSlot) => e.1 == core && e.2.1 == n))).map (fun e => e.2.2.word w)
  | .savedQueue b i => (s.imageIn c b).map (fun m => queueWord m.queue i)
  | .savedList b n w => (s.imageIn c b).map (fun m => byteWord (Sparse.get WList.empty m.lists n).image w)
  | .savedHolder b core => ((s.imageIn c b).bind (fun m => m.garnet.find? (fun e => e.1 == core))).map (fun e => wordOf e.2)
  | .groupState g w => (s.groupIn c g).map (fun x => statusWord x.status x.phaseOf w)
  | .fibreStatus g => (s.groupIn c g).map (fun x => if x.fbst then 1 else 0)
  | .tileState t w => (s.tileIn c t).map (fun x => statusWord x.status x.phaseOf w)
  | .bankMode core b => if ((s.core core).bank b).mode = .cache then some 0 else (s.bankIn c core b).map (fun k => wordOf k.mode.code)
  | .savedMode b core n => ((s.imageIn c b).bind (·.bank? core n)).map (fun k => wordOf k.mode.code)
  | .queueState core w => (s.matrixIn c core).map (fun x => queueStateWord x.queue w)
  | .savedQueueState b w => (s.imageIn c b).map (fun m => queueStateWord m.queue w)
  | .qcfg d => if d < 4 then some (s.qcfg d) else none
  | .qstat d => if d < 4 then some (s.qstat d) else none
  | .cstamp line => some (wordOf (Sparse.get Stamped.fresh s.stamps line).cstamp)
  | .astamp line => some (wordOf (Sparse.get Stamped.fresh s.stamps line).astamp)
  | .pendings line i w => ((Sparse.get Stamped.fresh s.stamps line).pending[i]?).map (fun p => p.word w)
  | .lostUnit d i => ((s.die d).lost[i]?).map (fun u => wordOf (u.1 + u.2 / 128))
  | .logWord i => (s.log[i / 4]?).map (fun r => byteWord r.bytes (i % 4))
  | .retiredCore i => (s.retired[i]?).map wordOf
  | .spareRow i => (s.spared[i]?).map wordOf
  | .other o w => some (Config.readbackWord o w)
/-- A write through the window, which is limited to what RESUME changes: the TPC of an unretired thread of a Faulted group, or of a
Faulted context, to a unit below 5 × 2^50. Any other write is ignored (R337, R392; DEDUCED, log entry 96). -/
def State.writeObject (s : State) (c : Nat) (o : Readback) (v : Word) : State :=
  if unitLimit ≤ v.toNat then s
  else match o with
    | .tpc g t => (match s.groupIn c g with
      | some x => (match x.status with
        | .faulted .. =>
          if t < x.nthr && (x.thread t).st != .retired then s.setGroup g (x.setThread t { x.thread t with tpc := v.setWidth 53 }) else s
        | _ => s)
      | none => s)
    | .tilePc t => (match s.tileIn c t with
      | some x => (match x.status with
        | .faulted .. => s.setTile t { x with tpc := v.setWidth 53 }
        | _ => s)
      | none => s)
    | _ => s
/-- The word is returned; a read of QSTAT clears CONFLICTS (R378, R392). -/
def State.readback (s : State) (c : Nat) (o : Readback) : Option State :=
  match s.readObject c o with
  | none => none
  | some w =>
    let s1 := { s with hostRead := some w }
    match o with
    | .qstat d => s1.readQstat d
    | _ => some s1
/-- An object that belongs to no launch: of a die, of stamped memory, of the module (R392). -/
def moduleObject : Readback → Bool
  | .qcfg _ | .qstat _ | .cstamp _ | .astamp _ | .pendings .. | .lostUnit .. | .logWord _ | .retiredCore _ | .spareRow _ | .other .. => true
  | _ => false
/-- A request at the debug readback window for a context: objects of a launch are open where the launch was taken with readback enabled,
those of the module while the context has it enabled (R392, R398). -/
def State.debugWindow (s : State) (c : Nat) (o : Readback) (v : Option Word) : Option State :=
  match s.ctx? c with
  | none => none
  | some x =>
    if moduleObject o && !x.readback then none
    else match v with
      | some w => some (s.writeObject c o w)
      | none => s.readback c o
/-- DEBUG_READBACK (R392). -/
def execDebugReadback (ctx : Nat) (object : WindowRequest) (s : State) : Host.Outcome State Fault Refusal :=
  whenEnabled "DEBUG_READBACK" (s.debugWindow ctx object.object object.write)

end Sys2Proof.Machine
end

