-- ==== Sys2Proof/Machine/Lane.lean ====
section
/-!
DEFINITION. The cross-lane instructions (R138 to R146): every source is read before any write, in ascending thread order.
-/
namespace Sys2Proof.Machine

/-- Byte offset that a single-element selector names. -/
def selByte (w : Nat) (sel : BitVec 4) : Nat := sel.toNat * (w / 8)

/-- The lane operand of thread `t`: a constant or byte 0 of V*b* (R139). -/
def Group.laneN (x : Group) (f : VFmt) (t : Nat) : Nat :=
  if f.xa.getLsbD 5 then x.elemV t f.b.toNat 0 8 else f.xa.toNat % 32

/-- The partner of thread `t`, none where it is not valid (R139). -/
def Group.partner (x : Group) (f : VFmt) (t : Nat) : Option Nat :=
  let n := x.laneN f t
  let l : Int := match f.subop.toNat with
    | 0 => n
    | 1 => (t : Int) - n
    | 2 => (t : Int) + n
    | _ => (t ^^^ n : Nat)
  if 0 ≤ l && l < x.nthr then some l.toNat else none

/-- XGET (R140). -/
def Group.xget (x : Group) (f : VFmt) (active : Mask) : Group :=
  let d := selByte f.w f.selD
  (x.enabledSet f.g active d).foldl (fun y t =>
    y.setElemV t f.d.toNat d f.w (x.elemV ((x.partner f t).getD t) f.a.toNat (selByte f.w f.selA) f.w)) x

/-- XGET (R140). -/
def execXget (f : VFmt) (s : State) : Host.Outcome State Fault Refusal :=
  withGroup s (fun i g x => s.complete i g (x.xget f i.active))

/-- The senders that name lane `r`, ascending (R141). -/
def Group.senders (x : Group) (f : VFmt) (active : Mask) (r : Nat) : List Nat :=
  (x.enabledSet f.g active (selByte f.w f.selD)).filter (fun t => x.partner f t == some r)

/-- XPUT: the highest sender's element, and the collision record (R141). -/
def Group.xput (x : Group) (f : VFmt) (active : Mask) : Group :=
  let d := selByte f.w f.selD
  (List.range x.nthr).foldl (fun y r =>
    if (x.thread r).st = .retired then y
    else match (x.senders f active r).getLast? with
      | none => y
      | some t =>
        (y.setElemV r f.d.toNat d f.w (x.elemV t f.a.toNat (selByte f.w f.selA) f.w)).setFlagsP r f.c.toNat d (f.w / 8)
          (2 ≤ (x.senders f active r).length)) x

/-- XPUT (R141). -/
def execXput (f : VFmt) (s : State) : Host.Outcome State Fault Refusal :=
  withGroup s (fun i g x => s.complete i g (x.xput f i.active))

/-- XBCAST (R142). -/
def Group.xbcast (x : Group) (f : VFmt) (active : Mask) : Group :=
  let d := selByte f.w f.selD
  let a := selByte f.w f.selA
  let toS := f.subop == 1
  let con := x.enabledSet f.g active (if toS then a else d)
  let lane := if f.xa.getLsbD 5 || x.nthr ≤ f.xa.toNat % 32 then leader active else f.xa.toNat % 32
  let v := x.elemV lane f.a.toNat a f.w
  if con.isEmpty then x
  else if toS then x.ws f.d.toNat (setElem (x.rs f.d.toNat) d f.w v)
  else con.foldl (fun y t => y.setElemV t f.d.toNat d f.w v) x

/-- XBCAST (R142). -/
def execXbcast (f : VFmt) (s : State) : Host.Outcome State Fault Refusal :=
  withGroup s (fun i g x => s.complete i g (x.xbcast f i.active))

/-! ### Scans and reductions (R143) -/

/-- The bound of a type that `.min` or `.max` starts from, when exclusive. -/
def scanIdentity (f : VFmt) : Nat :=
  if f.type.toNat < 8 then
    let r := intRange (signedTy f.type) f.w
    match f.subop.toNat with
    | 1 => pat f.w r.2
    | 2 => pat f.w r.1
    | 3 => 2 ^ f.w - 1
    | _ => 0
  else match f.subop.toNat with
    | 1 | 6 => (fmtOf f.type).infCode false
    | 2 | 7 => (fmtOf f.type).infCode true
    | _ => 0

/-- The running integer values r₀, r₁, …, exact (R143). -/
def intScan (op : Nat) : List Int → List Int
  | [] => []
  | x :: r => go x r
where
  /-- The running value `acc` and what follows it. -/
  go (acc : Int) : List Int → List Int
    | [] => [acc]
    | x :: r =>
      let y := match op with
        | 0 => acc + x
        | 1 => if x < acc then x else acc
        | 2 => if acc < x then x else acc
        | 3 => ((acc.toNat &&& x.toNat : Nat) : Int)
        | 4 => ((acc.toNat ||| x.toNat : Nat) : Int)
        | _ => ((acc.toNat ^^^ x.toNat : Nat) : Int)
      acc :: go y r

/-- One floating combination (R143, R127). -/
def fltCombine (f : VFmt) (acc x : Nat) : Nat × Fl :=
  let fmt := fmtOf f.type
  match f.subop.toNat with
  | 0 => fltFinish f (Num.add f.rm.toNat (fmt.decode acc) (fmt.decode x))
  | 1 => minMaxCode fmt false false acc x
  | 2 => minMaxCode fmt true false acc x
  | 6 => minMaxCode fmt false true acc x
  | _ => minMaxCode fmt true true acc x

/-- The running floating values with the flags they leave (R143). This model saturates, as R143 says, before each rounding only, so
that an infinity in the first contributor stays under `.sat` (DESIGN CHOICE, log entry 79). -/
def fltScan (f : VFmt) : List Nat → List Nat × Fl
  | [] => ([], 0)
  | x :: r =>
    let v := (fmtOf f.type).decode x
    go (if v.isNan then (fmtOf f.type).nanCode else x) (flIf v.isSig flNV) r
where
  /-- The running value `acc` and what follows it. -/
  go (acc : Nat) (fl : Fl) : List Nat → List Nat × Fl
    | [] => ([acc], fl)
    | x :: r =>
      let (y, g) := fltCombine f acc x
      let (l, h) := go y (fl ||| g) r
      (acc :: l, h)

/-- The running codes of the contributors' elements, and the flags (R143). -/
def scanCodes (f : VFmt) (l : List Nat) : List Nat × Fl :=
  if f.type.toNat < 8 then
    let sg := signedTy f.type && f.subop.toNat < 3
    ((intScan f.subop.toNat (l.map (ival sg f.w))).map (ifinish f.sat (signedTy f.type) f.w), 0)
  else fltScan f l

/-- The pairs of D's and A's byte offsets. -/
def scanOffsets (f : VFmt) : List (Nat × Nat) := (dstOffsets f.w f.selD).zip (dstOffsets f.w f.selA)

/-- XSCAN (R144). Under `.excl` this model raises the flags of the last combination too, whose value no contributor receives
(DESIGN CHOICE, log entry 80). -/
def Group.xscan (x : Group) (f : VFmt) (active : Mask) : Group :=
  (scanOffsets f).foldl (fun y p =>
    let con := x.enabledSet f.g active p.1
    let (codes, fl) := scanCodes f (con.map (fun t => x.elemV t f.a.toNat p.2 f.w))
    let given := if f.xa.getLsbD 0 then scanIdentity f :: codes else codes
    ((con.zip given).foldl (fun y q => y.setElemV q.1 f.d.toNat p.1 f.w q.2) y).raiseFlags fl) x

/-- XSCAN (R144). -/
def execXscan (f : VFmt) (s : State) : Host.Outcome State Fault Refusal :=
  withGroup s (fun i g x => s.complete i g (x.xscan f i.active))

/-- XRED (R145). -/
def Group.xred (x : Group) (f : VFmt) (active : Mask) : Group :=
  let toS := f.xa.getLsbD 0
  (scanOffsets f).foldl (fun y p =>
    let con := x.enabledSet f.g active (if toS then p.2 else p.1)
    let (codes, fl) := scanCodes f (con.map (fun t => x.elemV t f.a.toNat p.2 f.w))
    match codes.getLast? with
    | none => y
    | some v =>
      (if toS then y.ws f.d.toNat (setElem (y.rs f.d.toNat) p.1 f.w v)
       else con.foldl (fun y t => y.setElemV t f.d.toNat p.1 f.w v) y).raiseFlags fl) x

/-- XRED (R145). -/
def execXred (f : VFmt) (s : State) : Host.Outcome State Fault Refusal :=
  withGroup s (fun i g x => s.complete i g (x.xred f i.active))

/-- XFFS (R146). -/
def Group.xffs (x : Group) (f : VFmt) (active : Mask) : Group :=
  let con := x.enabledSet f.g active 0
  let ones := con.filter (fun t => (x.rp t f.a.toNat).getLsbD 0)
  let v := match f.subop.toNat with
    | 0 => ones.head?.getD x.nthr
    | 1 => ones.getLast?.getD x.nthr
    | _ => ones.length
  if con.isEmpty then x
  else if f.xa.getLsbD 0 then x.ws f.d.toNat (BitVec.ofNat 64 v)
  else con.foldl (fun y t => y.wv t f.d.toNat (BitVec.ofNat 64 v)) x

/-- XFFS (R146). -/
def execXffs (f : VFmt) (s : State) : Host.Outcome State Fault Refusal :=
  withGroup s (fun i g x => s.complete i g (x.xffs f i.active))

end Sys2Proof.Machine
end

