-- ==== Sys2Proof/Machine/Scalar.lean ====
section
/-!
DEFINITION. The scalar family: each instruction acts on S registers as its vector form acts on one thread's register in
the packed shape, under the leader's guard (R121 to R123).
-/
namespace Sys2Proof.Machine

namespace SFmt
/-- Width of TYPE. -/
def w (f : SFmt) : Nat := (typeWidth? f.type).getD 64
end SFmt

/-- The second scalar source at element `e`: SB, or IMM32 (R121). -/
def Group.sSrc (x : Group) (f : SFmt) (imm : Bool) (e : Nat) : Nat :=
  if imm then immElem f.type f.imm else elem (x.rs f.sb.toNat) e (SFmt.w f)

/-- A scalar instruction: its enabled elements of Sd, then u + 1. -/
def scalar (f : SFmt) (s : State) (k : Group → Nat → Nat) : Host.Outcome State Fault Refusal :=
  withGroup s (fun i g x => s.complete i g (x.scalarOp f.g i.active f.sd.toNat (SFmt.w f) (k x)))

/-- A two-source scalar instruction (R122). -/
def scal2 (o : IOp) (imm : Bool) (f : SFmt) (s : State) : Host.Outcome State Fault Refusal :=
  scalar f s (fun x e => o.elem f.type f.sat (SFmt.w f) (elem (x.rs f.sa.toNat) e (SFmt.w f)) (x.sSrc f imm e))

def execSadd (f : SFmt) (s : State) := scal2 .add f.immSel f s
/-- SADDI: the second source is IMM32 (R122). -/
def execSaddi (f : SFmt) (s : State) := scal2 .add true f s
def execSsub (f : SFmt) (s : State) := scal2 .sub f.immSel f s
def execSmul (f : SFmt) (s : State) := scal2 .mul f.immSel f s
def execSmulh (f : SFmt) (s : State) := scal2 .mulh f.immSel f s
def execSdiv (f : SFmt) (s : State) := scal2 .div f.immSel f s
def execSrem (f : SFmt) (s : State) := scal2 .rem f.immSel f s
def execSand (f : SFmt) (s : State) := scal2 .and_ f.immSel f s
def execSor (f : SFmt) (s : State) := scal2 .or_ f.immSel f s
def execSxor (f : SFmt) (s : State) := scal2 .xor_ f.immSel f s
def execSshl (f : SFmt) (s : State) := scal2 .shl f.immSel f s
def execSshr (f : SFmt) (s : State) := scal2 .shr f.immSel f s
def execSsra (f : SFmt) (s : State) := scal2 .sra f.immSel f s
def execSmin (f : SFmt) (s : State) := scal2 .min f.immSel f s
def execSmax (f : SFmt) (s : State) := scal2 .max f.immSel f s

/-- SMOV (R122). -/
def execSmov (f : SFmt) (s : State) := scalar f s (fun x e => elem (x.rs f.sa.toNat) e (SFmt.w f))
/-- SMOVI (R122). -/
def execSmovi (f : SFmt) (s : State) := scalar f s (fun _ _ => immElem f.type f.imm)
/-- SMOVH: one 32-bit element at byte offset 4 (R123). -/
def execSmovh (f : SFmt) (s : State) : Host.Outcome State Fault Refusal :=
  withGroup s (fun i g x =>
    s.complete i g (x.ws f.sd.toNat
      (newWord (x.rs f.sd.toNat) (x.enabled f.g (leader i.active)) 32 [4] (fun _ => f.imm.toNat))))
/-- SCMP: each enabled element all ones or zero (R123). -/
def execScmp (f : SFmt) (s : State) :=
  scalar f s (fun x e =>
    let sg := signedTy f.type
    if icond f.subop.toNat (ival sg (SFmt.w f) (elem (x.rs f.sa.toNat) e (SFmt.w f))) (ival sg (SFmt.w f) (x.sSrc f f.immSel e))
    then 2 ^ SFmt.w f - 1 else 0)
/-- SSEL selects per element by Sx (R123). -/
def execSsel (f : SFmt) (s : State) :=
  scalar f s (fun x e =>
    if elem (x.rs f.sx.toNat) e (SFmt.w f) != 0 then elem (x.rs f.sa.toNat) e (SFmt.w f)
    else elem (x.rs f.sb.toNat) e (SFmt.w f))
/-- A one-source scalar instruction (R122). -/
def scal1 (o : IUn) (f : SFmt) (s : State) : Host.Outcome State Fault Refusal :=
  scalar f s (fun x e => o.elem f.type f.sat (SFmt.w f) (elem (x.rs f.sa.toNat) e (SFmt.w f)))
def execSclz (f : SFmt) (s : State) := scal1 .clz f s
def execSpopc (f : SFmt) (s : State) := scal1 .popc f s
/-- SBFX: the control is IMM32 (R122). -/
def execSbfx (f : SFmt) (s : State) :=
  scalar f s (fun x e => bfxElem (signedTy f.type) (SFmt.w f) (elem (x.rs f.sa.toNat) e (SFmt.w f)) f.imm.toNat)
/-- SBFI: the control is IMM32, the base SB (R122). -/
def execSbfi (f : SFmt) (s : State) :=
  scalar f s (fun x e =>
    bfiElem (SFmt.w f) (elem (x.rs f.sa.toNat) e (SFmt.w f)) f.imm.toNat (elem (x.rs f.sb.toNat) e (SFmt.w f)))

end Sys2Proof.Machine
end

