-- ==== Sys2Proof/Machine/Dispatch.lean ====
section
/-!
DEFINITION. The meaning of every row of the opcode table: one arm per constructor.
-/
namespace Sys2Proof.Machine

/-- What an instruction, or a step of the machine, makes of a state. -/
def exec (i : Instr) (s : State) : Host.Outcome State Fault Refusal :=
  match i with
  | .nop f => Sys2Proof.Machine.execNop f s
  | .bra f => Sys2Proof.Machine.execBra f s
  | .bru f => Sys2Proof.Machine.execBru f s
  | .brx f => Sys2Proof.Machine.execBrx f s
  | .call f => Sys2Proof.Machine.execCall f s
  | .ret f => Sys2Proof.Machine.execRet f s
  | .conv f => Sys2Proof.Machine.execConv f s
  | .yield f => Sys2Proof.Machine.execYield f s
  | .exit f => Sys2Proof.Machine.execExit f s
  | .bar f => Sys2Proof.Machine.execBar f s
  | .bara f => Sys2Proof.Machine.execBara f s
  | .barw f => Sys2Proof.Machine.execBarw f s
  | .safe f => Sys2Proof.Machine.execSafe f s
  | .trap f => Sys2Proof.Machine.execTrap f s
  | .bkpt f => Sys2Proof.Machine.execBkpt f s
  | .getsr f => Sys2Proof.Machine.execGetsr f s
  | .setsr f => Sys2Proof.Machine.execSetsr f s
  | .launch f => Sys2Proof.Machine.execLaunch f s
  | .smov f => Sys2Proof.Machine.execSmov f s
  | .smovi f => Sys2Proof.Machine.execSmovi f s
  | .smovh f => Sys2Proof.Machine.execSmovh f s
  | .sadd f => Sys2Proof.Machine.execSadd f s
  | .saddi f => Sys2Proof.Machine.execSaddi f s
  | .ssub f => Sys2Proof.Machine.execSsub f s
  | .smul f => Sys2Proof.Machine.execSmul f s
  | .smulh f => Sys2Proof.Machine.execSmulh f s
  | .sdiv f => Sys2Proof.Machine.execSdiv f s
  | .srem f => Sys2Proof.Machine.execSrem f s
  | .sand f => Sys2Proof.Machine.execSand f s
  | .sor f => Sys2Proof.Machine.execSor f s
  | .sxor f => Sys2Proof.Machine.execSxor f s
  | .sshl f => Sys2Proof.Machine.execSshl f s
  | .sshr f => Sys2Proof.Machine.execSshr f s
  | .ssra f => Sys2Proof.Machine.execSsra f s
  | .smin f => Sys2Proof.Machine.execSmin f s
  | .smax f => Sys2Proof.Machine.execSmax f s
  | .scmp f => Sys2Proof.Machine.execScmp f s
  | .ssel f => Sys2Proof.Machine.execSsel f s
  | .sclz f => Sys2Proof.Machine.execSclz f s
  | .spopc f => Sys2Proof.Machine.execSpopc f s
  | .sbfx f => Sys2Proof.Machine.execSbfx f s
  | .sbfi f => Sys2Proof.Machine.execSbfi f s
  | .vmov f => Sys2Proof.Machine.execVmov f s
  | .vmovi f => Sys2Proof.Machine.execVmovi f s
  | .vmovs f => Sys2Proof.Machine.execVmovs f s
  | .vadd f => Sys2Proof.Machine.execVadd f s
  | .vsub f => Sys2Proof.Machine.execVsub f s
  | .vmul f => Sys2Proof.Machine.execVmul f s
  | .vmulh f => Sys2Proof.Machine.execVmulh f s
  | .vmad f => Sys2Proof.Machine.execVmad f s
  | .vdiv f => Sys2Proof.Machine.execVdiv f s
  | .vrem f => Sys2Proof.Machine.execVrem f s
  | .vand f => Sys2Proof.Machine.execVand f s
  | .vor f => Sys2Proof.Machine.execVor f s
  | .vxor f => Sys2Proof.Machine.execVxor f s
  | .vnot f => Sys2Proof.Machine.execVnot f s
  | .vshl f => Sys2Proof.Machine.execVshl f s
  | .vshr f => Sys2Proof.Machine.execVshr f s
  | .vsra f => Sys2Proof.Machine.execVsra f s
  | .vmin f => Sys2Proof.Machine.execVmin f s
  | .vmax f => Sys2Proof.Machine.execVmax f s
  | .vabs f => Sys2Proof.Machine.execVabs f s
  | .vcmp f => Sys2Proof.Machine.execVcmp f s
  | .vsel f => Sys2Proof.Machine.execVsel f s
  | .vclz f => Sys2Proof.Machine.execVclz f s
  | .vpopc f => Sys2Proof.Machine.execVpopc f s
  | .vbfx f => Sys2Proof.Machine.execVbfx f s
  | .vbfi f => Sys2Proof.Machine.execVbfi f s
  | .vdot4 f => Sys2Proof.Machine.execVdot4 f s
  | .pset f => Sys2Proof.Machine.execPset f s
  | .pand f => Sys2Proof.Machine.execPand f s
  | .por f => Sys2Proof.Machine.execPor f s
  | .pxor f => Sys2Proof.Machine.execPxor f s
  | .pnot f => Sys2Proof.Machine.execPnot f s
  | .vote f => Sys2Proof.Machine.execVote f s
  | .fadd f => Sys2Proof.Machine.execFadd f s
  | .fsub f => Sys2Proof.Machine.execFsub f s
  | .fmul f => Sys2Proof.Machine.execFmul f s
  | .ffma f => Sys2Proof.Machine.execFfma f s
  | .fmin f => Sys2Proof.Machine.execFmin f s
  | .fmax f => Sys2Proof.Machine.execFmax f s
  | .fminn f => Sys2Proof.Machine.execFminn f s
  | .fmaxn f => Sys2Proof.Machine.execFmaxn f s
  | .fabs f => Sys2Proof.Machine.execFabs f s
  | .fneg f => Sys2Proof.Machine.execFneg f s
  | .fcpys f => Sys2Proof.Machine.execFcpys f s
  | .fcmp f => Sys2Proof.Machine.execFcmp f s
  | .fclass f => Sys2Proof.Machine.execFclass f s
  | .frnd f => Sys2Proof.Machine.execFrnd f s
  | .fcvt f => Sys2Proof.Machine.execFcvt f s
  | .fcvti f => Sys2Proof.Machine.execFcvti f s
  | .icvtf f => Sys2Proof.Machine.execIcvtf f s
  | .fpack f => Sys2Proof.Machine.execFpack f s
  | .funpk f => Sys2Proof.Machine.execFunpk f s
  | .fsca f => Sys2Proof.Machine.execFsca f s
  | .fdiv f => Sys2Proof.Machine.execFdiv f s
  | .frcp f => Sys2Proof.Machine.execFrcp f s
  | .fsqrt f => Sys2Proof.Machine.execFsqrt f s
  | .frsq f => Sys2Proof.Machine.execFrsq f s
  | .fexp2 f => Sys2Proof.Machine.execFexp2 f s
  | .flog2 f => Sys2Proof.Machine.execFlog2 f s
  | .fsinp f => Sys2Proof.Machine.execFsinp f s
  | .fcosp f => Sys2Proof.Machine.execFcosp f s
  | .ftanh f => Sys2Proof.Machine.execFtanh f s
  | .expq f => Sys2Proof.Machine.execExpq f s
  | .xget f => Sys2Proof.Machine.execXget f s
  | .xput f => Sys2Proof.Machine.execXput f s
  | .xbcast f => Sys2Proof.Machine.execXbcast f s
  | .xscan f => Sys2Proof.Machine.execXscan f s
  | .xred f => Sys2Proof.Machine.execXred f s
  | .xffs f => Sys2Proof.Machine.execXffs f s
  | .ld f => Sys2Proof.Machine.execLd f s
  | .ldp f => Sys2Proof.Machine.execLdp f s
  | .st f => Sys2Proof.Machine.execSt f s
  | .ldc f => Sys2Proof.Machine.execLdc f s
  | .sld f => Sys2Proof.Machine.execSld f s
  | .sst f => Sys2Proof.Machine.execSst f s
  | .gath f => Sys2Proof.Machine.execGath f s
  | .gathp f => Sys2Proof.Machine.execGathp f s
  | .scat f => Sys2Proof.Machine.execScat f s
  | .atom f => Sys2Proof.Machine.execAtom f s
  | .amaxr f => Sys2Proof.Machine.execAmaxr f s
  | .fence f => Sys2Proof.Machine.execFence f s
  | .pfence f => Sys2Proof.Machine.execPfence f s
  | .wait f => Sys2Proof.Machine.execWait f s
  | .qpush f => Sys2Proof.Machine.execQpush f s
  | .qpop f => Sys2Proof.Machine.execQpop f s
  | .spmap f => Sys2Proof.Machine.execSpmap f s
  | .spwb f => Sys2Proof.Machine.execSpwb f s
  | .spempty f => Sys2Proof.Machine.execSpempty f s
  | .bankcfg f => Sys2Proof.Machine.execBankcfg f s
  | .pgreq f => Sys2Proof.Machine.execPgreq f s
  | .cpy f => Sys2Proof.Machine.execCpy f s
  | .cpysel f => Sys2Proof.Machine.execCpysel f s
  | .fbopen f => Sys2Proof.Machine.execFbopen f s
  | .fbnext f => Sys2Proof.Machine.execFbnext f s
  | .fbend f => Sys2Proof.Machine.execFbend f s
  | .fbclose f => Sys2Proof.Machine.execFbclose f s
  | .dqpush f => Sys2Proof.Machine.execDqpush f s
  | .dqpop f => Sys2Proof.Machine.execDqpop f s
  | .dqsteal f => Sys2Proof.Machine.execDqsteal f s
  | .bndup f => Sys2Proof.Machine.execBndup f s
  | .bndrd f => Sys2Proof.Machine.execBndrd f s
  | .rngt f => Sys2Proof.Machine.execRngt f s
  | .tnow f => Sys2Proof.Machine.execTnow f s
  | .stst f => Sys2Proof.Machine.execStst f s
  | .ldas f => Sys2Proof.Machine.execLdas f s
  | .vacq f => Sys2Proof.Machine.execVacq f s
  | .vrel f => Sys2Proof.Machine.execVrel f s
  | .tsmov f => Sys2Proof.Machine.execTsmov f s
  | .tsmovi f => Sys2Proof.Machine.execTsmovi f s
  | .tsadd f => Sys2Proof.Machine.execTsadd f s
  | .tloop f => Sys2Proof.Machine.execTloop f s
  | .tbra f => Sys2Proof.Machine.execTbra f s
  | .tarr f => Sys2Proof.Machine.execTarr f s
  | .twait f => Sys2Proof.Machine.execTwait f s
  | .tfmt f => Sys2Proof.Machine.execTfmt f s
  | .tnorm f => Sys2Proof.Machine.execTnorm f s
  | .mma f => Sys2Proof.Machine.execMma f s
  | .mmac f => Sys2Proof.Machine.execMmac f s
  | .mmk f => Sys2Proof.Machine.execMmk f s
  | .wlinit f => Sys2Proof.Machine.execWlinit f s
  | .wlflr f => Sys2Proof.Machine.execWlflr f s
  | .wlst f => Sys2Proof.Machine.execWlst f s
  | .wlmrg f => Sys2Proof.Machine.execWlmrg f s
  | .tend f => Sys2Proof.Machine.execTend f s
  | .aqpop f => Sys2Proof.Machine.execAqpop f s
  | .wlrd f => Sys2Proof.Machine.execWlrd f s
  | .nlbin f => Sys2Proof.Machine.execNlbin f s
  | .nlsweep f => Sys2Proof.Machine.execNlsweep f s
  | .nlstat f => Sys2Proof.Machine.execNlstat f s
  | .kvx f => Sys2Proof.Machine.execKvx f s
  | .kvins f => Sys2Proof.Machine.execKvins f s
  | .kvref f => Sys2Proof.Machine.execKvref f s
  | .pfxh f => Sys2Proof.Machine.execPfxh f s
  | .pfxl f => Sys2Proof.Machine.execPfxl f s
  | .pfxi f => Sys2Proof.Machine.execPfxi f s
  | .coll f => Sys2Proof.Machine.execColl f s
  | .collw f => Sys2Proof.Machine.execCollw f s
  | .groupFetch group => Sys2Proof.Machine.execGroupFetch group s
  | .contextFetch tile => Sys2Proof.Machine.execContextFetch tile s
  | .yieldDependenceEnd group => Sys2Proof.Machine.execYieldDependenceEnd group s
  | .groupExchange core part => Sys2Proof.Machine.execGroupExchange core part s
  | .forcedExchange core part => Sys2Proof.Machine.execForcedExchange core part s
  | .operationRetire group op => Sys2Proof.Machine.execOperationRetire group op s
  | .fifoThreadServed group => Sys2Proof.Machine.execFifoThreadServed group s
  | .mapFill core line => Sys2Proof.Machine.execMapFill core line s
  | .gatherBatchClose core => Sys2Proof.Machine.execGatherBatchClose core s
  | .gatherReply group op => Sys2Proof.Machine.execGatherReply group op s
  | .atomicAtHome group op => Sys2Proof.Machine.execAtomicAtHome group op s
  | .bankSwitch group op => Sys2Proof.Machine.execBankSwitch group op s
  | .copyComplete group op => Sys2Proof.Machine.execCopyComplete group op s
  | .cpyselRow group op => Sys2Proof.Machine.execCpyselRow group op s
  | .dequeStep group op => Sys2Proof.Machine.execDequeStep group op s
  | .boundUnitUpdate group op core => Sys2Proof.Machine.execBoundUnitUpdate group op core s
  | .randomRefill die slot => Sys2Proof.Machine.execRandomRefill die slot s
  | .replayTicket group op => Sys2Proof.Machine.execReplayTicket group op s
  | .ststPrepare group => Sys2Proof.Machine.execStstPrepare group s
  | .ststConfirm group => Sys2Proof.Machine.execStstConfirm group s
  | .stampedCommit line => Sys2Proof.Machine.execStampedCommit line s
  | .ldasAnswer group op => Sys2Proof.Machine.execLdasAnswer group op s
  | .matrixCommit tile => Sys2Proof.Machine.execMatrixCommit tile s
  | .mmacTagStep tile => Sys2Proof.Machine.execMmacTagStep tile s
  | .mmacLineApply tile line => Sys2Proof.Machine.execMmacLineApply tile line s
  | .nlbinComplete group op => Sys2Proof.Machine.execNlbinComplete group op s
  | .nlsweepCellVisit group op cell => Sys2Proof.Machine.execNlsweepCellVisit group op cell s
  | .nlsweepEnd group op => Sys2Proof.Machine.execNlsweepEnd group op s
  | .kvStep group op => Sys2Proof.Machine.execKvStep group op s
  | .prefixStep group op => Sys2Proof.Machine.execPrefixStep group op s
  | .collContribution group op => Sys2Proof.Machine.execCollContribution group op s
  | .collCompletion ctx va => Sys2Proof.Machine.execCollCompletion ctx va s
  | .vrelHandoff group op => Sys2Proof.Machine.execVrelHandoff group op s
  | .requestRecordPost ctx => Sys2Proof.Machine.execRequestRecordPost ctx s
  | .moveRequestDecision move => Sys2Proof.Machine.execMoveRequestDecision move s
  | .pageMove move => Sys2Proof.Machine.execPageMove move s
  | .hostQueueTake ctx queue => Sys2Proof.Machine.execHostQueueTake ctx queue s
  | .blockPlace launch place => Sys2Proof.Machine.execBlockPlace launch place s
  | .launchEnd launch => Sys2Proof.Machine.execLaunchEnd launch s
  | .ageBoost launch => Sys2Proof.Machine.execAgeBoost launch s
  | .distributorPreemptRequest block => Sys2Proof.Machine.execDistributorPreemptRequest block s
  | .coreGate core => Sys2Proof.Machine.execCoreGate core s
  | .coreWake core => Sys2Proof.Machine.execCoreWake core s
  | .leaseGrant die => Sys2Proof.Machine.execLeaseGrant die s
  | .blockTake block => Sys2Proof.Machine.execBlockTake block s
  | .preemptTimeout block => Sys2Proof.Machine.execPreemptTimeout block s
  | .blockRestore block place => Sys2Proof.Machine.execBlockRestore block place s
  | .blockAbort block => Sys2Proof.Machine.execBlockAbort block s
  | .faultRecordPost ctx => Sys2Proof.Machine.execFaultRecordPost ctx s
  | .doorbellWrite ctx value => Sys2Proof.Machine.execDoorbellWrite ctx value s
  | .inval ctx => Sys2Proof.Machine.execInval ctx s
  | .give ctx => Sys2Proof.Machine.execGive ctx s
  | .take ctx => Sys2Proof.Machine.execTake ctx s
  | .resolve ctx => Sys2Proof.Machine.execResolve ctx s
  | .move ctx => Sys2Proof.Machine.execMove ctx s
  | .frames ctx => Sys2Proof.Machine.execFrames ctx s
  | .refuse ctx => Sys2Proof.Machine.execRefuse ctx s
  | .resume ctx => Sys2Proof.Machine.execResume ctx s
  | .abort ctx => Sys2Proof.Machine.execAbort ctx s
  | .preempt ctx => Sys2Proof.Machine.execPreempt ctx s
  | .withdraw ctx => Sys2Proof.Machine.execWithdraw ctx s
  | .savearea ctx => Sys2Proof.Machine.execSavearea ctx s
  | .replay ctx => Sys2Proof.Machine.execReplay ctx s
  | .fwCtx args => Sys2Proof.Machine.execFwCtx args s
  | .fwDestroy ctx => Sys2Proof.Machine.execFwDestroy ctx s
  | .fwLog buffer => Sys2Proof.Machine.execFwLog buffer s
  | .fwAttest nonce buffer => Sys2Proof.Machine.execFwAttest nonce buffer s
  | .fwQcfg value => Sys2Proof.Machine.execFwQcfg value s
  | .fwScrub hours => Sys2Proof.Machine.execFwScrub hours s
  | .fwDebug ctx readback breakpoints => Sys2Proof.Machine.execFwDebug ctx readback breakpoints s
  | .fwPeers routes => Sys2Proof.Machine.execFwPeers routes s
  | .fwAper addr => Sys2Proof.Machine.execFwAper addr s
  | .fwBound => Sys2Proof.Machine.execFwBound s
  | .apertureAccess addr write => Sys2Proof.Machine.execApertureAccess addr write s
  | .unlistedWindowWrite bar offset value => Sys2Proof.Machine.execUnlistedWindowWrite bar offset value s
  | .debugReadback ctx object => Sys2Proof.Machine.execDebugReadback ctx object s
  | .qstatRead die => Sys2Proof.Machine.execQstatRead die s
  | .quartzProbe die party => Sys2Proof.Machine.execQuartzProbe die party s
  | .quartzSample die party answer => Sys2Proof.Machine.execQuartzSample die party answer s
  | .ptmReading hostTime => Sys2Proof.Machine.execPtmReading hostTime s
  | .quartzFree die => Sys2Proof.Machine.execQuartzFree die s
  | .quartzWide die => Sys2Proof.Machine.execQuartzWide die s
  | .uncorrectableError where_ => Sys2Proof.Machine.execUncorrectableError where_ s
  | .linkRetry link => Sys2Proof.Machine.execLinkRetry link s
  | .linkDown link => Sys2Proof.Machine.execLinkDown link s
  | .fatalError where_ addr => Sys2Proof.Machine.execFatalError where_ addr s
  | .scrubPass die bad => Sys2Proof.Machine.execScrubPass die bad s
  | .l2Sweep die bad => Sys2Proof.Machine.execL2Sweep die bad s
  | .coreRetire core => Sys2Proof.Machine.execCoreRetire core s
  | .thermalStateChange entered => Sys2Proof.Machine.execThermalStateChange entered s
  | .moduleReset banks link0 link1 => Sys2Proof.Machine.execModuleReset banks link0 link1 s
  | .correctedError where_ addr => Sys2Proof.Machine.execCorrectedError where_ addr s
  | .peerAccess addr write => Sys2Proof.Machine.execPeerAccess addr write s
  | .peerProbe die => Sys2Proof.Machine.execPeerProbe die s
  | .mboxWrite addr => Sys2Proof.Machine.execMboxWrite addr s

end Sys2Proof.Machine
end

