-- ==== Sys2Proof/Machine/Sched.lean ====
section
/-!
DEFINITION. What the machine does next by itself: the steps that its engines, its distributor and its control processor can
take, in one fixed order, then the fetches of its groups and contexts (log entries 2 and 3). The order is a choice: a step that
is to come earlier or later stands in the agenda.
-/
namespace Sys2Proof.Machine

/-! ### Steps that may be due -/

/-- The steps of an outstanding operation. -/
def opSteps (g : Nat) (o : Op) : List Instr :=
  let n := o.id
  (if o.ripe then [.operationRetire g n] else []) ++ (match o.work with
    | .idle | .result _ | .spLoad .. | .pages _ | .commits _ => []
    | .bound out => if out then [] else [.boundUnitUpdate g n 0]
    | .gather .. => [.gatherReply g n, .atomicAtHome g n]
    | .atoms _ => [.atomicAtHome g n]
    | .threads _ => [.dequeStep g n, .kvStep g n, .prefixStep g n, .collContribution g n, .replayTicket g n]
    | .copy _ => [.copyComplete g n]
    | .rows _ => [.cpyselRow g n]
    | .range .. => [.vrelHandoff g n]
    | .bank .. => [.bankSwitch g n]
    | .bin _ => [.nlbinComplete g n]
    | .sweep _ _ left out .. =>
      (out.map (·.1) ++ left.take 1).map (.nlsweepCellVisit g n) ++ [.nlsweepEnd g n]
    | .asOf .. => [.ldasAnswer g n])
/-- The steps of the groups' operations and of what they serve thread by thread. -/
def State.groupSteps (s : State) : List Instr :=
  List.flatMap (fun (p : Nat × Group) =>
    p.2.ops.flatMap (opSteps p.1) ++
      (match p.2.cont with
        | some (.fifo ..) => [.fifoThreadServed p.1]
        | some (.stst ..) => [.ststPrepare p.1, .ststConfirm p.1]
        | none => []) ++
      (match p.2.wait with | some (.deferral _) => [.yieldDependenceEnd p.1] | _ => [])) s.groups
/-- The scratchpad lines that loads and contexts wait for. -/
def State.wantedLines (s : State) : List (Nat × Nat) :=
  List.flatMap (fun (p : Nat × Group) => p.2.ops.flatMap (fun o => match o.work with
    | .spLoad _ l => l.map (fun r => (r.core, r.line))
    | _ => [])) s.groups ++
  List.flatMap (fun (p : Nat × Tile) =>
    (match p.2.wait with | some (.image c l) => [(c, l)] | _ => []) ++
      p.2.flight.flatMap (fun e => e.needs.filter (fun l => !s.isFull l.1 l.2))) s.tiles
/-- The steps of cores: fills, batches, the bound unit, waking and gating. -/
def State.coreSteps (s : State) : List Instr :=
  (s.wantedLines.map (fun l => .mapFill l.1 l.2)) ++
  List.flatMap (fun (p : Nat × Core) =>
    (if p.2.batch.isSome then [.gatherBatchClose p.1] else []) ++
      p.2.bndQ.map (fun e => .boundUnitUpdate e.2.2.group e.2.2.op p.1) ++
      (if p.2.powered then [.coreGate p.1] else [.coreWake p.1])) s.cores
/-- The steps of tile contexts. -/
def State.tileSteps (s : State) : List Instr :=
  List.flatMap (fun (p : Nat × Tile) =>
    if p.2.flight.isEmpty then []
    else [.matrixCommit p.1, .mmacTagStep p.1] ++ p.2.flight.flatMap (fun e => e.lines.map (fun l => .mmacLineApply p.1 l))) s.tiles
/-- The steps of dies: random rings that a ticket waits for, leases, stamped commits. -/
def State.dieSteps (s : State) : List Instr :=
  List.flatMap (fun (p : Nat × Die) =>
    List.flatMap (fun (q : Nat × RngSlot) => if q.2.tickets.isEmpty then [] else [.randomRefill p.1 q.1]) p.2.slots ++
      (if p.2.asking.isEmpty then [] else [.leaseGrant p.1])) s.dies ++
  List.flatMap (fun (p : Nat × Stamped) => if p.2.pending.isEmpty then [] else [.stampedCommit p.1]) s.stamps
/-- The control ring's commands, each of which its own step takes. -/
def ringSteps (c : Nat) : List Instr :=
  [.inval c, .give c, .take c, .resolve c, .move c, .frames c, .refuse c, .resume c, .abort c, .preempt c, .withdraw c,
    .savearea c, .replay c]
/-- The steps of contexts: records, commands, queues. -/
def State.ctxSteps (s : State) : List Instr :=
  List.flatMap (fun (p : Nat × Ctx) =>
    (if p.2.faults.isEmpty then [] else [.faultRecordPost p.1]) ++ (if p.2.reqs.isEmpty then [] else [.requestRecordPost p.1]) ++
      (if p.2.rung.contains 16 then ringSteps p.1 else []) ++
      (p.2.rung.filter (· < 16)).map (fun q => .hostQueueTake p.1 q)) s.ctxs ++
  List.flatMap (fun (p : Nat × Move) => [.moveRequestDecision p.1, .pageMove p.1]) s.moves ++
  s.shards.map (fun h => .collCompletion h.ctx h.va) ++
  (match s.mbox.destroying with | some c => [.fwDestroy c] | none => [])

/-! ### Launches and blocks -/

/-- The steps of launches and blocks. -/
def State.launchSteps (s : State) : List Instr :=
  List.flatMap (fun (p : Nat × Launch) =>
    if p.2.outcome.isSome then []
    else .launchEnd p.1 :: (if !s.queued p.1 p.2 then []
      else (if (s.takenBlocks p.1).isEmpty then
          (match s.findAll p.1 p.2 p.2.batch (s.openRooms p.1 p.2) with
            | some l => [.blockPlace p.1 (Placement.mk l ((l.headD (0, 0)).1))]
            | none => [])
        else (match s.findBack p.1 p.2 (s.restoreSet p.1 p.2) (s.openRooms p.1 p.2) with
          | some (l, c) => [.blockRestore ((s.restoreSet p.1 p.2).headD 0) (Placement.mk l c)]
          | none => [])) ++ [.ageBoost p.1])) s.launches ++
  List.flatMap (fun (p : Nat × Block) => match p.2.st with
    | .running => (if p.2.pre.isSome then [.preemptTimeout p.1, .blockTake p.1] else []) ++ [.distributorPreemptRequest p.1]
    | .aborting => [.blockAbort p.1]
    | _ => []) s.blocks

/-! ### Quartz (R377) -/

/-- A probe of a die to a party inside the module is due, once in each PERIOD, where the party has an interval to give. -/
def State.probeDue (s : State) (d : Nat) (p : Party) : Bool :=
  let q := (s.die d).quartz
  let last := match q.probes.find? (fun r => r.party == p) with | some r => r.sent | none => 0
  decide (last + usClocks q.period.toNat ≤ s.clk) && (s.readParty p).isSome
/-- The Quartz steps of the four dies. -/
def State.quartzSteps (s : State) : List Instr :=
  (List.range 4).flatMap (fun d =>
    let q := (s.die d).quartz
    ((.control :: (neighbours d).map .die).filter (s.probeDue d)).map (.quartzProbe d) ++
      (q.probes.filter (fun r => r.open_ && r.answer.isSome)).map (fun r => .quartzSample d r.party .own) ++
      [.quartzFree d, .quartzWide d])

/-- The exchanges of partitions that hold pending groups. -/
def State.exchangeSteps (s : State) : List Instr :=
  List.flatMap (fun (p : Nat × Group) =>
    if p.2.resident && !p.2.active && p.2.status != .ended then
      [.groupExchange p.2.core p.2.part, .forcedExchange p.2.core p.2.part] else []) s.groups

/-- Every step of the machine's own that may be due, in the order in which this model tries them. -/
def State.ownSteps (s : State) : List Instr :=
  s.exchangeSteps ++ s.groupSteps ++ s.coreSteps ++ s.tileSteps ++ s.dieSteps ++ s.ctxSteps ++ s.launchSteps ++ s.quartzSteps

/-! ### The choice -/

/-- The first of a list of steps that has a next state. -/
def State.firstOf (s : State) : List Instr → Option State
  | [] => none
  | e :: r => match exec e s with
    | .next t => some t
    | _ => s.firstOf r
/-- Groups that issued least recently first (R241). -/
def issueOrder : List (Nat × Group) → List (Nat × Group)
  | [] => []
  | p :: r =>
    let rest := issueOrder r
    rest.filter (fun q => q.2.lastIssue < p.2.lastIssue) ++ p :: rest.filter (fun q => p.2.lastIssue ≤ q.2.lastIssue)
/-- The first group, in the order of R241, that can fetch. -/
def State.someGroup (s : State) : Option State :=
  (issueOrder (List.filter (fun (p : Nat × Group) => p.2.active) s.groups)).findSome? (fun p => s.fetchGroup p.1)
/-- A context that can fetch; the one tried first goes round with the steps. -/
def State.someTile (s : State) : Option State :=
  let l := s.tiles.map (·.1)
  let k := s.stepNo / 2 % (l.length + 1)
  (l.drop k ++ l.take k).findSome? s.fetchTile
/-- The fetch made next: groups and contexts have the first try in turn. -/
def State.someFetch (s : State) : Option State :=
  if s.stepNo % 2 = 0 then (match s.someGroup with | some t => some t | none => s.someTile)
  else (match s.someTile with | some t => some t | none => s.someGroup)
/-- An instruction that is latched executes, unless it would read a register that cannot be corrected (R384). -/
def State.runIssue (s : State) : Host.Outcome State Fault Refusal :=
  match s.issue with
  | some i => match s.regFault i with
    | some t => .next t
    | none => exec i.instr s
  | none => .next s
/-- Clocks within which a Ready group issues outside Garnet mode (R241). -/
def promiseClocks : Nat := 2048
/-- Clocks before the end of that time at which the model begins to see to it: a partition fetches two in a clock. -/
def promiseMargin : Nat := 16
/-- Groups whose fetch is urgent: outside Garnet mode those that have been Ready for as long as the promise of R241 lets them wait, and
those that have not issued since they became active, where a pending group is about to take a place of the partition (R240). -/
def State.urgent (s : State) : List (Nat × Group) :=
  List.filter (fun (p : Nat × Group) =>
    let late := match p.2.readyAt with | some t => decide (t + promiseClocks ≤ s.clk + promiseMargin) | none => false
    let new := match p.2.issuedAt with | some t => decide (t < p.2.placedAt) | none => true
    !s.isGarnet p.2 && p.2.active && (late || (new && (s.forceExchange p.2.core p.2.part).isSome)) && (s.fetchAlone p.1).isSome) s.groups
/-- The fetch that the promise of R241 asks for at this clock: that of the partition of a group whose fetch is urgent. -/
def State.promisedFetch (s : State) : Option State :=
  s.urgent.findSome? (fun p =>
    (List.filter (fun (q : Nat × Group) => q.2.core == p.2.core && q.2.part == p.2.part) s.groups).findSome? (fun q => s.fetchGroup q.1))
/-- The upkeep that is due: the scrub pass at the end of each scrub period, the hourly sweep of L2, the retirement of a core (R388,
R390). -/
def State.upkeep (s : State) : Option State :=
  ((List.range 4).findSome? (fun d => s.scrub d [])).or
    (((List.range 4).findSome? (fun d => s.sweepL2 d [])).or ((s.cores.map (·.1)).findSome? s.retireCore))
/-- What the machine does by itself: a fetch that the promise of R241 asks for, or a step that is due, or a fetch and the
instruction fetched, or nothing. -/
def State.byItself (s : State) : Host.Outcome State Fault Refusal :=
  match s.promisedFetch with
  | some t => t.runIssue
  | none => match s.upkeep with
    | some t => .next t
    | none => match s.firstOf s.ownSteps with
      | some t => .next t
      | none => match s.someFetch with
        | some t => t.runIssue
        | none => .next s

/-! ### Time -/

/-- The clocks that may still pass before something must happen: the fetch of an active group outside Garnet mode that has been Ready for
long, or the exchange that a pending group forces; where the partition can do no more at this clock, one clock passes. None where no
group bounds them (R240, R241). -/
def State.slack (s : State) : Option Nat :=
  let v := { s with issue := none }
  let w := { v with clk := s.clk + 1 }
  least (List.filterMap (fun (p : Nat × Group) => match p.2.readyAt, p.2.forceAt with
    | some t, some f =>
      if !s.blockRuns p.2.block then none
      else if p.2.active then
        let left := t + promiseClocks - (s.clk + promiseMargin)
        if s.isGarnet p.2 || (w.fetchAlone p.1).isNone then none
        else some (if (v.fetchAlone p.1).isSome then left else max 1 left)
      else if s.groupReady p.1 p.2 then
        some (if (s.forceExchange p.2.core p.2.part).isSome then f - s.clk else max 1 (f - s.clk))
      else none
    | _, _ => none) s.groups)
/-- The clocks that a step takes: one and a free number more (log entry 3), but never past the clock at which a Ready group
must issue; a step that takes none happens in the same clock as the one after it (R241). -/
def State.clocks (s : State) : Nat :=
  let n := 1 + Config.stepClocks s.stepNo
  match s.slack with | some k => min n k | none => n
/-- A group has been Ready since a clock, or is not (R240). -/
def State.noteReady (s : State) (p : Nat × Group) : Nat × Group :=
  (p.1, { p.2 with readyAt := if s.groupReady p.1 p.2 then some (p.2.readyAt.getD s.clk) else none })
/-- The end of a step: lost-unit tables that are overfull, holders that have passed their cores on, banks of ended blocks that are
drained, groups that have become Ready, the clock. -/
def State.settle (s : State) : State :=
  let s0 := (s.dies.map (·.1)).foldl State.settleLost s
  let s1 := (s0.cores.map (·.1)).foldl (fun s c => (s.settleHolder c).settleBanks c) s0
  let s2 := { s1 with groups := s1.groups.map s1.noteReady }
  { s2 with clk := s2.clk + s2.clocks, stepNo := s2.stepNo + 1 }
/-- A step settled, where it answers a next state. -/
def settled (o : Host.Outcome State Fault Refusal) : Host.Outcome State Fault Refusal :=
  match o with
  | .next t => .next t.settle
  | .fault f => .fault f
  | .refused r => .refused r

/-- One step: the latched instruction, or the head of the agenda when its time has come, or what the machine does by
itself. -/
def State.advance (s : State) : Host.Outcome State Fault Refusal :=
  match s.issue with
  | some _ => settled s.runIssue
  | none =>
    match s.agenda with
    | [] => settled s.byItself
    | a :: rest =>
      if a.after = 0 then settled (exec a.ev { s with agenda := rest })
      else settled ({ s with agenda := { a with after := a.after - s.clocks } :: rest }).byItself

end Sys2Proof.Machine
end

