-- ==== Sys2Proof/Machine/Load.lean ====
section
/-!
DEFINITION. A program put where the next step fetches it, as a load from outside the machine would leave it (log entry 19): a
context with one page, a launch of one block on core 0, and one fetch line.
-/
namespace Sys2Proof.Machine

/-- The physical address of the root table of the loaded context, and of the two tables below it. -/
def loadRoot : Nat := 0x10000
/-- A fetch line whose slot 0 holds a word and is a legal target; its parity is that of R33. -/
def lineFor (w : Nat) : List Byte :=
  let l : List Byte := leBytes 4 1 ++ leBytes 12 w ++ List.replicate 48 0
  let par := ((List.range 8).map (fun i => if lineParity l i then 2 ^ i else 0)).sum
  l.set 3 (BitVec.ofNat 8 par)
/-- The loaded context: its root table, no queue and no ring. -/
def loadCtx : Ctx where
  root := loadRoot
  ctl := 0
  fault := 0
  req := 0
  hostQ := []
  devQ := []
  rung := []
  nextLid := 2
  serial := 0
  faults := []
  reqs := []
  asked := []
  vacqs := []
  pend := []
  save := none
  readback := false
  bken := false
  replays := []
  held := []
/-- The loaded launch: one block of one group of one thread with every V register, or of one context. -/
def loadLaunch (tile : Bool) : Launch where
  ctx := 0
  lid := 1
  entry := 0
  tables := 0
  ntab := 0
  seed := 0
  sinit := []
  done := 0
  blocks := 1
  prio := 0
  coop := false
  garnet := false
  strict := false
  irq := false
  deps := []
  vregs := 2048
  nthr := 1
  ngroups := if tile then 0 else 1
  streams := if tile then [0] else []
  tsentry := [0]
  scrMask := 0
  fifoMask := 0
  matrix := true
  sets := []
  readback := false
  bken := false
  next := 1
  placed := 1
  finished := 0
  boost := 0
  waitFrom := 0
  doom := none
  outcome := none
  endDie := 0
/-- The loaded block on core 0. -/
def loadBlock (tile : Bool) (now : Nat) : Block :=
  Block.mk 0 0 (if tile then [] else [0]) (if tile then [0] else []) [0] [] none .running now
/-- Memory with the line at address 0 and a page of 1 GiB that maps address 0 on itself: resident, writable, executable
(R322, R323). -/
def State.loadMem (s : State) (line : List Byte) : State :=
  (((s.setBytes 0 line).setNum loadRoot 8 (loadRoot + 0x1000 + 1)).setNum (loadRoot + 0x1000) 8 (loadRoot + 0x2000 + 1)).setNum
    (loadRoot + 0x2000) 8 0x1F
/-- The machine as a load from outside leaves it: the program is the one word. -/
def State.loadWord (s : State) (tile : Bool) (w : Nat) : State :=
  let s1 := s.loadMem (lineFor w)
  { s1 with
    issue := none
    agenda := []
    groups := if tile then [] else [(0, startGroup 0 0 0 0 0 (loadLaunch false) true s.clk)]
    tiles := if tile then [(0, startTile 0 0 0 0 (loadLaunch true))] else []
    blocks := [(0, loadBlock tile s.clk)]
    launches := [(0, loadLaunch tile)]
    ctxs := [(0, loadCtx)]
    cores := [(0, { Core.idle with powered := true, holder := some 0 })]
    dies := []
    stamps := []
    moves := []
    shards := []
    peers := []
    nextId := 1
    mbox := { s.mbox with destroying := none } }

end Sys2Proof.Machine
end

