-- ==== Sys2Proof/Machine/Step.lean ====
section
/-!
DEFINITION. One step of the machine, and the state with an instruction placed where the next step fetches it.
-/
namespace Sys2Proof.Machine

/-- One step: the latched instruction executes, or the head of the agenda when its time has come, or what the machine does by
itself. -/
def step (s : State) : Host.Outcome State Fault Refusal := s.advance

/-- The state with an instruction where the next step fetches it: a tile-stream instruction in the stream of a context, any
other in that of a group (log entry 19). -/
def State.withFetchWord (s : State) (nbits w : Nat) : State :=
  s.loadWord (match decodeTableWord nbits w with | some i => i.isTile | none => false) (w % 2 ^ nbits)

end Sys2Proof.Machine
end

