-- ==== Sys2Proof/Laws/PerInstr.lean ====
section
/-!
SUPPORT. The family of statements made of every instruction by itself: its word carries its opcode in bits 95:87 and its
guard in bits 86:81 (R43); a step of the machine has no word.
-/
namespace Sys2Proof

open Machine (guardOf)

theorem getLsbD_append_high {n m : Nat} (x : BitVec n) (y : BitVec m) (i : Nat) (h : m ≤ i) :
    (x ++ y).getLsbD i = x.getLsbD (i - m) := by
  rw [BitVec.getLsbD_append, if_neg (by omega)]

/-- A word whose bits 95:81 are a header carries that header's opcode and guard. -/
theorem header_of_bits {o : Nat} {g : Guard} {w : IWord} (h : ∀ j, j < 15 → w.getLsbD (81 + j) = (g.head o).getLsbD j) :
    w.extractLsb' 87 9 = BitVec.ofNat 9 o ∧ Guard.ofWord w = g := by
  obtain ⟨n, p, u⟩ := g
  have hd : ∀ j, ((Guard.mk n p u).head o).getLsbD j =
      if j < 1 then (BitVec.ofBool u).getLsbD j else if j - 1 < 4 then p.getLsbD (j - 1)
      else if j - 1 - 4 < 1 then (BitVec.ofBool n).getLsbD (j - 1 - 4) else (BitVec.ofNat 9 o).getLsbD (j - 1 - 4 - 1) := by
    intro j
    simp only [Guard.head, BitVec.getLsbD_append]
  refine ⟨?_, ?_⟩
  · apply BitVec.eq_of_getLsbD_eq
    intro i hi
    have := h (6 + i) (by omega)
    rw [hd, if_neg (by omega), if_neg (by omega), if_neg (by omega), show 6 + i - 1 - 4 - 1 = i by omega] at this
    rw [BitVec.getLsbD_extractLsb', ← this, show 81 + (6 + i) = 87 + i by omega]
    simp [hi]
  · have hn := h 5 (by omega)
    have hu := h 0 (by omega)
    rw [hd] at hn hu
    simp only [Guard.ofWord, Guard.mk.injEq]
    refine ⟨?_, ?_, ?_⟩
    · rw [show 86 = 81 + 5 from rfl, hn]; simp
    · apply BitVec.eq_of_getLsbD_eq
      intro i hi
      have := h (1 + i) (by omega)
      rw [hd, if_neg (by omega), if_pos (by omega), show 1 + i - 1 = i by omega] at this
      rw [BitVec.getLsbD_extractLsb', ← this, show 81 + (1 + i) = 82 + i by omega]
      simp [hi]
    · rw [show 81 = 81 + 0 from rfl, hu]; simp

/-- The header of formats VR and VI. -/
theorem VFmt.encode_header (o : Nat) (f : VFmt) :
    (f.encode o).extractLsb' 87 9 = BitVec.ofNat 9 o ∧ Guard.ofWord (f.encode o) = f.g := by
  refine header_of_bits (fun j hj => ?_)
  unfold VFmt.encode
  iterate 12 rw [getLsbD_append_high _ _ _ (by omega)]
  congr 1; omega

/-- The header of format SC. -/
theorem SFmt.encode_header (o : Nat) (f : SFmt) :
    (f.encode o).extractLsb' 87 9 = BitVec.ofNat 9 o ∧ Guard.ofWord (f.encode o) = f.g := by
  refine header_of_bits (fun j hj => ?_)
  unfold SFmt.encode
  iterate 10 rw [getLsbD_append_high _ _ _ (by omega)]
  congr 1; omega

/-- The header of format MEM. -/
theorem MFmt.encode_header (o : Nat) (f : MFmt) :
    (f.encode o).extractLsb' 87 9 = BitVec.ofNat 9 o ∧ Guard.ofWord (f.encode o) = f.g := by
  refine header_of_bits (fun j hj => ?_)
  unfold MFmt.encode
  iterate 13 rw [getLsbD_append_high _ _ _ (by omega)]
  congr 1; omega

/-- The header of format BR. -/
theorem BFmt.encode_header (o : Nat) (f : BFmt) :
    (f.encode o).extractLsb' 87 9 = BitVec.ofNat 9 o ∧ Guard.ofWord (f.encode o) = f.g := by
  refine header_of_bits (fun j hj => ?_)
  unfold BFmt.encode
  iterate 6 rw [getLsbD_append_high _ _ _ (by omega)]
  congr 1; omega

/-- The header of format TS. -/
theorem TFmt.encode_header (o : Nat) (f : TFmt) :
    (f.encode o).extractLsb' 87 9 = BitVec.ofNat 9 o ∧ Guard.ofWord (f.encode o) = f.g := by
  refine header_of_bits (fun j hj => ?_)
  unfold TFmt.encode
  iterate 10 rw [getLsbD_append_high _ _ _ (by omega)]
  congr 1; omega

/-- The header of format EN. -/
theorem EFmt.encode_header (o : Nat) (f : EFmt) :
    (f.encode o).extractLsb' 87 9 = BitVec.ofNat 9 o ∧ Guard.ofWord (f.encode o) = f.g := by
  refine header_of_bits (fun j hj => ?_)
  unfold EFmt.encode
  iterate 11 rw [getLsbD_append_high _ _ _ (by omega)]
  congr 1; omega
namespace Laws.WordHeader

/-- The word of an instruction carries its opcode and its guard where R43 puts them; a step of the machine has none. -/
def Statement (i : Instr) : Prop :=
  match i.opcode? with
  | some o => (encode i).extractLsb' 87 9 = BitVec.ofNat 9 o ∧ Guard.ofWord (encode i) = guardOf i
  | none => encode i = 0

theorem nop (f : VFmt) : Statement (.nop f) := VFmt.encode_header _ f
theorem bra (f : BFmt) : Statement (.bra f) := BFmt.encode_header _ f
theorem bru (f : BFmt) : Statement (.bru f) := BFmt.encode_header _ f
theorem brx (f : BFmt) : Statement (.brx f) := BFmt.encode_header _ f
theorem call (f : BFmt) : Statement (.call f) := BFmt.encode_header _ f
theorem ret (f : BFmt) : Statement (.ret f) := BFmt.encode_header _ f
theorem conv (f : SFmt) : Statement (.conv f) := SFmt.encode_header _ f
theorem yield (f : VFmt) : Statement (.yield f) := VFmt.encode_header _ f
theorem exit (f : VFmt) : Statement (.exit f) := VFmt.encode_header _ f
theorem bar (f : SFmt) : Statement (.bar f) := SFmt.encode_header _ f
theorem bara (f : SFmt) : Statement (.bara f) := SFmt.encode_header _ f
theorem barw (f : SFmt) : Statement (.barw f) := SFmt.encode_header _ f
theorem safe (f : VFmt) : Statement (.safe f) := VFmt.encode_header _ f
theorem trap (f : SFmt) : Statement (.trap f) := SFmt.encode_header _ f
theorem bkpt (f : SFmt) : Statement (.bkpt f) := SFmt.encode_header _ f
theorem getsr (f : VFmt) : Statement (.getsr f) := VFmt.encode_header _ f
theorem setsr (f : VFmt) : Statement (.setsr f) := VFmt.encode_header _ f
theorem launch (f : EFmt) : Statement (.launch f) := EFmt.encode_header _ f
theorem smov (f : SFmt) : Statement (.smov f) := SFmt.encode_header _ f
theorem smovi (f : SFmt) : Statement (.smovi f) := SFmt.encode_header _ f
theorem smovh (f : SFmt) : Statement (.smovh f) := SFmt.encode_header _ f
theorem sadd (f : SFmt) : Statement (.sadd f) := SFmt.encode_header _ f
theorem saddi (f : SFmt) : Statement (.saddi f) := SFmt.encode_header _ f
theorem ssub (f : SFmt) : Statement (.ssub f) := SFmt.encode_header _ f
theorem smul (f : SFmt) : Statement (.smul f) := SFmt.encode_header _ f
theorem smulh (f : SFmt) : Statement (.smulh f) := SFmt.encode_header _ f
theorem sdiv (f : SFmt) : Statement (.sdiv f) := SFmt.encode_header _ f
theorem srem (f : SFmt) : Statement (.srem f) := SFmt.encode_header _ f
theorem sand (f : SFmt) : Statement (.sand f) := SFmt.encode_header _ f
theorem sor (f : SFmt) : Statement (.sor f) := SFmt.encode_header _ f
theorem sxor (f : SFmt) : Statement (.sxor f) := SFmt.encode_header _ f
theorem sshl (f : SFmt) : Statement (.sshl f) := SFmt.encode_header _ f
theorem sshr (f : SFmt) : Statement (.sshr f) := SFmt.encode_header _ f
theorem ssra (f : SFmt) : Statement (.ssra f) := SFmt.encode_header _ f
theorem smin (f : SFmt) : Statement (.smin f) := SFmt.encode_header _ f
theorem smax (f : SFmt) : Statement (.smax f) := SFmt.encode_header _ f
theorem scmp (f : SFmt) : Statement (.scmp f) := SFmt.encode_header _ f
theorem ssel (f : SFmt) : Statement (.ssel f) := SFmt.encode_header _ f
theorem sclz (f : SFmt) : Statement (.sclz f) := SFmt.encode_header _ f
theorem spopc (f : SFmt) : Statement (.spopc f) := SFmt.encode_header _ f
theorem sbfx (f : SFmt) : Statement (.sbfx f) := SFmt.encode_header _ f
theorem sbfi (f : SFmt) : Statement (.sbfi f) := SFmt.encode_header _ f
theorem vmov (f : VFmt) : Statement (.vmov f) := VFmt.encode_header _ f
theorem vmovi (f : VFmt) : Statement (.vmovi f) := VFmt.encode_header _ f
theorem vmovs (f : VFmt) : Statement (.vmovs f) := VFmt.encode_header _ f
theorem vadd (f : VFmt) : Statement (.vadd f) := VFmt.encode_header _ f
theorem vsub (f : VFmt) : Statement (.vsub f) := VFmt.encode_header _ f
theorem vmul (f : VFmt) : Statement (.vmul f) := VFmt.encode_header _ f
theorem vmulh (f : VFmt) : Statement (.vmulh f) := VFmt.encode_header _ f
theorem vmad (f : VFmt) : Statement (.vmad f) := VFmt.encode_header _ f
theorem vdiv (f : VFmt) : Statement (.vdiv f) := VFmt.encode_header _ f
theorem vrem (f : VFmt) : Statement (.vrem f) := VFmt.encode_header _ f
theorem vand (f : VFmt) : Statement (.vand f) := VFmt.encode_header _ f
theorem vor (f : VFmt) : Statement (.vor f) := VFmt.encode_header _ f
theorem vxor (f : VFmt) : Statement (.vxor f) := VFmt.encode_header _ f
theorem vnot (f : VFmt) : Statement (.vnot f) := VFmt.encode_header _ f
theorem vshl (f : VFmt) : Statement (.vshl f) := VFmt.encode_header _ f
theorem vshr (f : VFmt) : Statement (.vshr f) := VFmt.encode_header _ f
theorem vsra (f : VFmt) : Statement (.vsra f) := VFmt.encode_header _ f
theorem vmin (f : VFmt) : Statement (.vmin f) := VFmt.encode_header _ f
theorem vmax (f : VFmt) : Statement (.vmax f) := VFmt.encode_header _ f
theorem vabs (f : VFmt) : Statement (.vabs f) := VFmt.encode_header _ f
theorem vcmp (f : VFmt) : Statement (.vcmp f) := VFmt.encode_header _ f
theorem vsel (f : VFmt) : Statement (.vsel f) := VFmt.encode_header _ f
theorem vclz (f : VFmt) : Statement (.vclz f) := VFmt.encode_header _ f
theorem vpopc (f : VFmt) : Statement (.vpopc f) := VFmt.encode_header _ f
theorem vbfx (f : VFmt) : Statement (.vbfx f) := VFmt.encode_header _ f
theorem vbfi (f : VFmt) : Statement (.vbfi f) := VFmt.encode_header _ f
theorem vdot4 (f : VFmt) : Statement (.vdot4 f) := VFmt.encode_header _ f
theorem pset (f : VFmt) : Statement (.pset f) := VFmt.encode_header _ f
theorem pand (f : VFmt) : Statement (.pand f) := VFmt.encode_header _ f
theorem por (f : VFmt) : Statement (.por f) := VFmt.encode_header _ f
theorem pxor (f : VFmt) : Statement (.pxor f) := VFmt.encode_header _ f
theorem pnot (f : VFmt) : Statement (.pnot f) := VFmt.encode_header _ f
theorem vote (f : VFmt) : Statement (.vote f) := VFmt.encode_header _ f
theorem fadd (f : VFmt) : Statement (.fadd f) := VFmt.encode_header _ f
theorem fsub (f : VFmt) : Statement (.fsub f) := VFmt.encode_header _ f
theorem fmul (f : VFmt) : Statement (.fmul f) := VFmt.encode_header _ f
theorem ffma (f : VFmt) : Statement (.ffma f) := VFmt.encode_header _ f
theorem fmin (f : VFmt) : Statement (.fmin f) := VFmt.encode_header _ f
theorem fmax (f : VFmt) : Statement (.fmax f) := VFmt.encode_header _ f
theorem fminn (f : VFmt) : Statement (.fminn f) := VFmt.encode_header _ f
theorem fmaxn (f : VFmt) : Statement (.fmaxn f) := VFmt.encode_header _ f
theorem fabs (f : VFmt) : Statement (.fabs f) := VFmt.encode_header _ f
theorem fneg (f : VFmt) : Statement (.fneg f) := VFmt.encode_header _ f
theorem fcpys (f : VFmt) : Statement (.fcpys f) := VFmt.encode_header _ f
theorem fcmp (f : VFmt) : Statement (.fcmp f) := VFmt.encode_header _ f
theorem fclass (f : VFmt) : Statement (.fclass f) := VFmt.encode_header _ f
theorem frnd (f : VFmt) : Statement (.frnd f) := VFmt.encode_header _ f
theorem fcvt (f : VFmt) : Statement (.fcvt f) := VFmt.encode_header _ f
theorem fcvti (f : VFmt) : Statement (.fcvti f) := VFmt.encode_header _ f
theorem icvtf (f : VFmt) : Statement (.icvtf f) := VFmt.encode_header _ f
theorem fpack (f : VFmt) : Statement (.fpack f) := VFmt.encode_header _ f
theorem funpk (f : VFmt) : Statement (.funpk f) := VFmt.encode_header _ f
theorem fsca (f : VFmt) : Statement (.fsca f) := VFmt.encode_header _ f
theorem fdiv (f : VFmt) : Statement (.fdiv f) := VFmt.encode_header _ f
theorem frcp (f : VFmt) : Statement (.frcp f) := VFmt.encode_header _ f
theorem fsqrt (f : VFmt) : Statement (.fsqrt f) := VFmt.encode_header _ f
theorem frsq (f : VFmt) : Statement (.frsq f) := VFmt.encode_header _ f
theorem fexp2 (f : VFmt) : Statement (.fexp2 f) := VFmt.encode_header _ f
theorem flog2 (f : VFmt) : Statement (.flog2 f) := VFmt.encode_header _ f
theorem fsinp (f : VFmt) : Statement (.fsinp f) := VFmt.encode_header _ f
theorem fcosp (f : VFmt) : Statement (.fcosp f) := VFmt.encode_header _ f
theorem ftanh (f : VFmt) : Statement (.ftanh f) := VFmt.encode_header _ f
theorem expq (f : VFmt) : Statement (.expq f) := VFmt.encode_header _ f
theorem xget (f : VFmt) : Statement (.xget f) := VFmt.encode_header _ f
theorem xput (f : VFmt) : Statement (.xput f) := VFmt.encode_header _ f
theorem xbcast (f : VFmt) : Statement (.xbcast f) := VFmt.encode_header _ f
theorem xscan (f : VFmt) : Statement (.xscan f) := VFmt.encode_header _ f
theorem xred (f : VFmt) : Statement (.xred f) := VFmt.encode_header _ f
theorem xffs (f : VFmt) : Statement (.xffs f) := VFmt.encode_header _ f
theorem ld (f : MFmt) : Statement (.ld f) := MFmt.encode_header _ f
theorem ldp (f : MFmt) : Statement (.ldp f) := MFmt.encode_header _ f
theorem st (f : MFmt) : Statement (.st f) := MFmt.encode_header _ f
theorem ldc (f : MFmt) : Statement (.ldc f) := MFmt.encode_header _ f
theorem sld (f : MFmt) : Statement (.sld f) := MFmt.encode_header _ f
theorem sst (f : MFmt) : Statement (.sst f) := MFmt.encode_header _ f
theorem gath (f : MFmt) : Statement (.gath f) := MFmt.encode_header _ f
theorem gathp (f : MFmt) : Statement (.gathp f) := MFmt.encode_header _ f
theorem scat (f : MFmt) : Statement (.scat f) := MFmt.encode_header _ f
theorem atom (f : MFmt) : Statement (.atom f) := MFmt.encode_header _ f
theorem amaxr (f : MFmt) : Statement (.amaxr f) := MFmt.encode_header _ f
theorem fence (f : MFmt) : Statement (.fence f) := MFmt.encode_header _ f
theorem pfence (f : MFmt) : Statement (.pfence f) := MFmt.encode_header _ f
theorem wait (f : SFmt) : Statement (.wait f) := SFmt.encode_header _ f
theorem qpush (f : EFmt) : Statement (.qpush f) := EFmt.encode_header _ f
theorem qpop (f : EFmt) : Statement (.qpop f) := EFmt.encode_header _ f
theorem spmap (f : EFmt) : Statement (.spmap f) := EFmt.encode_header _ f
theorem spwb (f : EFmt) : Statement (.spwb f) := EFmt.encode_header _ f
theorem spempty (f : MFmt) : Statement (.spempty f) := MFmt.encode_header _ f
theorem bankcfg (f : EFmt) : Statement (.bankcfg f) := EFmt.encode_header _ f
theorem pgreq (f : MFmt) : Statement (.pgreq f) := MFmt.encode_header _ f
theorem cpy (f : EFmt) : Statement (.cpy f) := EFmt.encode_header _ f
theorem cpysel (f : EFmt) : Statement (.cpysel f) := EFmt.encode_header _ f
theorem fbopen (f : EFmt) : Statement (.fbopen f) := EFmt.encode_header _ f
theorem fbnext (f : EFmt) : Statement (.fbnext f) := EFmt.encode_header _ f
theorem fbend (f : EFmt) : Statement (.fbend f) := EFmt.encode_header _ f
theorem fbclose (f : EFmt) : Statement (.fbclose f) := EFmt.encode_header _ f
theorem dqpush (f : EFmt) : Statement (.dqpush f) := EFmt.encode_header _ f
theorem dqpop (f : EFmt) : Statement (.dqpop f) := EFmt.encode_header _ f
theorem dqsteal (f : EFmt) : Statement (.dqsteal f) := EFmt.encode_header _ f
theorem bndup (f : EFmt) : Statement (.bndup f) := EFmt.encode_header _ f
theorem bndrd (f : EFmt) : Statement (.bndrd f) := EFmt.encode_header _ f
theorem rngt (f : EFmt) : Statement (.rngt f) := EFmt.encode_header _ f
theorem tnow (f : EFmt) : Statement (.tnow f) := EFmt.encode_header _ f
theorem stst (f : MFmt) : Statement (.stst f) := MFmt.encode_header _ f
theorem ldas (f : MFmt) : Statement (.ldas f) := MFmt.encode_header _ f
theorem vacq (f : EFmt) : Statement (.vacq f) := EFmt.encode_header _ f
theorem vrel (f : EFmt) : Statement (.vrel f) := EFmt.encode_header _ f
theorem tsmov (f : TFmt) : Statement (.tsmov f) := TFmt.encode_header _ f
theorem tsmovi (f : TFmt) : Statement (.tsmovi f) := TFmt.encode_header _ f
theorem tsadd (f : TFmt) : Statement (.tsadd f) := TFmt.encode_header _ f
theorem tloop (f : TFmt) : Statement (.tloop f) := TFmt.encode_header _ f
theorem tbra (f : TFmt) : Statement (.tbra f) := TFmt.encode_header _ f
theorem tarr (f : TFmt) : Statement (.tarr f) := TFmt.encode_header _ f
theorem twait (f : TFmt) : Statement (.twait f) := TFmt.encode_header _ f
theorem tfmt (f : TFmt) : Statement (.tfmt f) := TFmt.encode_header _ f
theorem tnorm (f : TFmt) : Statement (.tnorm f) := TFmt.encode_header _ f
theorem mma (f : TFmt) : Statement (.mma f) := TFmt.encode_header _ f
theorem mmac (f : TFmt) : Statement (.mmac f) := TFmt.encode_header _ f
theorem mmk (f : TFmt) : Statement (.mmk f) := TFmt.encode_header _ f
theorem wlinit (f : TFmt) : Statement (.wlinit f) := TFmt.encode_header _ f
theorem wlflr (f : TFmt) : Statement (.wlflr f) := TFmt.encode_header _ f
theorem wlst (f : TFmt) : Statement (.wlst f) := TFmt.encode_header _ f
theorem wlmrg (f : TFmt) : Statement (.wlmrg f) := TFmt.encode_header _ f
theorem tend (f : TFmt) : Statement (.tend f) := TFmt.encode_header _ f
theorem aqpop (f : VFmt) : Statement (.aqpop f) := VFmt.encode_header _ f
theorem wlrd (f : VFmt) : Statement (.wlrd f) := VFmt.encode_header _ f
theorem nlbin (f : EFmt) : Statement (.nlbin f) := EFmt.encode_header _ f
theorem nlsweep (f : EFmt) : Statement (.nlsweep f) := EFmt.encode_header _ f
theorem nlstat (f : EFmt) : Statement (.nlstat f) := EFmt.encode_header _ f
theorem kvx (f : EFmt) : Statement (.kvx f) := EFmt.encode_header _ f
theorem kvins (f : EFmt) : Statement (.kvins f) := EFmt.encode_header _ f
theorem kvref (f : EFmt) : Statement (.kvref f) := EFmt.encode_header _ f
theorem pfxh (f : EFmt) : Statement (.pfxh f) := EFmt.encode_header _ f
theorem pfxl (f : EFmt) : Statement (.pfxl f) := EFmt.encode_header _ f
theorem pfxi (f : EFmt) : Statement (.pfxi f) := EFmt.encode_header _ f
theorem coll (f : EFmt) : Statement (.coll f) := EFmt.encode_header _ f
theorem collw (f : EFmt) : Statement (.collw f) := EFmt.encode_header _ f
theorem yieldDependenceEnd (group : Nat) : Statement (.yieldDependenceEnd group) := rfl
theorem groupExchange (core : Nat) (part : Nat) : Statement (.groupExchange core part) := rfl
theorem forcedExchange (core : Nat) (part : Nat) : Statement (.forcedExchange core part) := rfl
theorem operationRetire (group : Nat) (op : Nat) : Statement (.operationRetire group op) := rfl
theorem fifoThreadServed (group : Nat) : Statement (.fifoThreadServed group) := rfl
theorem mapFill (core : Nat) (line : Nat) : Statement (.mapFill core line) := rfl
theorem gatherBatchClose (core : Nat) : Statement (.gatherBatchClose core) := rfl
theorem gatherReply (group : Nat) (op : Nat) : Statement (.gatherReply group op) := rfl
theorem atomicAtHome (group : Nat) (op : Nat) : Statement (.atomicAtHome group op) := rfl
theorem bankSwitch (group : Nat) (op : Nat) : Statement (.bankSwitch group op) := rfl
theorem copyComplete (group : Nat) (op : Nat) : Statement (.copyComplete group op) := rfl
theorem cpyselRow (group : Nat) (op : Nat) : Statement (.cpyselRow group op) := rfl
theorem dequeStep (group : Nat) (op : Nat) : Statement (.dequeStep group op) := rfl
theorem boundUnitUpdate (group : Nat) (op : Nat) (core : Nat) : Statement (.boundUnitUpdate group op core) := rfl
theorem randomRefill (die : Nat) (slot : Nat) : Statement (.randomRefill die slot) := rfl
theorem replayTicket (group : Nat) (op : Nat) : Statement (.replayTicket group op) := rfl
theorem ststPrepare (group : Nat) : Statement (.ststPrepare group) := rfl
theorem ststConfirm (group : Nat) : Statement (.ststConfirm group) := rfl
theorem stampedCommit (line : Nat) : Statement (.stampedCommit line) := rfl
theorem ldasAnswer (group : Nat) (op : Nat) : Statement (.ldasAnswer group op) := rfl
theorem matrixCommit (tile : Nat) : Statement (.matrixCommit tile) := rfl
theorem mmacTagStep (tile : Nat) : Statement (.mmacTagStep tile) := rfl
theorem mmacLineApply (tile : Nat) (line : Nat) : Statement (.mmacLineApply tile line) := rfl
theorem nlbinComplete (group : Nat) (op : Nat) : Statement (.nlbinComplete group op) := rfl
theorem nlsweepCellVisit (group : Nat) (op : Nat) (cell : Nat) : Statement (.nlsweepCellVisit group op cell) := rfl
theorem nlsweepEnd (group : Nat) (op : Nat) : Statement (.nlsweepEnd group op) := rfl
theorem kvStep (group : Nat) (op : Nat) : Statement (.kvStep group op) := rfl
theorem prefixStep (group : Nat) (op : Nat) : Statement (.prefixStep group op) := rfl
theorem collContribution (group : Nat) (op : Nat) : Statement (.collContribution group op) := rfl
theorem collCompletion (ctx : Nat) (va : Nat) : Statement (.collCompletion ctx va) := rfl
theorem vrelHandoff (group : Nat) (op : Nat) : Statement (.vrelHandoff group op) := rfl
theorem requestRecordPost (ctx : Nat) : Statement (.requestRecordPost ctx) := rfl
theorem moveRequestDecision (move : Nat) : Statement (.moveRequestDecision move) := rfl
theorem pageMove (move : Nat) : Statement (.pageMove move) := rfl
theorem hostQueueTake (ctx : Nat) (queue : Nat) : Statement (.hostQueueTake ctx queue) := rfl
theorem blockPlace (launch : Nat) (place : Placement) : Statement (.blockPlace launch place) := rfl
theorem launchEnd (launch : Nat) : Statement (.launchEnd launch) := rfl
theorem ageBoost (launch : Nat) : Statement (.ageBoost launch) := rfl
theorem distributorPreemptRequest (block : Nat) : Statement (.distributorPreemptRequest block) := rfl
theorem coreGate (core : Nat) : Statement (.coreGate core) := rfl
theorem coreWake (core : Nat) : Statement (.coreWake core) := rfl
theorem leaseGrant (die : Nat) : Statement (.leaseGrant die) := rfl
theorem blockTake (block : Nat) : Statement (.blockTake block) := rfl
theorem preemptTimeout (block : Nat) : Statement (.preemptTimeout block) := rfl
theorem blockRestore (block : Nat) (place : Placement) : Statement (.blockRestore block place) := rfl
theorem blockAbort (block : Nat) : Statement (.blockAbort block) := rfl
theorem faultRecordPost (ctx : Nat) : Statement (.faultRecordPost ctx) := rfl
theorem inval (ctx : Nat) : Statement (.inval ctx) := rfl
theorem give (ctx : Nat) : Statement (.give ctx) := rfl
theorem take (ctx : Nat) : Statement (.take ctx) := rfl
theorem resolve (ctx : Nat) : Statement (.resolve ctx) := rfl
theorem move (ctx : Nat) : Statement (.move ctx) := rfl
theorem frames (ctx : Nat) : Statement (.frames ctx) := rfl
theorem refuse (ctx : Nat) : Statement (.refuse ctx) := rfl
theorem resume (ctx : Nat) : Statement (.resume ctx) := rfl
theorem abort (ctx : Nat) : Statement (.abort ctx) := rfl
theorem preempt (ctx : Nat) : Statement (.preempt ctx) := rfl
theorem withdraw (ctx : Nat) : Statement (.withdraw ctx) := rfl
theorem savearea (ctx : Nat) : Statement (.savearea ctx) := rfl
theorem replay (ctx : Nat) : Statement (.replay ctx) := rfl
theorem fwDestroy (ctx : Nat) : Statement (.fwDestroy ctx) := rfl
theorem quartzProbe (die : Nat) (party : Party) : Statement (.quartzProbe die party) := rfl
theorem quartzSample (die : Nat) (party : Party) (answer : Answer) : Statement (.quartzSample die party answer) := rfl
theorem quartzFree (die : Nat) : Statement (.quartzFree die) := rfl
theorem quartzWide (die : Nat) : Statement (.quartzWide die) := rfl
theorem fwBound : Statement (.fwBound) := rfl
theorem groupFetch (group : Nat) : Statement (.groupFetch group) := rfl
theorem contextFetch (tile : Nat) : Statement (.contextFetch tile) := rfl
theorem doorbellWrite (ctx : Nat) (value : BitVec 32) : Statement (.doorbellWrite ctx value) := rfl
theorem fwCtx (args : FwCtxArgs) : Statement (.fwCtx args) := rfl
theorem fwLog (buffer : Nat) : Statement (.fwLog buffer) := rfl
theorem fwAttest (nonce : Nat) (buffer : Nat) : Statement (.fwAttest nonce buffer) := rfl
theorem fwQcfg (value : Word) : Statement (.fwQcfg value) := rfl
theorem fwScrub (hours : Nat) : Statement (.fwScrub hours) := rfl
theorem fwDebug (ctx : Nat) (readback : Bool) (breakpoints : Bool) : Statement (.fwDebug ctx readback breakpoints) := rfl
theorem fwPeers (routes : List (Nat × Nat)) : Statement (.fwPeers routes) := rfl
theorem fwAper (addr : Nat) : Statement (.fwAper addr) := rfl
theorem apertureAccess (addr : Nat) (write : Option Byte) : Statement (.apertureAccess addr write) := rfl
theorem unlistedWindowWrite (bar : Nat) (offset : Nat) (value : Option Word) : Statement (.unlistedWindowWrite bar offset value) := rfl
theorem debugReadback (ctx : Nat) (object : WindowRequest) : Statement (.debugReadback ctx object) := rfl
theorem qstatRead (die : Nat) : Statement (.qstatRead die) := rfl
theorem ptmReading (hostTime : Nat) : Statement (.ptmReading hostTime) := rfl
theorem uncorrectableError (where_ : ErrorSite) : Statement (.uncorrectableError where_) := rfl
theorem linkRetry (link : Retry) : Statement (.linkRetry link) := rfl
theorem linkDown (link : Link) : Statement (.linkDown link) := rfl
theorem fatalError (where_ : BitVec 32) (addr : Nat) : Statement (.fatalError where_ addr) := rfl
theorem scrubPass (die : Nat) (bad : List Nat) : Statement (.scrubPass die bad) := rfl
theorem l2Sweep (die : Nat) (bad : List Nat) : Statement (.l2Sweep die bad) := rfl
theorem coreRetire (core : Nat) : Statement (.coreRetire core) := rfl
theorem thermalStateChange (entered : BitVec 2) : Statement (.thermalStateChange entered) := rfl
theorem moduleReset (banks : List (List FlashImage)) (link0 link1 : Bool) : Statement (.moduleReset banks link0 link1) := rfl
theorem correctedError (where_ : BitVec 32) (addr : Nat) : Statement (.correctedError where_ addr) := rfl
theorem peerAccess (addr : Nat) (write : Option Byte) : Statement (.peerAccess addr write) := rfl
theorem peerProbe (die : Nat) : Statement (.peerProbe die) := rfl
theorem mboxWrite (addr : Nat) : Statement (.mboxWrite addr) := rfl

end Laws.WordHeader

end Sys2Proof
end

