-- ==== Sys2Proof/Safety.lean ====
section
/-!
DEFINITION. What counts as a safe run, and the terms in which claims are stated: an invariant that every step keeps, an
instruction that issues, what an instruction writes and what it leaves.
-/
namespace Sys2Proof.Safety

open Sys2Proof.Machine

/-- A step that answers a next state keeps `Inv`. -/
def Keeps (Inv : State → Prop) : Prop := ∀ s t, Inv s → step s = .next t → Inv t

/-! ### Who issues -/

/-- Instruction `i` is latched by the fetch `k` of group `g`, whose state is `x`. -/
structure Issued (s : State) (k : Issue) (g : Nat) (x : Group) (i : Instr) : Prop where
  latch : s.issue = some k
  agent : k.agent = .group g
  instr : k.instr = i
  group : s.group? g = some x

/-- Instruction `i` is latched by the fetch `k` of tile context `c`, whose state is `x`. -/
structure Tiled (s : State) (k : Issue) (c : Nat) (x : Tile) (i : Instr) : Prop where
  latch : s.issue = some k
  agent : k.agent = .tile c
  instr : k.instr = i
  tile  : s.tile? c = some x

/-- `i` completes: its threads go on at u + 1, and the registers and other fields of its group become those of `y`, of
which `P` holds. -/
def Completes (s : State) (k : Issue) (g : Nat) (i : Instr) (P : Group → Prop) : Prop :=
  ∃ y, exec i s = .next (s.complete k g y) ∧ P y

/-- `i` completes and has placed its threads itself: its group becomes `y`, of which `P` holds. -/
def Lands (s : State) (k : Issue) (g : Nat) (i : Instr) (P : Group → Prop) : Prop :=
  ∃ y, exec i s = .next (s.completeAt k g y) ∧ P y

/-- `i` completes in the tile stream: its context goes on at u + 1 and becomes `y`, of which `P` holds. -/
def TileCompletes (s : State) (k : Issue) (c : Nat) (i : Instr) (P : Tile → Prop) : Prop :=
  ∃ y, exec i s = .next (s.tileDone k c y) ∧ P y

/-- `i` takes a fault: its group is Faulted with a record of `info`, which tells the second slot of a pair, and its threads stay
where they are (R333, R336). -/
def Faults (s : State) (k : Issue) (g : Nat) (i : Instr) (info : FaultInfo) (m : Mask) : Prop :=
  exec i s = .next (s.faultGroup g (k.mark info) k.unit.toNat k.unit.toNat m)

/-- A transfer of control to `target` is legal for context `c`: in range, its line readable for a fetch, its TGT bit set
(R37). -/
def LegalTarget (s : State) (c : Nat) (target : Int) : Prop :=
  0 ≤ target ∧ target < 5 * 2 ^ 50 ∧
    s.spanFailures c (target.toNat / 5 * 64) 64 .fetch none none = [] ∧
    bitAt (s.vnum c (target.toNat / 5 * 64) 4) (target.toNat % 5) = true

/-- The threads of `taken` stand at `to_`, the rest of `active` at u + 1, the others where they were; no thread's state
differs. -/
def Placed (x y : Group) (u : Nat) (active taken : Mask) (to_ : Nat → Nat) : Prop :=
  y.nthr = x.nthr ∧ ∀ t < x.nthr, y.thread t = { x.thread t with
    tpc := if taken.getLsbD t then BitVec.ofNat 53 (to_ t) else if active.getLsbD t then BitVec.ofNat 53 (u + 1)
      else (x.thread t).tpc }

/-! ### What an instruction writes -/

/-- Byte `b` of a register lies in one of the elements of `w` bits at the byte offsets `offs`. -/
def InElement (w : Nat) (offs : List Nat) (b : Nat) : Prop := ∃ e ∈ offs, e ≤ b ∧ b < e + w / 8

/-- `y` is `x` with the elements of V register `d` at the byte offsets `offs` made `r t e`, in every enabled element of
every thread of `active`; FLAGS gain the flags of those elements (R26, R68, R88, R111). -/
structure Elements (x y : Group) (gd : Guard) (active : Mask) (d w : Nat) (offs : List Nat) (r : Nat → Nat → Nat × Fl) :
    Prop where
  written : ∀ t ∈ threadsOf active, ∀ e ∈ offs,
    y.elemV t d e w = if x.enabled gd t e then (r t e).1 % 2 ^ w else x.elemV t d e w
  bytes : ∀ t < 32, ∀ b < 8, ¬ InElement w offs b → y.elemV t d b 8 = x.elemV t d b 8
  other : ∀ t < 32, ∀ q, q ≠ d ∨ active.getLsbD t = false → y.rv t q = x.rv t q
  flags : ∀ b, y.flags.getLsbD b =
    (x.flags.getLsbD b || (threadsOf active).any (fun t => offs.any (fun e => x.enabled gd t e && (r t e).2.getLsbD b)))
  rest : y = { x with v := y.v, flags := y.flags }

/-- `y` is `x` with the byte flags of P register `d` under each enabled element made `r t e`, in every thread of `active`;
P15 discards the write (R21, R115). -/
structure Compares (x y : Group) (gd : Guard) (active : Mask) (d w : Nat) (offs : List Nat) (r : Nat → Nat → Bool × Fl) :
    Prop where
  written : ∀ t ∈ threadsOf active, d ≠ 15 → ∀ e ∈ offs, ∀ b, e ≤ b → b < e + w / 8 →
    (y.rp t d).getLsbD b = if x.enabled gd t e then (r t e).1 else (x.rp t d).getLsbD b
  bits : ∀ t < 32, ∀ b, ¬ InElement w offs b → (y.rp t d).getLsbD b = (x.rp t d).getLsbD b
  other : ∀ t < 32, ∀ q, q ≠ d ∨ active.getLsbD t = false ∨ d = 15 → y.rp t q = x.rp t q
  flags : ∀ b, y.flags.getLsbD b =
    (x.flags.getLsbD b || (threadsOf active).any (fun t => offs.any (fun e => x.enabled gd t e && (r t e).2.getLsbD b)))
  rest : y = { x with p := y.p, flags := y.flags }

/-- `y` is `x` with bit `j` of P register `d` made `r t j` in the threads of `l` that `on` enables there; P15 discards the
write (R21, R119). -/
structure Predicates (x y : Group) (l : List Nat) (on : Nat → Nat → Bool) (d : Nat) (r : Nat → Nat → Bool) : Prop where
  written : ∀ t ∈ l, d ≠ 15 → ∀ j < 8, (y.rp t d).getLsbD j = if on t j then r t j else (x.rp t d).getLsbD j
  other : ∀ t < 32, ∀ q, q ≠ d ∨ t ∉ l ∨ d = 15 → y.rp t q = x.rp t q
  rest : y = { x with p := y.p }

/-- `y` is `x` with V register `d` made `r t` in the threads of `l`. -/
structure WritesV (x y : Group) (l : List Nat) (d : Nat) (r : Nat → Word) : Prop where
  written : ∀ t ∈ l, y.rv t d = r t
  other : ∀ t < 32, ∀ q, q ≠ d ∨ t ∉ l → y.rv t q = x.rv t q
  rest : y = { x with v := y.v }

/-- `y` is `x` with S register `d` made `w`. -/
structure WritesS (x y : Group) (d : Nat) (w : Word) : Prop where
  written : y.rs d = w
  other : ∀ q, q ≠ d → y.rs q = x.rs q
  rest : y = { x with s := y.s }

/-- `y` is context `x` with T register `d` made `w`. -/
structure WritesT (x y : Tile) (d : Nat) (w : Word) : Prop where
  written : y.rt d = w
  other : ∀ q, q ≠ d → y.rt q = x.rt q
  rest : y = { x with t := y.t }

/-- `y` is `x` with the elements of S register `d` at the byte offsets `offs` made `r e` where the leader's guard enables
them (R88, R121). -/
structure Scalars (x y : Group) (gd : Guard) (active : Mask) (d w : Nat) (offs : List Nat) (r : Nat → Nat) : Prop where
  written : ∀ e ∈ offs, elem (y.rs d) e w = if x.enabled gd (leader active) e then r e % 2 ^ w else elem (x.rs d) e w
  bytes : ∀ b < 8, ¬ InElement w offs b → elem (y.rs d) b 8 = elem (x.rs d) b 8
  other : ∀ q, q ≠ d → y.rs q = x.rs q
  rest : y = { x with s := y.s }

/-- `y` is `x` with the element of width `w` at byte offset `e` of V register `d` made `r t` in the threads of `l`. -/
structure LaneElements (x y : Group) (l : List Nat) (d e w : Nat) (r : Nat → Nat) : Prop where
  written : ∀ t ∈ l, y.elemV t d e w = r t % 2 ^ w
  bytes : ∀ t < 32, ∀ b < 8, ¬ InElement w [e] b → y.elemV t d b 8 = x.elemV t d b 8
  other : ∀ t < 32, ∀ q, q ≠ d ∨ t ∉ l → y.rv t q = x.rv t q

/-- Only V registers and FLAGS of `x` differ in `y`. -/
def VRegsOnly (x y : Group) : Prop := y = { x with v := y.v, flags := y.flags }

/-! ### Memory instructions -/

/-- The state in which a memory instruction acts: one with `.sc` has first acted as a FENCE.sc (R277). -/
def ordered (s : State) (x : Group) (f : MFmt) : State := if f.order = 4 then s.scFence x.core f.scope.toNat else s

/-- The elements `es` of a memory instruction are let through: there are some, its class has room, no older access keeps an `.sc`
waiting, no bank of theirs is being switched, and no check of R151 fails. -/
structure Admitted (s : State) (x : Group) (f : MFmt) (c : Cls) (es : List (Nat × Nat)) (fails : List Failure) : Prop where
  nonempty : es ≠ []
  room  : x.count c < 63
  first : f.order = 4 → x.count .ld = 0 ∧ x.count .st = 0
  still : f.path = 3 → s.switchingFor x (mBytes f) es = none
  clean : fails = []

/-- Check `o` of the table of R151 fails for an element of `n` bytes of global memory at `a`: no canonical address, a page not
resident, no translation or not the permission, a page that the device does not own or whose VREL has begun, or the wrong STAMPED
attribute. -/
def CheckFails (s : State) (c n : Nat) (k : Access) (stamped : Option Bool) (o a : Nat) : Prop :=
  let page := fun (P : Leaf → Prop) => ∃ p ∈ pagePieces a n, ∃ l, s.leafFor c p.1 = .leaf l ∧ P l
  (o = 1 ∧ (canonical a && canonical (wrap64 (a + n - 1))) = false) ∨
  (o = 3 ∧ k ≠ .probe ∧ page (fun l => l.bit 2 = false)) ∨
  (o = 4 ∧ ((∃ p ∈ pagePieces a n, s.leafFor c p.1 = .unmapped ∨ s.leafFor c p.1 = .malformed) ∨
    (k = .write ∧ page (fun l => l.bit 2 = true ∧ l.bit 3 = false)))) ∨
  (o = 5 ∧ ∃ p ∈ pagePieces a n, ∃ l, s.leafFor c p.1 = .leaf l ∧ l.bit 2 = true ∧ l.bit 6 = true ∧
    (l.bit 7 = true ∨ s.releasing c p.1 = true)) ∨
  (o = 6 ∧ ∃ b, stamped = some b ∧ page (fun l => l.bit 2 = true ∧ l.bit 5 = !b))

/-- An instruction faults on a failing check with a cause at an address: it has no effect, its threads stay where they are, and the
record names the thread, the access and the enabled threads (R151, R333, R336). -/
def ChecksOut (s : State) (k : Issue) (g : Nat) (x : Group) (i : Instr) (cause : BitVec 8) (thread : Nat) (on : Mask)
    (P : FaultInfo → Prop) : Prop :=
  ∃ (t : State) (r : FaultRec), exec i s = .next t ∧ t.mem = s.mem ∧ t.group? g = some { x with status := .faulted r none } ∧
    (∀ c off, t.spByte c off = s.spByte c off) ∧ r.info.cause = cause ∧ r.info.thread = some thread ∧ r.unit = k.unit.toNat ∧
    r.restart = k.unit.toNat ∧ r.tmask = on ∧ r.info.slot2 = k.slot2 ∧ P r.info

/-- A uniform engine instruction is let through: the leader's guard enables it, its class has room, no check fails. -/
structure Uniform (x : Group) (gd : Guard) (active : Mask) (c : Cls) (fails : List Failure) : Prop where
  enabled : x.enabled gd (leader active) 0 = true
  room  : x.count c < 63
  clean : fails = []

/-- `i` has left one operation outstanding in `y`: in class `c`, for the threads `m`, with `w` still to do (R152). -/
structure Outstanding (x y : Group) (i : Instr) (c : Cls) (m : Mask) (w : Work) : Prop where
  next : y.nextOp = x.nextOp + 1
  count : y.ops.length = x.ops.length + 1
  last : ∃ o, y.ops.getLast? = some o ∧ o.id = x.nextOp ∧ o.instr = i ∧ o.cls = c ∧ o.mask = m ∧ o.work = w

/-- Registers, predicates and flags of `x` and `y` agree. -/
def SameRegs (x y : Group) : Prop := y.v = x.v ∧ y.p = x.p ∧ y.s = x.s ∧ y.flags = x.flags

/-- A span of global memory that lies in one page: `n` bytes, some, from a 64-bit address on. -/
def OnePage (va n : Nat) : Prop := va < 2 ^ 64 ∧ 0 < n ∧ va % 65536 + n ≤ 65536

/-- The physical addresses that a write of `l` at `va` changes: each page piece goes where the translation of that moment
leads, since a piece may change a page table; nothing but the bytes in memory bears on that. -/
def writtenBy (s : State) (c va : Nat) (l : List Byte) : List Nat :=
  ((pagePieces va l.length).foldl (fun (p : State × List Nat) q =>
    match p.1.pa? c q.1 with
    | some pa => (p.1.setBytes pa ((l.drop (wrap64 (q.1 + 2 ^ 64 - wrap64 va))).take q.2), p.2 ++ (List.range q.2).map (pa + ·))
    | none => p) (s, [])).2

/-- The physical addresses that a store of the elements `es` changes, element after element. -/
def storedBy (s : State) (x : Group) (f : MFmt) (es : List (Nat × Nat)) : List Nat :=
  (es.foldl (fun (p : State × List Nat) e =>
    (p.1.storeElem x f e.2 (x.dataBytes f e.1),
      p.2 ++ writtenBy (p.1.hold (s.ctxOf x.launch) e.2 (x.dataBytes f e.1).length) (s.ctxOf x.launch) e.2 (x.dataBytes f e.1)))
    (s, [])).2

/-- Bytes written to global memory one after another. -/
def written (s : State) (c : Nat) (l : List (Nat × Byte)) : State := l.foldl (fun s p => s.vwrite c p.1 [p.2]) s

end Sys2Proof.Safety
end

