-- ==== Sys2Proof/Certificates/Slice0/Obligations.lean ====
section
/-!
DEFINITION. The statements for the provers. In every one of them `s` is the state, `k` the fetch whose instruction issues,
`g` and `x` its group and the group's state; `Issued` and `Completes` say that the instruction is latched and that it goes
on at u + 1.
-/
section Statements

open Sys2Proof Sys2Proof.Machine Sys2Proof.Safety

/-! ### Vector integer instructions -/

/-- R112: f of the table, exact, then clamped or reduced, in every enabled element of every active thread. -/
def Obligations.VectorTwoSource : Prop :=
  ∀ (s : State) (k : Issue) (g : Nat) (x : Group) (f : VFmt) (i : Instr) (r : Int → Int → Nat → Nat → Int),
    (i, r) ∈ ([(.vadd f, fun a b _ _ => a + b), (.vsub f, fun a b _ _ => a - b), (.vmul f, fun a b _ _ => a * b),
        (.vmulh f, fun a b _ _ => (a * b).fdiv (2 ^ f.w)),
        (.vdiv f, fun a b _ _ => if b = 0 then 0 else a.tdiv b), (.vrem f, fun a b _ _ => if b = 0 then a else a.tmod b),
        (.vand f, fun _ _ p q => ((p &&& q : Nat) : Int)), (.vor f, fun _ _ p q => ((p ||| q : Nat) : Int)),
        (.vxor f, fun _ _ p q => ((p ^^^ q : Nat) : Int)), (.vshl f, fun a _ _ q => a * 2 ^ (q % f.w)),
        (.vshr f, fun _ _ p q => ((p / 2 ^ (q % f.w) : Nat) : Int)),
        (.vsra f, fun _ _ p q => (sint f.w p).fdiv (2 ^ (q % f.w))),
        (.vmin f, fun a b _ _ => min a b), (.vmax f, fun a b _ _ => max a b)] :
        List (Instr × (Int → Int → Nat → Nat → Int))) →
    i.wf = true → Issued s k g x i →
    Completes s k g i (fun y => Elements x y f.g k.active f.d.toNat f.w (dstOffsets f.w f.selD) (fun t e =>
      let p := x.srcA f f.w t e
      let q := x.srcB f f.w t e
      let v := r (ival (signedTy f.type) f.w p) (ival (signedTy f.type) f.w q) p q
      (pat f.w (if f.sat then clampInt (intRange (signedTy f.type) f.w) v else v), 0)))

/-- R113, R114: the one-source operations, VMAD and the moves. -/
def Sys2Proof.Claims.VectorOneSourceAndMoves : Prop :=
  ∀ (s : State) (k : Issue) (g : Nat) (x : Group) (f : VFmt) (i : Instr) (r : Nat → Nat → Int),
    let sg := signedTy f.type
    let a := fun t e => x.srcA f f.w t e
    let fit := fun (v : Int) => if f.sat then clampInt (intRange sg f.w) v else v
    (i, r) ∈ ([(.vnot f, fun t e => ((2 ^ f.w - 1 - a t e : Nat) : Int)),
        (.vabs f, fun t e => fit ((ival sg f.w (a t e)).natAbs : Int)),
        (.vclz f, fun t e => if a t e = 0 then (f.w : Int) else (f.w : Int) - 1 - (Nat.log2 (a t e) : Int)),
        (.vpopc f, fun t e => (((List.range f.w).filter (fun j => (a t e).testBit j)).length : Int)),
        (.vmad f, fun t e => fit (ival sg f.w (a t e) * ival sg f.w (x.srcB f f.w t e) + ival sg f.w (x.srcC f f.w t e))),
        (.vmov f, fun t e => (a t e : Int)), (.vmovi f, fun _ _ => (immElem f.type f.imm : Int)),
        (.vmovs f, fun _ e => (elem (x.rs f.a.toNat) (selOff f.w f.selA e) f.w : Int))] : List (Instr × (Nat → Nat → Int))) →
    i.wf = true → Issued s k g x i →
    Completes s k g i (fun y =>
      Elements x y f.g k.active f.d.toNat f.w (dstOffsets f.w f.selD) (fun t e => (pat f.w (r t e), 0)))

/-- R116, R117, R118: selects, bit fields and dot products; of a bit field, bit by bit. -/
def Sys2Proof.Claims.VectorSelectFieldsDot : Prop :=
  ∀ (s : State) (k : Issue) (g : Nat) (x : Group) (f : VFmt),
    let sg := signedTy f.type
    let pos := fun t e => x.srcB f f.w t e % 64
    let len := fun t e => min (x.srcB f f.w t e / 256 % 64) (f.w - pos t e)
    ((Instr.vsel f).wf = true → Issued s k g x (.vsel f) → Completes s k g (.vsel f) (fun y =>
      Elements x y f.g k.active f.d.toNat f.w (dstOffsets f.w f.selD) (fun t e =>
        (if (x.rp t f.c.toNat).getLsbD e then x.srcA f f.w t e else x.srcB f f.w t e, 0)))) ∧
    ((Instr.vbfx f).wf = true → Issued s k g x (.vbfx f) → Completes s k g (.vbfx f) (fun y =>
      ∃ r : Nat → Nat → Nat, Elements x y f.g k.active f.d.toNat f.w (dstOffsets f.w f.selD) (fun t e => (r t e, 0)) ∧
        ∀ t e j, j < f.w → (r t e).testBit j =
          if j < len t e then (x.srcA f f.w t e).testBit (pos t e + j)
          else sg && len t e != 0 && (x.srcA f f.w t e).testBit (pos t e + len t e - 1))) ∧
    ((Instr.vbfi f).wf = true → Issued s k g x (.vbfi f) → Completes s k g (.vbfi f) (fun y =>
      ∃ r : Nat → Nat → Nat, Elements x y f.g k.active f.d.toNat f.w (dstOffsets f.w f.selD) (fun t e => (r t e, 0)) ∧
        ∀ t e j, j < f.w → (r t e).testBit j =
          if pos t e ≤ j ∧ j < pos t e + len t e then (x.srcA f f.w t e).testBit (j - pos t e)
          else (x.srcC f f.w t e).testBit j)) ∧
    ((Instr.vdot4 f).wf = true → Issued s k g x (.vdot4 f) → Completes s k g (.vdot4 f) (fun y =>
      Elements x y f.g k.active f.d.toNat 32 (dstOffsets 32 f.selD) (fun t e =>
        let b := fun (v j : Nat) => ival sg 8 (v / 256 ^ j % 256)
        let p := x.srcA f 32 t e
        let q := x.srcB f 32 t e
        let v := ival sg 32 (x.srcC f 32 t e) + b p 0 * b q 0 + b p 1 * b q 1 + b p 2 * b q 2 + b p 3 * b q 3
        (pat 32 (if f.sat then clampInt (intRange sg 32) v else v), 0))))

/-- R113, R114, R116 to R118: the other integer vector instructions. -/
def Obligations.VectorMovesSelectsFields : Prop := Claims.VectorOneSourceAndMoves ∧ Claims.VectorSelectFieldsDot

/-! ### Predicates -/

/-- R115: a compare sets every byte flag of each enabled element to its condition. -/
def Sys2Proof.Claims.VectorCompare : Prop :=
  ∀ (s : State) (k : Issue) (g : Nat) (x : Group) (f : VFmt), (Instr.vcmp f).wf = true → Issued s k g x (.vcmp f) →
    Completes s k g (.vcmp f) (fun y =>
      Compares x y f.g k.active f.d.toNat f.w (dstOffsets f.w f.selD) (fun t e =>
        let a := ival (signedTy f.type) f.w (x.srcA f f.w t e)
        let b := ival (signedTy f.type) f.w (x.srcB f f.w t e)
        (([decide (a = b), decide (a ≠ b), decide (a < b), decide (a ≤ b), decide (a > b), decide (a ≥ b)] : List Bool).getD
          f.subop.toNat false, 0)))

/-- R119, R120: the predicate instructions and VOTE. -/
def Sys2Proof.Claims.PredicatesAndVote : Prop :=
  ∀ (s : State) (k : Issue) (g : Nat) (x : Group) (f : VFmt),
    let a := fun t j => (x.rp t f.a.toNat).getLsbD j
    let b := fun t j => (x.rp t f.b.toNat).getLsbD j
    let con := x.enabledSet f.g k.active 0
    (∀ (i : Instr) (r : Nat → Nat → Bool),
      (i, r) ∈ ([(.pset f, fun t j => if f.isVI then f.imm.getLsbD j else x.elemV t f.a.toNat j 8 != 0),
          (.pand f, fun t j => a t j && b t j), (.por f, fun t j => a t j || b t j),
          (.pxor f, fun t j => a t j ^^ b t j), (.pnot f, fun t j => !a t j)] : List (Instr × (Nat → Nat → Bool))) →
      i.wf = true → Issued s k g x i →
      Completes s k g i (fun y => Predicates x y (threadsOf k.active) (x.enabled f.g) f.d.toNat r)) ∧
    ((Instr.vote f).wf = true → Issued s k g x (.vote f) → Completes s k g (.vote f) (fun y =>
      if f.subop = 3 then WritesV x y con f.d.toNat (fun _ => y.rv (con.headD 0) f.d.toNat) ∧
        ∀ t ∈ con, ∀ j < 64, (y.rv t f.d.toNat).getLsbD j = (decide (j ∈ con) && a j 0)
      else Predicates x y con (fun _ _ => true) f.d.toNat (fun _ j =>
        if f.subop = 0 then con.any (fun t => a t j)
        else if f.subop = 1 then con.all (fun t => a t j)
        else con.all (fun t => a t j) || con.all (fun t => !a t j))))

/-- R115, R119, R120: compares, predicate operations and the vote. -/
def Obligations.ComparesPredicatesVote : Prop := Claims.VectorCompare ∧ Claims.PredicatesAndVote

/-! ### The scalar family -/

/-- R121, R122: each scalar instruction acts as its vector form does on one register, under the leader's guard. -/
def Sys2Proof.Claims.ScalarTwoSource : Prop :=
  ∀ (s : State) (k : Issue) (g : Nat) (x : Group) (f : SFmt) (i : Instr) (r : Int → Int → Nat → Nat → Int),
    let w := (typeWidth? f.type).getD 64
    let sg := signedTy f.type
    (i, r) ∈ ([(.sadd f, fun a b _ _ => a + b), (.saddi f, fun a b _ _ => a + b), (.ssub f, fun a b _ _ => a - b),
        (.smul f, fun a b _ _ => a * b), (.smulh f, fun a b _ _ => (a * b).fdiv (2 ^ w)),
        (.sdiv f, fun a b _ _ => if b = 0 then 0 else a.tdiv b), (.srem f, fun a b _ _ => if b = 0 then a else a.tmod b),
        (.sand f, fun _ _ p q => ((p &&& q : Nat) : Int)), (.sor f, fun _ _ p q => ((p ||| q : Nat) : Int)),
        (.sxor f, fun _ _ p q => ((p ^^^ q : Nat) : Int)), (.sshl f, fun a _ _ q => a * 2 ^ (q % w)),
        (.sshr f, fun _ _ p q => ((p / 2 ^ (q % w) : Nat) : Int)),
        (.ssra f, fun _ _ p q => (sint w p).fdiv (2 ^ (q % w))),
        (.smin f, fun a b _ _ => min a b), (.smax f, fun a b _ _ => max a b)] :
        List (Instr × (Int → Int → Nat → Nat → Int))) →
    i.wf = true → Issued s k g x i →
    Completes s k g i (fun y => Scalars x y f.g k.active f.sd.toNat w (packedOffsets w) (fun e =>
      let p := elem (x.rs f.sa.toNat) e w
      let q := if i = .saddi f ∨ f.immSel = true then immElem f.type f.imm else elem (x.rs f.sb.toNat) e w
      let v := r (ival sg w p) (ival sg w q) p q
      pat w (if f.sat then clampInt (intRange sg w) v else v)))

/-- R122, R123: moves, SMOVH, compares and selects into an S register, counts and bit fields. -/
def Sys2Proof.Claims.ScalarOthers : Prop :=
  ∀ (s : State) (k : Issue) (g : Nat) (x : Group) (f : SFmt),
    let w := (typeWidth? f.type).getD 64
    let sg := signedTy f.type
    let a := fun e => elem (x.rs f.sa.toNat) e w
    let b := fun e => elem (x.rs f.sb.toNat) e w
    let c := fun e => if f.immSel then immElem f.type f.imm else b e
    let pos := f.imm.toNat % 64
    let len := min (f.imm.toNat / 256 % 64) (w - pos)
    (∀ (i : Instr) (r : Nat → Int),
      (i, r) ∈ ([(.smov f, fun e => (a e : Int)), (.smovi f, fun _ => (immElem f.type f.imm : Int)),
          (.scmp f, fun e =>
            let p := ival sg w (a e)
            let q := ival sg w (c e)
            if ([decide (p = q), decide (p ≠ q), decide (p < q), decide (p ≤ q), decide (p > q), decide (p ≥ q)] :
              List Bool).getD f.subop.toNat false then ((2 ^ w - 1 : Nat) : Int) else 0),
          (.ssel f, fun e => if elem (x.rs f.sx.toNat) e w = 0 then (b e : Int) else (a e : Int)),
          (.sclz f, fun e => if a e = 0 then (w : Int) else (w : Int) - 1 - (Nat.log2 (a e) : Int)),
          (.spopc f, fun e => (((List.range w).filter (fun j => (a e).testBit j)).length : Int))] : List (Instr × (Nat → Int))) →
      i.wf = true → Issued s k g x i →
      Completes s k g i (fun y => Scalars x y f.g k.active f.sd.toNat w (packedOffsets w) (fun e => pat w (r e)))) ∧
    ((Instr.smovh f).wf = true → Issued s k g x (.smovh f) →
      Completes s k g (.smovh f) (fun y => Scalars x y f.g k.active f.sd.toNat 32 [4] (fun _ => f.imm.toNat))) ∧
    ((Instr.sbfx f).wf = true → Issued s k g x (.sbfx f) → Completes s k g (.sbfx f) (fun y =>
      ∃ r : Nat → Nat, Scalars x y f.g k.active f.sd.toNat w (packedOffsets w) r ∧ ∀ e j, j < w → (r e).testBit j =
        if j < len then (a e).testBit (pos + j) else sg && len != 0 && (a e).testBit (pos + len - 1))) ∧
    ((Instr.sbfi f).wf = true → Issued s k g x (.sbfi f) → Completes s k g (.sbfi f) (fun y =>
      ∃ r : Nat → Nat, Scalars x y f.g k.active f.sd.toNat w (packedOffsets w) r ∧ ∀ e j, j < w → (r e).testBit j =
        if pos ≤ j ∧ j < pos + len then (a e).testBit (j - pos) else (b e).testBit j))

/-- R121 to R123: the scalar instructions. -/
def Obligations.ScalarInstructions : Prop := Claims.ScalarTwoSource ∧ Claims.ScalarOthers

/-! ### Floating point -/

/-- R126 to R128: the exact result of the operation on exact operands, saturated under `.sat` and rounded once, with the
flags of both, in every enabled element. -/
def Sys2Proof.Claims.FloatOperations : Prop :=
  ∀ (s : State) (k : Issue) (g : Nat) (x : Group) (f : VFmt) (i : Instr) (r : Nat → Nat → Machine.Num × Fl),
    let a := fun t e => (fmtOf f.type).decode (x.srcA f f.w t e)
    let b := fun t e => (fmtOf f.type).decode (x.srcB f f.w t e)
    let c := fun t e => (fmtOf f.type).decode (x.srcC f f.w t e)
    (i, r) ∈ ([(.fadd f, fun t e => Machine.Num.add f.rm.toNat (a t e) (b t e)),
        (.fsub f, fun t e => Machine.Num.add f.rm.toNat (a t e) (b t e).negate), (.fmul f, fun t e => Machine.Num.mul (a t e) (b t e)),
        (.ffma f, fun t e => Machine.Num.fma f.rm.toNat (a t e) (b t e) (c t e)), (.fdiv f, fun t e => Machine.Num.div (a t e) (b t e))] :
        List (Instr × (Nat → Nat → Machine.Num × Fl))) →
    i.wf = true → Issued s k g x i →
    Completes s k g i (fun y => Elements x y f.g k.active f.d.toNat f.w (dstOffsets f.w f.selD) (fun t e =>
      let out := (fmtOf f.type).satRound f.sat f.rm.toNat (r t e).1
      (out.1, (r t e).2 ||| out.2)))

/-- R64 to R66, R62, R127: the exact sum, with the sign of a zero sum and the invalid cases; the one rounding: to nearest with ties to
even, or in the given direction, by whole quanta; a value that the type holds rounds to itself with no flag; one too large answers
infinity or the largest finite value by its direction, with OF and NX; under `.sat` one too large, or infinite, answers the largest
finite value with both flags. -/
def Sys2Proof.Claims.SumsAndRounding : Prop :=
  let signed := fun (neg : Bool) (m : Nat) => if neg then -(m : Int) else (m : Int)
  (∀ (rm : Nat) (n1 n2 : Bool) (m1 m2 : Nat) (e1 e2 : Int), ∃ (n : Bool) (m : Nat),
    Machine.Num.add rm (.fin n1 m1 e1 false) (.fin n2 m2 e2 false) = (.fin n m (min e1 e2) false, 0) ∧
    signed n m = signed n1 (m1 * 2 ^ (e1 - min e1 e2).toNat) + signed n2 (m2 * 2 ^ (e2 - min e1 e2).toNat) ∧
    (m = 0 → n = if n1 = n2 then n1 else rm == 3)) ∧
  (∀ (rm : Nat) (x y : Machine.Num), (x.isNan = true ∨ y.isNan = true →
      Machine.Num.add rm x y = (.nan false, if x.isSig = true ∨ y.isSig = true then flNV else 0)) ∧
    (∀ n, Machine.Num.add rm (.inf n) (.inf (!n)) = (.nan false, flNV) ∧ Machine.Num.add rm (.inf n) (.inf n) = (.inf n, 0))) ∧
  (∀ (rm : Nat) (neg : Bool) (m : Nat) (e q : Int), e < q → rm < 4 →
    let u := 2 ^ (q - e).toNat
    let r := roundAt rm neg m e false q
    (r.2 = true ↔ m % u ≠ 0) ∧
    (rm = 0 → 2 * (r.1 * u) ≤ 2 * m + u ∧ 2 * m ≤ 2 * (r.1 * u) + u ∧
      (2 * (r.1 * u) = 2 * m + u ∨ 2 * m = 2 * (r.1 * u) + u → r.1 % 2 = 0)) ∧
    (rm = 1 ∨ (rm = 2 ∧ neg = true) ∨ (rm = 3 ∧ neg = false) → r.1 = m / u) ∧
    ((rm = 2 ∧ neg = false) ∨ (rm = 3 ∧ neg = true) → r.1 = (m + u - 1) / u)) ∧
  (∀ (rm : Nat) (neg : Bool) (m : Nat) (e q : Int), e < q → rm < 4 →
    let u := 2 ^ (q - e).toNat
    let r := roundAt rm neg m e true q
    r.2 = true ∧ (rm = 0 → 2 * (r.1 * u) ≤ 2 * m + u ∧ 2 * (m + 1) ≤ 2 * (r.1 * u) + u) ∧
    (rm = 1 ∨ (rm = 2 ∧ neg = true) ∨ (rm = 3 ∧ neg = false) → r.1 = m / u) ∧
    ((rm = 2 ∧ neg = false) ∨ (rm = 3 ∧ neg = true) → r.1 = m / u + 1)) ∧
  (∀ f ∈ [fmtF16, fmtBF16, fmtF32, fmtF64], ∀ rm < 4,
    (∀ (c : Nat) (neg : Bool) (m : Nat) (e : Int) (st : Bool), c < 2 ^ f.width → f.decode c = .fin neg m e st →
      f.round rm (f.decode c) = (c, 0)) ∧
    (∀ (neg : Bool) (m : Nat) (e : Int), m ≠ 0 → f.bias + 1 ≤ e → f.round rm (.fin neg m e false) =
      (if rm = 0 ∨ (rm = 2 ∧ neg = false) ∨ (rm = 3 ∧ neg = true) then f.infCode neg else f.signBit neg + f.maxMag, flOF ||| flNX)) ∧
    (∀ sig, f.round rm (.nan sig) = (f.nanCode, 0)) ∧ (∀ neg, f.round rm (.inf neg) = (f.infCode neg, 0)) ∧
    (∀ x, f.satRound false rm x = f.round rm x) ∧
    (∀ (c : Nat) (neg : Bool) (m : Nat) (e : Int) (st : Bool), c < 2 ^ f.width → f.decode c = .fin neg m e st →
      f.satRound true rm (f.decode c) = (c, 0)) ∧
    (∀ (neg : Bool) (m : Nat) (e : Int), m ≠ 0 → f.bias + 1 ≤ e →
      f.satRound true rm (.fin neg m e false) = (f.signBit neg + f.maxMag, flOF ||| flNX)) ∧
    (∀ neg, f.satRound true rm (.inf neg) = (f.signBit neg + f.maxMag, flOF ||| flNX)) ∧
    (∀ sig, f.satRound true rm (.nan sig) = (f.nanCode, 0)))

/-- R62, R78, R79, R128: the product is exact, with the sign of its operands, and ∞ × 0 is invalid; the quotient is the exact one cut
below its seventy-second bit, with a sticky bit where something is cut, 0 ÷ 0 and ∞ ÷ ∞ are invalid and a finite value over zero is
infinite with DZ; the fused sum is exact, with the sign of a zero as in a sum, and ∞ × 0 is invalid in it whatever is added. -/
def Sys2Proof.Claims.ProductsQuotientsFused : Prop :=
  let signed := fun (neg : Bool) (m : Nat) => if neg then -(m : Int) else (m : Int)
  let bad : Machine.Num × Fl := (.nan false, flNV)
  (∀ x y : Machine.Num, x.isNan = true ∨ y.isNan = true →
    let r : Machine.Num × Fl := (.nan false, if x.isSig = true ∨ y.isSig = true then flNV else 0)
    Machine.Num.mul x y = r ∧ Machine.Num.div x y = r) ∧
  (∀ (n1 n2 : Bool) (m1 m2 : Nat) (e1 e2 : Int),
    let a := Machine.Num.fin n1 m1 e1 false
    let b := Machine.Num.fin n2 m2 e2 false
    Machine.Num.mul a b = (.fin (n1 != n2) (m1 * m2) (e1 + e2) false, 0) ∧
    Machine.Num.mul (.inf n1) (.inf n2) = (.inf (n1 != n2), 0) ∧
    Machine.Num.mul (.inf n1) b = (if m2 = 0 then bad else (.inf (n1 != n2), 0)) ∧
    Machine.Num.mul a (.inf n2) = (if m1 = 0 then bad else (.inf (n1 != n2), 0)) ∧
    Machine.Num.div (.inf n1) (.inf n2) = bad ∧ Machine.Num.div (.inf n1) b = (.inf (n1 != n2), 0) ∧
    Machine.Num.div a (.inf n2) = (.fin (n1 != n2) 0 0 false, 0) ∧
    (m2 = 0 → Machine.Num.div a b = if m1 = 0 then bad else (.inf (n1 != n2), flDZ)) ∧
    (m1 = 0 → m2 ≠ 0 → Machine.Num.div a b = (.fin (n1 != n2) 0 0 false, 0)) ∧
    (m1 ≠ 0 → m2 ≠ 0 → ∃ (q k : Nat) (st : Bool), Machine.Num.div a b = (.fin (n1 != n2) q (e1 - e2 - k) st, 0) ∧
      q * m2 ≤ m1 * 2 ^ k ∧ m1 * 2 ^ k < (q + 1) * m2 ∧ (st = true ↔ q * m2 ≠ m1 * 2 ^ k) ∧ 2 ^ 71 ≤ q)) ∧
  (∀ (rm : Nat) (n1 n2 n3 : Bool) (m1 m2 m3 : Nat) (e1 e2 e3 : Int),
    let a := Machine.Num.fin n1 m1 e1 false
    let b := Machine.Num.fin n2 m2 e2 false
    let lo := min (e1 + e2) e3
    (∃ (n : Bool) (m : Nat), Machine.Num.fma rm a b (.fin n3 m3 e3 false) = (.fin n m lo false, 0) ∧
      signed n m = signed (n1 != n2) (m1 * m2 * 2 ^ (e1 + e2 - lo).toNat) + signed n3 (m3 * 2 ^ (e3 - lo).toNat) ∧
      (m = 0 → n = if (n1 != n2) = n3 then n3 else rm == 3)) ∧
    Machine.Num.fma rm a b (.inf n3) = (.inf n3, 0) ∧
    (m2 ≠ 0 → Machine.Num.fma rm (.inf n1) b (.fin n3 m3 e3 false) = (.inf (n1 != n2), 0) ∧
      Machine.Num.fma rm (.inf n1) b (.inf n3) = if (n1 != n2) = n3 then (.inf n3, 0) else bad)) ∧
  (∀ (rm : Nat) (n n2 : Bool) (e : Int) (z : Machine.Num),
    Machine.Num.fma rm (.inf n) (.fin n2 0 e false) z = bad ∧ Machine.Num.fma rm (.fin n2 0 e false) (.inf n) z = bad) ∧
  (∀ (rm : Nat) (x y z : Machine.Num), x.isNan = true ∨ y.isNan = true ∨ (z.isNan = true ∧ (x.mul y).2 = 0) →
    Machine.Num.fma rm x y z =
      (.nan false, if x.isSig = true ∨ y.isSig = true ∨ z.isSig = true then flNV else 0))

/-- R62, R64 to R66, R78, R79, R126 to R128: floating-point arithmetic, with the sums, products and quotients and the rounding it
rests on. -/
def Obligations.FloatArithmetic : Prop :=
  Claims.FloatOperations ∧ Claims.SumsAndRounding ∧ Claims.ProductsQuotientsFused

/-- R129 to R132: minimum and maximum; the sign moves, bit by bit; a class word of one bit; compares into a predicate. -/
def Sys2Proof.Claims.FloatSignClassCompare : Prop :=
  ∀ (s : State) (k : Issue) (g : Nat) (x : Group) (f : VFmt),
    let a := fun t e => x.srcA f f.w t e
    let b := fun t e => x.srcB f f.w t e
    let fm := fmtOf f.type
    (∀ (i : Instr) (r : Nat → Nat → Nat × Fl),
      (i, r) ∈ ([(.fmin f, fun t e => minMaxCode fm false false (a t e) (b t e)),
          (.fmax f, fun t e => minMaxCode fm true false (a t e) (b t e)),
          (.fminn f, fun t e => minMaxCode fm false true (a t e) (b t e)),
          (.fmaxn f, fun t e => minMaxCode fm true true (a t e) (b t e)),
          (.fclass f, fun t e => (2 ^ fclassBit fm (fm.decode (a t e)), 0))] : List (Instr × (Nat → Nat → Nat × Fl))) →
      i.wf = true → Issued s k g x i →
      Completes s k g i (fun y => Elements x y f.g k.active f.d.toNat f.w (dstOffsets f.w f.selD) r)) ∧
    (∀ (i : Instr) (sign : Nat → Nat → Bool),
      (i, sign) ∈ ([(.fabs f, fun _ _ => false), (.fneg f, fun t e => !(a t e).testBit (f.w - 1)),
          (.fcpys f, fun t e => (b t e).testBit (f.w - 1))] : List (Instr × (Nat → Nat → Bool))) →
      i.wf = true → Issued s k g x i →
      Completes s k g i (fun y => ∃ r : Nat → Nat → Nat,
        Elements x y f.g k.active f.d.toNat f.w (dstOffsets f.w f.selD) (fun t e => (r t e, 0)) ∧
          ∀ t e j, j < f.w → (r t e).testBit j = if j = f.w - 1 then sign t e else (a t e).testBit j)) ∧
    ((Instr.fcmp f).wf = true → Issued s k g x (.fcmp f) → Completes s k g (.fcmp f) (fun y =>
      Compares x y f.g k.active f.d.toNat f.w (dstOffsets f.w f.selD) (fun t e =>
        fcmpCond f.subop.toNat (fm.decode (a t e)) (fm.decode (b t e)))))

/-- R133, R137: rounding to integral and the special functions, each correctly rounded by the model's one function. The
model's own readings and choices in it: log entry 10. -/
def Sys2Proof.Claims.FloatIntegralSpecial : Prop :=
  ∀ (s : State) (k : Issue) (g : Nat) (x : Group) (f : VFmt) (i : Instr) (r : Nat → Nat × Fl),
    let fm := fmtOf f.type
    (i, r) ∈ ([(.frnd f, fun c =>
          let q := frndCode fm f.rm.toNat (fm.decode c)
          (q.1, q.2.1 ||| flIf (q.2.2 && f.subop == 1) flNX)),
        (.frcp f, specialCode fm f.sat f.rm.toNat 0x101), (.fsqrt f, specialCode fm f.sat f.rm.toNat 0x102),
        (.frsq f, specialCode fm f.sat f.rm.toNat 0x103), (.fexp2 f, specialCode fm f.sat f.rm.toNat 0x104),
        (.flog2 f, specialCode fm f.sat f.rm.toNat 0x105), (.fsinp f, specialCode fm f.sat f.rm.toNat 0x106),
        (.fcosp f, specialCode fm f.sat f.rm.toNat 0x107), (.ftanh f, specialCode fm f.sat f.rm.toNat 0x108)] :
        List (Instr × (Nat → Nat × Fl))) →
    i.wf = true → Issued s k g x i →
    Completes s k g i (fun y =>
      Elements x y f.g k.active f.d.toNat f.w (dstOffsets f.w f.selD) (fun t e => r (x.srcA f f.w t e)))

/-- R62, R79: a special function of a NaN is the canonical NaN; of a zero, an infinity or a negative value it is what R79 says, and
where the exact value is simple, that; the root before its rounding is the exact root, with a sticky bit where it is not. -/
def Sys2Proof.Claims.SpecialValues : Prop :=
  (∀ f ∈ [fmtF16, fmtBF16, fmtF32, fmtF64], ∀ rm < 4,
    let at_ := fun (op c : Nat) => specialCode f false rm op c
    let one := (f.round 0 (.fin false 1 0 false)).1
    (∀ op ∈ [0x101, 0x102, 0x103, 0x104, 0x105, 0x106, 0x107, 0x108], ∀ (c : Nat) (sig : Bool), f.decode c = .nan sig →
      at_ op c = (f.nanCode, if sig then flNV else 0)) ∧
    (∀ neg, at_ 0x101 (f.signBit neg) = (f.infCode neg, flDZ) ∧ at_ 0x103 (f.signBit neg) = (f.infCode neg, flDZ) ∧
      at_ 0x102 (f.signBit neg) = (f.signBit neg, 0) ∧ at_ 0x106 (f.signBit neg) = (f.signBit neg, 0) ∧
      at_ 0x108 (f.signBit neg) = (f.signBit neg, 0) ∧ at_ 0x104 (f.signBit neg) = (one, 0) ∧
      at_ 0x107 (f.signBit neg) = (one, 0) ∧ at_ 0x105 (f.signBit neg) = (f.infCode true, flDZ)) ∧
    (at_ 0x101 (f.infCode false) = (0, 0) ∧ at_ 0x103 (f.infCode false) = (0, 0) ∧
      (∀ op ∈ [0x102, 0x104, 0x105], at_ op (f.infCode false) = (f.infCode false, 0)) ∧ at_ 0x104 (f.infCode true) = (0, 0) ∧
      (∀ op ∈ [0x106, 0x107], ∀ neg, at_ op (f.infCode neg) = (f.nanCode, flNV)) ∧
      (∀ op ∈ [0x102, 0x103, 0x105], at_ op (f.infCode true) = (f.nanCode, flNV)) ∧ at_ 0x105 one = (0, 0)) ∧
    (∀ op ∈ [0x102, 0x103, 0x105], ∀ (c m : Nat) (e : Int) (st : Bool), f.decode c = .fin true m e st → m ≠ 0 →
      at_ op c = (f.nanCode, flNV))) ∧
  (∀ (m : Nat) (e : Int), ∃ k : Nat,
    let r := sqrtMag m e
    2 * r.2.1 = e - k ∧ r.1 * r.1 ≤ m * 2 ^ k ∧ m * 2 ^ k < (r.1 + 1) * (r.1 + 1) ∧ (r.2.2 = true ↔ r.1 * r.1 ≠ m * 2 ^ k))

/-- R77, R129, R131 to R133: minimum and maximum give the lower and the higher of two numbers, with −0 below +0, and a NaN or the number
by their kind; the eight conditions of a compare, with the flags of a NaN; the ten classes by the fields of the code; the integral
value, with the source's sign, by whole units. -/
def Sys2Proof.Claims.MinMaxCompareClassIntegral : Prop :=
  ∀ f ∈ [fmtF16, fmtBF16, fmtF32, fmtF64],
    let half := 2 ^ (f.width - 1)
    -- codes in rising order of value, −0 below +0, and with the two zeros equal
    let key := fun (c : Nat) => if c < half then (c : Int) else (half : Int) - 1 - c
    let val := fun (c : Nat) => if c < half then (c : Int) else (half : Int) - c
    let isNan := fun (c : Nat) => (f.decode c).isNan = true
    (∀ a b : Nat, a < 2 ^ f.width → b < 2 ^ f.width →
      let sig := (f.decode a).isSig = true ∨ (f.decode b).isSig = true
      let nv := if sig then flNV else 0
      (¬ isNan a ∧ ¬ isNan b → ∀ first,
        minMaxCode f false first a b = (if key a ≤ key b then a else b, 0) ∧
        minMaxCode f true first a b = (if key b ≤ key a then a else b, 0)) ∧
      (isNan a ∨ isNan b → ∀ wantMax,
        minMaxCode f wantMax false a b = (f.nanCode, nv) ∧
        minMaxCode f wantMax true a b = (if ¬ isNan a then a else if ¬ isNan b then b else f.nanCode, nv)) ∧
      (∀ cond < 8, fcmpCond cond (f.decode a) (f.decode b) =
        if isNan a ∨ isNan b then
          (([false, true, false, false, false, false, true, false] : List Bool).getD cond false,
            if sig ∨ 2 ≤ cond ∧ cond ≤ 5 then flNV else 0)
        else (([decide (val a = val b), decide (val a ≠ val b), decide (val a < val b), decide (val a ≤ val b),
          decide (val a > val b), decide (val a ≥ val b), false, true] : List Bool).getD cond false, 0))) ∧
    (∀ c < 2 ^ f.width,
      let neg := half ≤ c
      let ex := c / 2 ^ f.mb % 2 ^ f.eb
      let ma := c % 2 ^ f.mb
      fclassBit f (f.decode c) =
        if ex = 2 ^ f.eb - 1 then (if ma = 0 then (if neg then 0 else 7) else if ma < 2 ^ (f.mb - 1) then 8 else 9)
        else if ex = 0 then (if ma = 0 then (if neg then 3 else 4) else if neg then 2 else 5)
        else if neg then 1 else 6) ∧
    (∀ rm < 4, ∀ c < 2 ^ f.width,
      (∀ sig, f.decode c = .nan sig → frndCode f rm (f.decode c) = (f.nanCode, if sig then flNV else 0, false)) ∧
      (∀ neg, f.decode c = .inf neg → frndCode f rm (f.decode c) = (c, 0, false)) ∧
      (∀ (neg : Bool) (m : Nat) (e : Int) (st : Bool), f.decode c = .fin neg m e st →
        (0 ≤ e → frndCode f rm (f.decode c) = (c, 0, false)) ∧
        (e < 0 → ∃ (r m' : Nat) (e' : Int),
          frndCode f rm (f.decode c) = (r, 0, decide (m % 2 ^ (-e).toNat ≠ 0)) ∧ f.decode r = .fin neg m' e' false ∧
          m' * 2 ^ (e' - min e' 0).toNat = (roundAt rm neg m e false 0).1 * 2 ^ (-(min e' 0)).toNat)))

/-- R62, R77, R79, R129 to R133, R137: the floating-point instructions but arithmetic and conversions. -/
def Obligations.FloatUnary : Prop :=
  Claims.FloatSignClassCompare ∧ Claims.FloatIntegralSpecial ∧ Claims.SpecialValues ∧ Claims.MinMaxCompareClassIntegral

/-- R134 to R136: conversions between the types, block scales, packing unit by unit and unpacking element by element. The
model's own readings and choices in it: log entries 23 and 26. -/
def Sys2Proof.Claims.ConversionForms : Prop :=
  ∀ (s : State) (k : Issue) (g : Nat) (x : Group) (f : VFmt),
    let src := fun t e => x.elemV t f.a.toNat (selOff f.w2 f.selA e) f.w2
    let ub := (narrowFmt f).unit
    (∀ (i : Instr) (r : Nat → Nat → Nat × Fl),
      (i, r) ∈ ([(.fcvt f, fun t e =>
            let v := (fmtOf f.type2).decode (src t e)
            let c := (fmtOf f.type).satRound f.sat f.rm.toNat v
            (c.1, c.2 ||| flIf v.isSig flNV)),
          (.fcvti f, fun t e => toIntCode (signedTy f.type) f.w f.rm.toNat ((fmtOf f.type2).decode (src t e))),
          (.icvtf f, fun t e => (fmtOf f.type).satRound f.sat f.rm.toNat (Num.ofInt (ival (signedTy f.type2) f.w2 (src t e)))),
          (.fsca f, fun t e => fscaElem f.sat f.rm.toNat (x.srcA f 32 t e) (x.elemV t f.b.toNat (selOff 32 f.selB e) 8)
            (x.elemV t f.b.toNat (selOff 32 f.selB e + 1) 8) (if f.subop = 0 then some (x.srcC f 32 t e) else none))] :
          List (Instr × (Nat → Nat → Nat × Fl))) →
      i.wf = true → Issued s k g x i →
      Completes s k g i (fun y => Elements x y f.g k.active f.d.toNat f.w (dstOffsets f.w f.selD) r)) ∧
    (∀ (i : Instr) (r : Nat → Nat × Fl),
      (i, r) ∈ ([(.fpack f, fun c =>
            let v := (fmtOf f.type2).decode c
            let q := (narrowFmt f).satRound f.sat f.rm.toNat v
            (q.1, q.2 ||| flIf v.isSig flNV)),
          (.expq f, expqCode (fmtOf f.type2))] : List (Instr × (Nat → Nat × Fl))) →
      i.wf = true → Issued s k g x i →
      Completes s k g i (fun y =>
        let n := 64 / f.w2
        (∀ t ∈ threadsOf k.active, ∀ u < 64 / ub, unitOf (y.rv t f.d.toNat) ub u =
          if u / n = f.selD.toNat ∧ x.enabled f.g t (ub * u / 8) = true
          then (r (x.elemV t f.a.toNat (u % n * (f.w2 / 8)) f.w2)).1 % 2 ^ ub else unitOf (x.rv t f.d.toNat) ub u) ∧
        (∀ t < 32, ∀ q, q ≠ f.d.toNat ∨ k.active.getLsbD t = false → y.rv t q = x.rv t q) ∧
        (∀ b, y.flags.getLsbD b = (x.flags.getLsbD b || (threadsOf k.active).any (fun t => (List.range n).any (fun j =>
          x.enabled f.g t (ub * (f.selD.toNat * n + j) / 8) &&
            (r (x.elemV t f.a.toNat (j * (f.w2 / 8)) f.w2)).2.getLsbD b)))) ∧
        VRegsOnly x y)) ∧
    ((Instr.funpk f).wf = true → Issued s k g x (.funpk f) → Completes s k g (.funpk f) (fun y =>
      let u := fun e => f.selA.toNat * (64 / f.w) + e / (f.w / 8)
      (∀ t ∈ threadsOf k.active, ∀ e ∈ packedOffsets f.w, y.elemV t f.d.toNat e f.w =
        if x.enabled f.g t (ub * u e / 8) then
          ((fmtOf f.type).round 0 ((narrowFmt f).decode
            (unitOf (x.rv t f.a.toNat) ub (u e) % 2 ^ (narrowFmt f).width))).1 % 2 ^ f.w
        else x.elemV t f.d.toNat e f.w) ∧
      (∀ t < 32, ∀ q, q ≠ f.d.toNat ∨ k.active.getLsbD t = false → y.rv t q = x.rv t q) ∧
      VRegsOnly x y ∧ y.flags = x.flags))

/-- R76: a NaN becomes 0 and an infinity the bound on its side, both invalid; a finite value is rounded by whole units, clamped to the
range of the type with NV, and inexact where the rounding changed it. -/
def Sys2Proof.Claims.ToIntegerType : Prop :=
  ∀ (signed : Bool) (w rm : Nat), 0 < w → rm < 4 →
    let low : Int := if signed then -(2 ^ (w - 1) : Nat) else 0
    let high : Int := if signed then (2 ^ (w - 1) : Nat) - 1 else (2 ^ w : Nat) - 1
    let pattern := fun (v : Int) => (v % (2 ^ w : Nat)).toNat
    (∀ sig, toIntCode signed w rm (.nan sig) = (0, flNV)) ∧
    (∀ neg, toIntCode signed w rm (.inf neg) = (pattern (if neg then low else high), flNV)) ∧
    (∀ (neg : Bool) (m : Nat) (e : Int),
      let n : Nat := if 0 ≤ e then m * 2 ^ e.toNat else (roundAt rm neg m e false 0).1
      let v : Int := if neg then -n else n
      toIntCode signed w rm (.fin neg m e false) =
        if v < low then (pattern low, flNV) else if high < v then (pattern high, flNV)
        else (pattern v, if e < 0 ∧ m % 2 ^ (-e).toNat ≠ 0 then flNX else 0))

/-- R81: EXPQ of a NaN, of the infinities and of zero; of every value far above and far below the range, and of every one too near zero
to move the result from 256; and the lines worked to the bit. -/
def Sys2Proof.Claims.ExponentialCode : Prop :=
  (∀ f ∈ [fmtF16, fmtBF16, fmtF32], ∀ c < 2 ^ f.width,
    (∀ sig, f.decode c = .nan sig → expqCode f c = (0x7F, if sig then flNV else 0)) ∧
    (f.decode c = .inf false → expqCode f c = (0x7E, flOF ||| flNX)) ∧ (f.decode c = .inf true → expqCode f c = (0, 0)) ∧
    (∀ (neg : Bool) (m : Nat) (e : Int) (st : Bool), f.decode c = .fin neg m e st →
      (m = 0 → expqCode f c = (0x78, 0)) ∧
      (m ≠ 0 → 13 ≤ e → expqCode f c = if neg then (0, flUF ||| flNX) else (0x7E, flOF ||| flNX)) ∧
      (m ≠ 0 → e + f.mb < -81 → expqCode f c = (0x78, flNX)))) ∧
  expqCode fmtF32 0xBF800000 = (0x6C, flNX) ∧ expqCode fmtF32 0x3F400000 = (0x7E, flOF ||| flNX) ∧
  expqCode fmtF32 0xC1200000 = (0x06, flUF ||| flNX)

/-- R80, R136: a scale with bit 7 set answers the NaN with SCALE alone; the NaN scale answers the NaN; with number scales the exact
product of the three factors, and its exact sum with C, are rounded once; an infinity times a zero scale is invalid. -/
def Sys2Proof.Claims.BlockScaleElement : Prop :=
  ∀ (sat : Bool) (rm x sa sb : Nat) (c : Option Nat), rm < 4 →
    let v := fmtF32.decode x
    let mag := fun (v : Nat) => if v < 8 then v else 8 + v % 8
    let place := fun (v : Nat) => if v < 8 then (-9 : Int) else ((v / 8 : Nat) : Int) - 10
    (128 ≤ sa ∨ 128 ≤ sb → fscaElem sat rm x sa sb c = (0x7FC00000, flSCALE)) ∧
    (sa < 128 → sb < 128 →
      (v.isNan = true ∨ sa = 127 ∨ sb = 127 → ¬ (∃ n, v = .inf n ∧ sa = 0) → fscaElem sat rm x sa sb c =
        (fmtF32.nanCode, if v.isSig = true ∨ ∃ z, c = some z ∧ (fmtF32.decode z).isSig = true then flNV else 0)) ∧
      (∀ n, v = .inf n → sa = 0 ∨ (sb = 0 ∧ sa ≠ 127) → fscaElem sat rm x sa sb c = (fmtF32.nanCode, flNV)) ∧
      (∀ p, sa ≠ 127 → sb ≠ 127 →
        (∃ (n : Bool) (m : Nat) (e : Int) (st : Bool), v = .fin n m e st ∧
          p = .fin n (m * mag sa * mag sb) (e + place sa + place sb) false) ∨
        (∃ n, v = .inf n ∧ sa ≠ 0 ∧ sb ≠ 0 ∧ p = .inf n) →
        (c = none → fscaElem sat rm x sa sb c = fmtF32.satRound sat rm p) ∧
        (∀ z, c = some z → fscaElem sat rm x sa sb c =
          let sum := Machine.Num.add rm p (fmtF32.decode z)
          ((fmtF32.satRound sat rm sum.1).1, sum.2 ||| (fmtF32.satRound sat rm sum.1).2))))

/-- R76, R80, R81, R134 to R136: the conversions, and what each makes of a value. -/
def Obligations.Conversions : Prop :=
  Claims.ConversionForms ∧ Claims.ToIntegerType ∧ Claims.ExponentialCode ∧ Claims.BlockScaleElement

/-! ### Lanes -/

/-- R139 to R142: pulls, pushes with their collision record, and broadcasts. -/
def Sys2Proof.Claims.LaneMoves : Prop :=
  ∀ (s : State) (k : Issue) (g : Nat) (x : Group) (f : VFmt), x.nthr ≤ 32 →
    let n := fun t => if f.xa.getLsbD 5 then x.elemV t f.b.toNat 0 8 else f.xa.toNat % 32
    let lane : Nat → Int := fun t =>
      ([(n t : Int), (t : Int) - n t, (t : Int) + n t, ((t ^^^ n t : Nat) : Int)] : List Int).getD f.subop.toNat 0
    let d := f.selD.toNat * (f.w / 8)
    let a := f.selA.toNat * (f.w / 8)
    let con := x.enabledSet f.g k.active d
    ((Instr.xget f).wf = true → Issued s k g x (.xget f) → Completes s k g (.xget f) (fun y =>
      VRegsOnly x y ∧ y.flags = x.flags ∧ LaneElements x y con f.d.toNat d f.w (fun t =>
        x.elemV (if 0 ≤ lane t ∧ lane t < x.nthr then (lane t).toNat else t) f.a.toNat a f.w))) ∧
    ((Instr.xput f).wf = true → Issued s k g x (.xput f) → Completes s k g (.xput f) (fun y =>
      let to_ := fun (r : Nat) => con.filter (fun t => lane t == (r : Int))
      let hit := (List.range x.nthr).filter (fun r => (x.thread r).st != .retired && !(to_ r).isEmpty)
      y = { x with v := y.v, p := y.p } ∧
      LaneElements x y hit f.d.toNat d f.w (fun r => x.elemV ((to_ r).getLastD 0) f.a.toNat a f.w) ∧
      (∀ r ∈ hit, f.c.toNat ≠ 15 → ∀ b < 8, (y.rp r f.c.toNat).getLsbD b =
        if d ≤ b ∧ b < d + f.w / 8 then decide (2 ≤ (to_ r).length) else (x.rp r f.c.toNat).getLsbD b) ∧
      (∀ t < 32, ∀ q, q ≠ f.c.toNat ∨ t ∉ hit ∨ q = 15 → y.rp t q = x.rp t q))) ∧
    ((Instr.xbcast f).wf = true → Issued s k g x (.xbcast f) → Completes s k g (.xbcast f) (fun y =>
      let from_ := if f.xa.getLsbD 5 ∨ x.nthr ≤ f.xa.toNat % 32 then leader k.active else f.xa.toNat % 32
      let v := x.elemV from_ f.a.toNat a f.w
      if f.subop = 1 then
        (x.enabledSet f.g k.active a = [] → y = x) ∧
        (x.enabledSet f.g k.active a ≠ [] → WritesS x y f.d.toNat (setElem (x.rs f.d.toNat) d f.w v))
      else VRegsOnly x y ∧ y.flags = x.flags ∧ LaneElements x y con f.d.toNat d f.w (fun _ => v)))

/-- R143 to R146: the running values in ascending thread order, given to each contributor or to one scalar, and the lane
that a predicate names. -/
def Sys2Proof.Claims.ScansAndFindFirst : Prop :=
  ∀ (s : State) (k : Issue) (g : Nat) (x : Group) (f : VFmt),
    let con := fun e => x.enabledSet f.g k.active e
    let codes := fun (l : List Nat) e => (scanCodes f (l.map (fun t => x.elemV t f.a.toNat e f.w))).1
    let offs := (dstOffsets f.w f.selD).zip (dstOffsets f.w f.selA)
    ((Instr.xscan f).wf = true → Issued s k g x (.xscan f) → Completes s k g (.xscan f) (fun y =>
      VRegsOnly x y ∧
      (∀ p ∈ offs, ∀ j < (con p.1).length, y.elemV ((con p.1).getD j 0) f.d.toNat p.1 f.w =
        (if f.xa.getLsbD 0 then (if j = 0 then scanIdentity f else (codes (con p.1) p.2).getD (j - 1) 0)
         else (codes (con p.1) p.2).getD j 0) % 2 ^ f.w) ∧
      (∀ p ∈ offs, ∀ t < 32, t ∉ con p.1 → y.elemV t f.d.toNat p.1 f.w = x.elemV t f.d.toNat p.1 f.w) ∧
      (∀ t < 32, ∀ q, q ≠ f.d.toNat → y.rv t q = x.rv t q))) ∧
    ((Instr.xred f).wf = true → Issued s k g x (.xred f) → Completes s k g (.xred f) (fun y =>
      if f.xa.getLsbD 0 then
        y = { x with s := y.s, flags := y.flags } ∧
        (∀ p ∈ offs, con p.2 ≠ [] → elem (y.rs f.d.toNat) p.1 f.w = (codes (con p.2) p.2).getLastD 0 % 2 ^ f.w) ∧
        (∀ q, q ≠ f.d.toNat → y.rs q = x.rs q)
      else
        VRegsOnly x y ∧
        (∀ p ∈ offs, ∀ t ∈ con p.1, y.elemV t f.d.toNat p.1 f.w = (codes (con p.1) p.2).getLastD 0 % 2 ^ f.w) ∧
        (∀ p ∈ offs, ∀ t < 32, t ∉ con p.1 → y.elemV t f.d.toNat p.1 f.w = x.elemV t f.d.toNat p.1 f.w) ∧
        (∀ t < 32, ∀ q, q ≠ f.d.toNat → y.rv t q = x.rv t q))) ∧
    ((Instr.xffs f).wf = true → Issued s k g x (.xffs f) → Completes s k g (.xffs f) (fun y =>
      let ones := (con 0).filter (fun t => (x.rp t f.a.toNat).getLsbD 0)
      let v : Word := BitVec.ofNat 64
        (if f.subop = 0 then ones.headD x.nthr else if f.subop = 1 then ones.getLastD x.nthr else ones.length)
      if f.xa.getLsbD 0 then (con 0 = [] → y = x) ∧ (con 0 ≠ [] → WritesS x y f.d.toNat v)
      else WritesV x y (con 0) f.d.toNat (fun _ => v)))

/-- R143: the running values of a scan, one for each contributor: integer sums modulo the width, or clamped once from the exact sum
under `.sat`; the smallest or greatest so far; the bitwise operators; and in a floating type each from the one before it, a NaN at
the start made canonical. Under `.sat` the first floating value is taken as it is, an infinity too: the model's choice (log entry 79). -/
def Sys2Proof.Claims.RunningValues : Prop :=
  ∀ (f : VFmt) (l : List Nat), (∀ v ∈ l, v < 2 ^ f.w) →
    let out := (scanCodes f l).1
    let fm := fmtOf f.type
    let sg := signedTy f.type
    out.length = l.length ∧
    (f.type.toNat < 8 → ∀ j < l.length,
      let seen := l.take (j + 1)
      (f.subop = 0 → f.sat = false → out.getD j 0 = (seen.foldl (· + ·) 0) % 2 ^ f.w) ∧
      (f.subop = 0 → f.sat = true →
        ival sg f.w (out.getD j 0) = clampInt (intRange sg f.w) ((seen.map (ival sg f.w)).foldl (· + ·) 0)) ∧
      (f.subop = 1 → f.sat = false → out.getD j 0 ∈ seen ∧ ∀ v ∈ seen, ival sg f.w (out.getD j 0) ≤ ival sg f.w v) ∧
      (f.subop = 2 → f.sat = false → out.getD j 0 ∈ seen ∧ ∀ v ∈ seen, ival sg f.w v ≤ ival sg f.w (out.getD j 0)) ∧
      (f.subop = 3 → f.sat = false → out.getD j 0 = seen.foldl (· &&& ·) (2 ^ f.w - 1)) ∧
      (f.subop = 4 → f.sat = false → out.getD j 0 = seen.foldl (· ||| ·) 0) ∧
      (f.subop = 5 → f.sat = false → out.getD j 0 = seen.foldl (· ^^^ ·) 0)) ∧
    (8 ≤ f.type.toNat → ∀ v r, l = v :: r →
      out.head? = some (if (fm.decode v).isNan = true then fm.nanCode else v) ∧
      ((fm.decode v).isSig = true → (scanCodes f l).2 ||| flNV = (scanCodes f l).2) ∧
      ∀ j < r.length,
        let a := out.getD j 0
        let b := r.getD j 0
        (f.subop = 0 → out.getD (j + 1) 0 =
          (fm.satRound f.sat f.rm.toNat (Machine.Num.add f.rm.toNat (fm.decode a) (fm.decode b)).1).1) ∧
        (f.subop = 1 → out.getD (j + 1) 0 = (minMaxCode fm false false a b).1) ∧
        (f.subop = 2 → out.getD (j + 1) 0 = (minMaxCode fm true false a b).1) ∧
        (f.subop = 6 → out.getD (j + 1) 0 = (minMaxCode fm false true a b).1) ∧
        (f.subop = 7 → out.getD (j + 1) 0 = (minMaxCode fm true true a b).1))

/-- R139 to R146: moves between lanes, scans and find first, with the running values that a scan rests on. -/
def Obligations.LaneMovesAndScans : Prop := Claims.LaneMoves ∧ Claims.ScansAndFindFirst ∧ Claims.RunningValues

/-! ### Control -/

/-- R37, R91 to R93, R231: BRA and BRU; a forward branch leaves the rotation state, a target out of range is TARGET. -/
def Obligations.DirectBranches : Prop :=
  ∀ (s : State) (k : Issue) (g : Nat) (x : Group) (f : BFmt) (i : Instr) (taken named : Mask),
    let u := k.unit.toNat
    let target : Int := u + f.off.toInt
    let v := (x.rs f.sx.toNat).toInt
    let on := maskOf (x.enabledSet f.g k.active 0)
    (i, taken, named) ∈ ([(.bra f, on, on), (.bru f, if x.enabled f.g (leader k.active) 0 &&
        ([decide (v = 0), decide (v ≠ 0), decide (v < 0), decide (0 ≤ v), decide (0 < v), decide (v ≤ 0)] : List Bool).getD
          f.cond.toNat false then k.active else 0, k.active)] : List (Instr × Mask × Mask)) →
    i.wf = true → Issued s k g x i →
    (taken = 0 → Completes s k g i (fun y => y = x)) ∧
    (taken ≠ 0 → LegalTarget s (s.ctxOf x.launch) target → Lands s k g i (fun y =>
      y = { x with threads := y.threads, rot := y.rot } ∧ (u < target → y.rot = x.rot) ∧
        Placed x y u k.active taken (fun _ => target.toNat))) ∧
    (taken ≠ 0 → target < 0 ∨ 5 * 2 ^ 50 ≤ target → Faults s k g i (mkFault 0x03 0 none) named)

/-- R94 to R96: BRX sends each enabled thread to its own entry of the table, and changes no memory. A page fault on a word of the
table area comes first: the directory word, then COUNT, then the words selected; TBL at or above the table count, a COUNT of 0 or
above 256 and an index at or above COUNT are TABLE_RANGE. The model's own readings and choices in it: log entry 66. -/
def Sys2Proof.Claims.TableBranch : Prop :=
  ∀ (s : State) (k : Issue) (g : Nat) (x : Group) (l : Launch) (f : BFmt),
    let on := x.enabledSet f.g k.active 0
    let index := fun t => (x.rv t f.vx.toNat).toNat
    let word := fun (n a : Nat) => s.cstNum x.core l.ctx a n
    let fault := fun (a : Nat) => s.cstFault x.core l.ctx a 4
    let dir := wrap64 (l.tables + 4 * f.tbl.toNat)
    let base := wrap64 (l.tables + word 4 dir)
    let slot := fun t => if index t = 2 ^ 64 - 1 then wrap64 (base + 4) else wrap64 (base + 8 + 4 * index t)
    let within := fun t => index t < word 4 base ∨ index t = 2 ^ 64 - 1
    let target : Nat → Int := fun t => l.entry.toNat + sint 32 (word 4 (slot t))
    let fails := fun (e : FaultInfo) => Faults s k g (.brx f) e (maskOf on)
    Issued s k g x (.brx f) → s.launch? x.launch = some l →
    (on = [] → Completes s k g (.brx f) (fun y => y = x)) ∧
    (on ≠ [] → (∀ e, fault dir = some e → fails e) ∧
      (fault dir = none → l.ntab ≤ f.tbl.toNat → fails (mkFault 0x06 0 none)) ∧
      (fault dir = none → f.tbl.toNat < l.ntab → (∀ e, fault base = some e → fails e) ∧
        (fault base = none →
          (∀ t ∈ on, ∀ e, within t → (∀ v ∈ on, within v → fault (slot v) = none ∨ fault (slot v) = some e) → fault (slot t) = some e →
            fails e) ∧
          ((∀ t ∈ on, within t → fault (slot t) = none) →
            word 4 base = 0 ∨ 256 < word 4 base ∨ (∃ t ∈ on, ¬ within t) → fails (mkFault 0x06 0 none)) ∧
          (0 < word 4 base → word 4 base ≤ 256 →
            (∀ t ∈ on, within t ∧ fault (slot t) = none ∧ LegalTarget s l.ctx (target t)) →
            ∃ (s1 : State) (y : Group), exec (.brx f) s = .next (s1.completeAt k g y) ∧ s1 = { s with cores := s1.cores } ∧
              y = { x with threads := y.threads, rot := y.rot } ∧
              Placed x y k.unit.toNat k.active (maskOf on) (fun t => (target t).toNat)))))

/-- R97: CALL writes the link and branches; RET takes the link; a link at or above 5 × 2^50 is TARGET. -/
def Sys2Proof.Claims.CallAndReturn : Prop :=
  ∀ (s : State) (k : Issue) (g : Nat) (x : Group) (f : BFmt),
    let u := k.unit.toNat
    let on := x.enabledSet f.g k.active 0
    let target : Int := u + f.off.toInt
    let link := fun t => (x.rv t f.vx.toNat).toNat
    (Issued s k g x (.call f) →
      (on = [] → Completes s k g (.call f) (fun y => y = x)) ∧
      (on ≠ [] → LegalTarget s (s.ctxOf x.launch) target → Lands s k g (.call f) (fun y =>
        y = { x with v := y.v, threads := y.threads } ∧ Placed x y u k.active (maskOf on) (fun _ => target.toNat) ∧
        (∀ t ∈ on, y.rv t f.vx.toNat = BitVec.ofNat 64 (u + 1)) ∧
        (∀ t < 32, ∀ q, q ≠ f.vx.toNat ∨ t ∉ on → y.rv t q = x.rv t q)))) ∧
    (Issued s k g x (.ret f) →
      ((∀ t ∈ on, link t < 5 * 2 ^ 50) → Lands s k g (.ret f) (fun y =>
        y = { x with threads := y.threads } ∧ Placed x y u k.active (maskOf on) link)) ∧
      (∀ t ∈ on, 5 * 2 ^ 50 ≤ link t → (∀ v ∈ on, v < t → link v < 5 * 2 ^ 50) →
        Faults s k g (.ret f) (mkFault 0x03 0 (some t)) (maskOf on)))

/-- R94 to R97: branches through a table, calls and returns. -/
def Obligations.TablesCallsReturns : Prop := Claims.TableBranch ∧ Claims.CallAndReturn

/-- R98: CONV parks the enabled threads at u; all parked there go on together as soon as every thread that their masks name
has parked there or exited. -/
def Obligations.ConvParksAndReleases : Prop :=
  ∀ (s : State) (k : Issue) (g : Nat) (x : Group) (f : SFmt), x.nthr ≤ 32 → Issued s k g x (.conv f) →
    let on := fun t => decide (t ∈ x.enabledSet f.g k.active 0)
    let operand := if f.subop = 1 then (x.rs f.sa.toNat).toNat else f.imm.toNat
    let names := fun (t v : Nat) => decide (v < x.nthr) && (operand.testBit v || decide (v = t))
    let parked := fun (t : Nat) => on t = true ∨ ∃ m, (x.thread t).st = .conv k.unit m
    let released := ∀ t < x.nthr, ∀ v < x.nthr,
      (if on t then names t v = true else ∃ m, (x.thread t).st = .conv k.unit m ∧ m.getLsbD v = true) →
      parked v ∨ (x.thread v).st = .retired
    Lands s k g (.conv f) (fun y => y = { x with threads := y.threads } ∧ ∀ t < x.nthr,
      (y.thread t).tpc = (if k.active.getLsbD t then k.unit + 1 else (x.thread t).tpc) ∧
      (released → parked t → (y.thread t).st = .runnable) ∧
      (¬ released → on t = true → ∃ m, (y.thread t).st = .conv k.unit m ∧ ∀ v < 32, m.getLsbD v = names t v) ∧
      (¬ released → on t = false → (∃ m, (x.thread t).st = .conv k.unit m) → (y.thread t).st = (x.thread t).st) ∧
      (on t = false → (∀ u m, (x.thread t).st ≠ .conv u m) → (y.thread t).st = (x.thread t).st))

/-- R21, R98 to R100, R105: YIELD defers, EXIT retires and releases the threads parked at a CONV whose masks now name only threads
parked there or exited, SAFE parks under a request while CP is zero; in each the threads that are not enabled go on, and a YIELD that
enables none does nothing else. -/
def Obligations.YieldExitSafe : Prop :=
  ∀ (s : State) (k : Issue) (g : Nat) (x : Group) (f : VFmt),
    let on := fun t => decide (t ∈ x.enabledSet f.g k.active 0)
    let next := fun t => if k.active.getLsbD t then k.unit + 1 else (x.thread t).tpc
    (Issued s k g x (.yield f) → ∃ (t : State) (y : Group), exec (.yield f) s = .next t ∧ t.group? g = some y ∧ t.mem = s.mem ∧
      y.nthr = x.nthr ∧ (∀ q < x.nthr, y.thread q = Thread.mk (next q) (if on q then .deferred else (x.thread q).st)) ∧
      (x.enabledSet f.g k.active 0 = [] → t = s.complete k g x) ∧
      (x.enabledSet f.g k.active 0 ≠ [] → s.isGarnet x = false → t = s.completeAt k g y ∧ y.wait =
        if (∀ q < x.nthr, (y.thread q).st ≠ .runnable) ∧ ∃ q < x.nthr, (y.thread q).st = .deferred then some (.deferral s.clk)
        else x.wait)) ∧
    (Issued s k g x (.exit f) → ∃ (t : State) (y : Group), exec (.exit f) s = .next t ∧ t.group? g = some y ∧ y.nthr = x.nthr ∧
      (∀ q < x.nthr, on q = true → (y.thread q).st = .retired) ∧
      (∀ u : Unit53, x.nthr ≤ 32 →
        let parked := fun v => on v = false ∧ ∃ m, (x.thread v).st = .conv u m
        let released := ∀ q < x.nthr, ∀ m, on q = false → (x.thread q).st = .conv u m → ∀ v < x.nthr, m.getLsbD v = true →
          parked v ∨ on v = true ∨ (x.thread v).st = .retired
        ∀ q < x.nthr, parked q → (released → (y.thread q).st = .runnable) ∧
          (¬ released → (y.thread q).st = (x.thread q).st)) ∧
      ((∃ q < x.nthr, (y.thread q).st ≠ .retired) → t = s.completeAt k g y ∧ ∀ q < x.nthr, (y.thread q).tpc = next q) ∧
      ((∀ q < x.nthr, on q = true ∨ (x.thread q).st = .retired) →
        y.status = .ended ∧ (x.ops = [] → y.resident = false))) ∧
    (Issued s k g x (.safe f) →
      (if (∃ b, s.block? x.block = some b ∧ b.pre.isSome = true) ∧ x.count .cp = 0 then
        Lands s k g (.safe f) (fun y => y = { x with threads := y.threads } ∧ ∀ q < x.nthr,
          y.thread q = Thread.mk (next q) (if on q then .safe k.unit else (x.thread q).st))
      else Completes s k g (.safe f) (fun y => y = x)))

/-- R101 to R104: a barrier parks its active threads until every unexited thread stands at it; then the group arrives, or
waits for its phase, and all go on. The model's own readings and choices in it: log entries 24 and 25. -/
def Obligations.Barriers : Prop :=
  ∀ (s : State) (k : Issue) (g : Nat) (x : Group) (b : Block) (f : SFmt) (i : Instr),
    let n := if f.subop = 1 then (x.rs f.sa.toNat).toNat else f.imm.toNat
    let here := fun t => k.active.getLsbD t = true ∨ (x.thread t).st = .barrier k.unit ∨ (x.thread t).st = .retired
    let d := s.setDef x.launch n
    let member := n < 256 ∧ d.hasGroup x.gidx = true
    let held := (s.setState x.block n).arrived.contains x.gidx
    let quiet := x.count .ld = 0 ∧ x.count .st = 0
    let arrived := (s.setState x.block n).arrived ++ [x.gidx]
    let whole := ∀ m ∈ d.members, m ∈ arrived ∨ s.memberGone b m = true
    let gone := fun (y : Group) => ∀ t < x.nthr, (y.thread t).st = .retired ∨
      y.thread t = Thread.mk (k.unit + 1) .runnable
    i ∈ [Instr.bar f, Instr.bara f, Instr.barw f] → Issued s k g x i → s.block? x.block = some b → b.launch = x.launch →
    x.nthr ≤ 32 →
    (∀ t < x.nthr, k.active.getLsbD t = true → (x.thread t).st ≠ .retired) →
    ((∃ t < x.nthr, ¬ here t) → Lands s k g i (fun y => ∀ t < x.nthr,
      y.thread t = if k.active.getLsbD t then { x.thread t with st := .barrier k.unit } else x.thread t)) ∧
    ((∀ t < x.nthr, here t) → member → i ≠ .barw f → held = false → quiet → ∃ (t : State) (y : Group), exec i s = .next t ∧
      t.group? g = some y ∧ gone y ∧ t.setState x.block n =
        (if whole then SetState.mk ((s.setState x.block n).phase + 1) [] else
          SetState.mk (s.setState x.block n).phase arrived) ∧
      y.wait = if i = .bar f ∧ ¬ whole then some (.phase n) else x.wait) ∧
    ((∀ t < x.nthr, here t) → member → i = .barw f → ∃ (t : State) (y : Group), exec i s = .next t ∧ t.group? g = some y ∧ gone y ∧
      t.setState x.block n = s.setState x.block n ∧ y.wait = if held then some (.phase n) else x.wait) ∧
    ((∀ t < x.nthr, here t) → 256 ≤ n → ∃ (t : State) (y : Group) (r : FaultRec), exec i s = .next t ∧ t.group? g = some y ∧ y.status = .faulted r none ∧
      r.info.cause = 0x13)

/-- R90, R106, R333: NOP does nothing; TRAP and BKPT complete and raise their cause, and the group is Faulted with a
record that names u, the code and the enabled threads. -/
def Obligations.NopTrapBkpt : Prop :=
  ∀ (s : State) (k : Issue) (g : Nat) (x : Group),
    (∀ f, Issued s k g x (.nop f) → Completes s k g (.nop f) (fun y => y = x)) ∧
    (∀ (f : SFmt) (i : Instr) (cause : BitVec 8) (stops : Bool),
      let on := x.enabledSet f.g k.active 0
      (i, cause, stops) ∈ ([(.trap f, 0x10, true),
        (.bkpt f, 0x11, match s.launch? x.launch with | some l => l.bken | none => false)] :
        List (Instr × BitVec 8 × Bool)) →
      Issued s k g x i →
      (on = [] ∨ stops = false → Completes s k g i (fun y => y = x)) ∧
      (on ≠ [] → stops = true → ∃ (t : State) (y : Group) (r : FaultRec), exec i s = .next t ∧ t.mem = s.mem ∧ t.group? g = some y ∧
        y = { x with threads := y.threads, status := .faulted r none } ∧
        (∀ q < x.nthr, y.thread q = { x.thread q with
          tpc := if k.active.getLsbD q then k.unit + 1 else (x.thread q).tpc }) ∧
        r.info.cause = cause ∧ r.info.code = f.imm ∧ r.unit = k.unit.toNat ∧ r.tmask = maskOf on ∧
        r.restart = k.unit.toNat + 1 ∧
        ∀ c, s.ctx? (s.ctxOf x.launch) = some c →
          (t.ctx? (s.ctxOf x.launch)).map (fun d => (d.faults, d.serial)) = some (c.faults ++ [r], c.serial + 1)))

/-- R107, R108: GETSR reads each system register as its thread, or the leader, sees it; SETSR writes `flags`, clears `fbst`,
and raises PRIV on every other. The model's own readings and choices in it: log entry 32. -/
def Obligations.SystemRegisters : Prop :=
  ∀ (s : State) (k : Issue) (g : Nat) (x : Group) (l : Launch) (b : Block) (f : VFmt), s.launch? x.launch = some l →
    s.block? x.block = some b →
    let on := x.enabledSet f.g k.active 0
    let n := if f.isVI then f.imm.toNat else (x.rs f.a.toNat).toNat % 256
    let v := if f.isVI then f.imm.toNat else (x.rs f.a.toNat).toNat
    let bit := fun (c : Bool) (e : Nat) => if c then 2 ^ e else 0
    (Issued s k g x (.getsr f) → ∀ (r : Nat → Nat),
      (n, r) ∈ ([(0x00, fun t => t), (0x01, fun _ => x.gidx), (0x02, fun _ => b.bidx), (0x03, fun _ => x.nthr),
        (0x04, fun _ => l.ngroups), (0x05, fun _ => l.blocks), (0x06, fun _ => x.live.toNat),
        (0x07, fun _ => k.active.toNat), (0x08, fun _ => x.core + 128 * x.part), (0x09, fun _ => s.clk),
        (0x0A, fun _ => x.flags.toNat), (0x0B, fun _ => l.seed.toNat), (0x0C, fun _ => l.lid.toNat),
        (0x0D, fun _ => s.effPrio 8 x.launch),
        (0x0E, fun _ => x.count .ld + 2 ^ 8 * x.count .st + 2 ^ 16 * x.count .cp + 2 ^ 24 * x.count .en),
        (0x0F, fun _ => bit l.garnet 0 + bit l.bken 1 + bit l.coop 2), (0x10, fun _ => bit x.fbst 0)] :
        List (Nat × (Nat → Nat))) →
      Completes s k g (.getsr f) (fun y =>
        if f.g.u then
          (x.enabled f.g (leader k.active) 0 = false → y = x) ∧
          (x.enabled f.g (leader k.active) 0 = true → WritesS x y f.d.toNat (BitVec.ofNat 64 (r (leader k.active))))
        else WritesV x y on f.d.toNat (fun t => BitVec.ofNat 64 (r t)))) ∧
    (Issued s k g x (.getsr f) → 0x10 < n → f.g.u = false → on ≠ [] →
      Faults s k g (.getsr f) (mkFault 0x01 0 none) (maskOf on)) ∧
    (Issued s k g x (.setsr f) →
      (x.enabled f.g (leader k.active) 0 = false → Completes s k g (.setsr f) (fun y => y = x)) ∧
      (x.enabled f.g (leader k.active) 0 = true → f.d = 0x0A →
        Completes s k g (.setsr f) (fun y => y = { x with flags := BitVec.ofNat 6 v })) ∧
      (x.enabled f.g (leader k.active) 0 = true → f.d = 0x10 →
        Completes s k g (.setsr f) (fun y => y = { x with fbst := x.fbst && !v.testBit 0 })) ∧
      (x.enabled f.g (leader k.active) 0 = true → f.d ≠ 0x0A → f.d ≠ 0x10 →
        Faults s k g (.setsr f) (mkFault 0x12 0 none) (maskOf [leader k.active])))

/-! ### Memory instructions -/

/-- R149 to R156: a load on a path of global memory reads each enabled element at its effective address, in memory order,
and changes no memory; LDP zeroes and flags an element with a page that is not resident. -/
def Obligations.GlobalLoads : Prop :=
  ∀ (s : State) (k : Issue) (g : Nat) (x : Group) (f : MFmt),
    let es := x.elems f k.active (x.ea f)
    let s0 := ordered s x f
    let value := fun a => ofLe (s0.pathRead x f a)
    let here := fun a => s0.residentSpan (s.ctxOf x.launch) a (mBytes f)
    (∀ i ∈ [Instr.ld f, .ldc f, .sld f, .ldp f], Issued s k g x i → es = [] → Completes s k g i (fun y => y = x)) ∧
    (∀ i ∈ [Instr.ld f, .ldc f, .sld f], i.wf = true → f.path ≠ 3 → Issued s k g x i →
      Admitted s x f .ld es (s0.elemFailures x f .read none es) →
      ∃ (t : State) (y : Group), exec i s = .next t ∧ t.group? g = some (y.advance k) ∧ t.mem = s.mem ∧ Outstanding x y i .ld (elemMask es) .idle ∧
        y.p = x.p ∧ y.flags = x.flags ∧
        (f.g.u = false → y.s = x.s ∧
          LaneElements x y (es.map (·.1)) f.data.toNat (mOff f) (mWidth f) (fun th => value (x.ea f th))) ∧
        (f.g.u = true → y.v = x.v ∧ (∀ q, q ≠ f.data.toNat → y.rs q = x.rs q) ∧
          elem (y.rs f.data.toNat) (mOff f) (mWidth f) = value (x.ea f (leader k.active)))) ∧
    ((Instr.ldp f).wf = true → Issued s k g x (.ldp f) →
      Admitted s x f .ld es (s0.elemFailures x f .probe none es) →
      ∃ (t : State) (y : Group), exec (.ldp f) s = .next t ∧ t.group? g = some (y.advance k) ∧ t.mem = s.mem ∧
        Outstanding x y (.ldp f) .ld (elemMask es) .idle ∧ y.s = x.s ∧ y.flags = x.flags ∧
        LaneElements x y (es.map (·.1)) f.data.toNat (mOff f) (mWidth f)
          (fun th => if here (x.ea f th) then value (x.ea f th) else 0) ∧
        (∀ e ∈ es, ∀ b < 8, (y.rp e.1 f.fp.toNat).getLsbD b =
          if mOff f ≤ b ∧ b < mOff f + mBytes f then !here e.2 else (x.rp e.1 f.fp.toNat).getLsbD b) ∧
        (∀ t < 32, ∀ q, q ≠ f.fp.toNat ∨ t ∉ es.map (·.1) → y.rp t q = x.rp t q))

/-- R149, R153, R157: a load through .sp joins the accesses at its lines and goes on; one element of a full line on which
nothing waits is read at once. -/
def Obligations.ScratchpadLoads : Prop :=
  ∀ (s : State) (k : Issue) (g : Nat) (x : Group) (f : MFmt) (i : Instr) (ea : Nat → Nat),
    (i, ea) ∈ ([(.ld f, x.ea f), (.sld f, x.ea f), (.gath f, x.gatherEa f)] : List (Instr × (Nat → Nat))) →
    let es := x.elems f k.active ea
    i.wf = true → f.path = 3 → Issued s k g x i → Admitted s x f .ld es ((ordered s x f).elemFailures x f .read none es) →
    ∃ (t : State) (z : Group), exec i s = .next t ∧ t.group? g = some z ∧ t.mem = s.mem ∧ z.threads = (x.advance k).threads ∧
      z.nextOp = x.nextOp + 1 ∧ z.ops.length = x.ops.length + 1 ∧
      ∀ th a, es = [(th, a)] → f.g.u = false → f.take = false → x.ops = [] → a % 128 + mBytes f ≤ 128 →
        (let q := spDecode x.core a
         s.isFull q.1 (q.2 / 128) = true ∧ s.waitersOn q.1 (q.2 / 128) = []) →
        z.elemV th f.data.toNat (mOff f) (mWidth f) = ofLe (s.spRead x.core a (mBytes f))

/-- R150, R155: a store on a path of global memory changes only the bytes of its elements; a single element inside one page
reads back as stored. -/
def Obligations.GlobalStores : Prop :=
  ∀ (s : State) (k : Issue) (g : Nat) (x : Group) (f : MFmt), ∀ i ∈ [Instr.st f, .sst f],
    let es := x.elems f k.active (x.ea f)
    i.wf = true → Issued s k g x i →
    (es = [] → Completes s k g i (fun y => y = x)) ∧
    (f.path ≠ 3 → let s0 := ordered s x f
      Admitted s x f .st es (s0.elemFailures x f .write (some false) es) →
      ∃ (t : State) (y : Group), exec i s = .next t ∧ t.group? g = some (y.advance k) ∧ Outstanding x y i .st (elemMask es) .idle ∧
        SameRegs x y ∧ (∀ c off, t.spByte c off = s.spByte c off) ∧
        (∀ pa, pa ∉ storedBy (s0.complete k g ((x.issueOp i .st (elemMask es) [] [] [] .idle).aim [])) x f es →
          t.byte pa = s.byte pa) ∧
        (∀ th a pa, es = [(th, a)] → a % 65536 + mBytes f ≤ 65536 → s0.pa? (s.ctxOf x.launch) a = some pa →
          t.bytes pa (mBytes f) = x.dataBytes f th))

/-- R150, R154, R155, R158: a store through .sp, ST, SST or a plain SCAT, changes only the scratchpad bytes of its elements,
and no memory; where elements meet, the highest thread's bytes stay. -/
def Obligations.ScratchpadStores : Prop :=
  ∀ (s : State) (k : Issue) (g : Nat) (x : Group) (f : MFmt) (i : Instr) (ea : Nat → Nat),
    (i, ea) ∈ ([(.st f, x.ea f), (.sst f, x.ea f), (.scat f, x.gatherEa f)] : List (Instr × (Nat → Nat))) →
    let es := x.elems f k.active ea
    let at_ := fun (a j : Nat) => spDecode x.core (a + j)
    i.wf = true → f.path = 3 → (i = .scat f → f.subop = 15) → Issued s k g x i →
    Admitted s x f .st es ((ordered s x f).elemFailures x f .write (some false) es) →
    ∃ (t : State) (z : Group), exec i s = .next t ∧ t.group? g = some z ∧ t.mem = s.mem ∧ z.threads = (x.advance k).threads ∧
      z.nextOp = x.nextOp + 1 ∧ z.ops.length = x.ops.length + 1 ∧ (f.subop ≠ 1 → SameRegs x z) ∧
      (∀ c off, (∀ e ∈ es, ∀ j < mBytes f, at_ e.2 j ≠ (c, off)) → t.spByte c off = s.spByte c off) ∧
      (∀ e ∈ es, ∀ j < mBytes f, (∀ e2 ∈ es, e.1 < e2.1 → ∀ j2 < mBytes f, at_ e2.2 j2 ≠ at_ e.2 j) →
        t.spByte (at_ e.2 j).1 (at_ e.2 j).2 = (x.dataBytes f e.1).getD j 0)

/-- R157 to R162, R261, R262, R277: a gather, a scatter or an atomic leaves issue with its lanes, in ascending thread order, and
changes no memory and no destination yet; through global memory the lanes of the first two, one for each line that an element touches,
enter the core's collector, where those that no closing batch has sent stand in the open one. An operation's number is the group's
next one, which no other of its has. The two halves of `.addbf2` go in the model's own order, bits 15:0 first (log entry 76). -/
def Sys2Proof.Claims.GatherScatterAtomicIssue : Prop :=
  ∀ (s : State) (k : Issue) (g : Nat) (x : Group) (f : MFmt),
    let n := mBytes f
    let idx := x.elems f k.active (x.gatherEa f)
    let down := fun (ea : Nat → Nat) => x.elems f k.active (fun t => ea t / n * n)
    let v := fun (t j : Nat) => x.elemV t (f.data.toNat + j) (mOff f) (mWidth f)
    let two := fun (l : List (Nat × Nat)) (w w2 : Nat → Nat) => l.flatMap (fun e =>
      if f.subop = 8 then [Lane.mk e.1 e.2 (w e.1) (w2 e.1) (some 0) (0, n), Lane.mk e.1 e.2 (w e.1) (w2 e.1) (some 1) (0, n)]
      else [Lane.mk e.1 e.2 (w e.1) (w2 e.1) none (0, n)])
    let parts := fun (l : List (Nat × Nat)) (w : Nat → Nat) => l.flatMap (fun e =>
      (linePieces e.2 n).map (fun p => Lane.mk e.1 p.1 (w e.1) 0 none p.2))
    let goes := fun (i : Instr) (P : State → Group → Prop) => ∃ (t : State) (y : Group), exec i s = .next t ∧
      t.group? g = some (y.advance k) ∧ t.mem = s.mem ∧ SameRegs x y ∧ (∀ c off, t.spByte c off = s.spByte c off) ∧ P t y
    let collects := fun (i : Instr) (c : Cls) (es : List (Nat × Nat)) (lanes : List Lane) => goes i (fun t y =>
      y.nextOp = x.nextOp + 1 ∧ y.ops.length = x.ops.length + 1 ∧ ((∀ o ∈ x.ops, o.id ≠ x.nextOp) →
        ∃ (q : List (Nat × Lane)) (l : List Lane), q.map (·.2) ++ l = lanes ∧ Outstanding x y i c (elemMask es) (.gather l q) ∧
          (l ≠ [] → ∃ b, (t.core x.core).batch = some b ∧ b.ops.getLast?.map (·.1) = some (OpRef.mk g x.nextOp))))
    let left := fun (i : Instr) (c : Cls) (es : List (Nat × Nat)) (w : Work) =>
      goes i (fun _ y => Outstanding x y i c (elemMask es) w)
    let s0 := ordered s x f
    ((Instr.gath f).wf = true → f.path ≠ 3 → Issued s k g x (.gath f) →
      Admitted s x f .ld idx (s.elemFailures x f .read none idx) →
      collects (.gath f) .ld idx (parts idx (fun _ => 0))) ∧
    ((Instr.scat f).wf = true → f.path ≠ 3 → f.subop = 15 → Issued s k g x (.scat f) →
      Admitted s x f .st idx (s.elemFailures x f .write (some false) idx) →
      collects (.scat f) .st idx (parts idx (fun t => v t 0))) ∧
    ((Instr.scat f).wf = true → f.subop ≠ 15 → Issued s k g x (.scat f) →
      Admitted s x f .st (down (x.gatherEa f)) (s.rmwFailures x f (down (x.gatherEa f))) →
      let lanes := two (down (x.gatherEa f)) (fun t => v t 0) (fun _ => 0)
      (f.path = 3 → left (.scat f) .st (down (x.gatherEa f)) (.atoms lanes)) ∧
      (f.path ≠ 3 → collects (.scat f) .st (down (x.gatherEa f)) lanes)) ∧
    ((Instr.atom f).wf = true → Issued s k g x (.atom f) →
      let es := down (x.ea f)
      let c : Cls := if f.ext = 1 then .ld else .st
      Admitted s x f c es (s0.rmwFailures x f es) →
      left (.atom f) c es (.atoms (two es (fun t => v t 0) (fun t => if f.subop = 7 then v t 1 else 0)))) ∧
    ((Instr.amaxr f).wf = true → Issued s k g x (.amaxr f) →
      let es := down (x.ea f)
      Admitted s x f .ld es (s0.rmwFailures x f es) →
      left (.amaxr f) .ld es (.atoms (es.map (fun e => Lane.mk e.1 e.2 0 0 none (0, n)))))

/-- R156, R157: GATHP zeroes and flags the elements whose pages are not resident, and gathers the others. -/
def Sys2Proof.Claims.ProbingGather : Prop :=
  ∀ (s : State) (k : Issue) (g : Nat) (x : Group) (f : MFmt),
    let es := x.elems f k.active (x.gatherEa f)
    let here := fun (e : Nat × Nat) => s.residentSpan (s.ctxOf x.launch) e.2 (mBytes f)
    (Instr.gathp f).wf = true → Issued s k g x (.gathp f) →
    Admitted s x f .ld es (s.elemFailures x f .probe none es) →
    ∃ (t : State) (y : Group), exec (.gathp f) s = .next t ∧ t.group? g = some (y.advance k) ∧ t.mem = s.mem ∧ y.s = x.s ∧
      y.nextOp = x.nextOp + 1 ∧ y.ops.length = x.ops.length + 1 ∧
      (es.filter here = [] → Outstanding x y (.gathp f) .ld (elemMask es) .idle) ∧
      (es.filter here ≠ [] → (∀ o ∈ x.ops, o.id ≠ x.nextOp) → ∃ (q : List (Nat × Lane)) (l : List Lane),
        q.map (·.2) ++ l = (es.filter here).flatMap (fun e =>
          (linePieces e.2 (mBytes f)).map (fun p => Lane.mk e.1 p.1 0 0 none p.2)) ∧
        Outstanding x y (.gathp f) .ld (elemMask es) (.gather l q)) ∧
      LaneElements x y ((es.filter (fun e => !here e)).map (·.1)) f.data.toNat (mOff f) (mWidth f) (fun _ => 0) ∧
      (∀ e ∈ es, ∀ b < 8, (y.rp e.1 f.fp.toNat).getLsbD b =
        if mOff f ≤ b ∧ b < mOff f + mBytes f then !here e else (x.rp e.1 f.fp.toNat).getLsbD b)

/-- R149, R151, R336: a memory instruction faults on the first failing check in the order of R151's table, and for it in the lowest
thread whose element fails it; through .sp where an address leads to no SCRATCH bank of the block. It has no effect, in any
thread. -/
def Sys2Proof.Claims.FailingChecks : Prop :=
  ∀ (s : State) (k : Issue) (g : Nat) (x : Group) (f : MFmt) (i : Instr) (ea : Nat → Nat) (cls : Cls) (acc : Access)
    (stamped : Option Bool),
    let n := mBytes f
    let down := fun (ea : Nat → Nat) (t : Nat) => ea t / n * n
    (i, ea, cls, acc, stamped) ∈ ([(.ld f, x.ea f, .ld, .read, none), (.ldc f, x.ea f, .ld, .read, none),
      (.sld f, x.ea f, .ld, .read, none), (.ldp f, x.ea f, .ld, .probe, none), (.gath f, x.gatherEa f, .ld, .read, none),
      (.gathp f, x.gatherEa f, .ld, .probe, none), (.st f, x.ea f, .st, .write, some false),
      (.sst f, x.ea f, .st, .write, some false),
      (.scat f, if f.subop = 15 then x.gatherEa f else down (x.gatherEa f), .st, .write, some false),
      (.atom f, down (x.ea f), if f.ext = 1 then .ld else .st, .write, some false),
      (.amaxr f, down (x.ea f), .ld, .write, some false), (.stst f, x.ea f, .st, .write, some true),
      (.ldas f, x.ea f, .ld, .read, some true)] : List (Instr × (Nat → Nat) × Cls × Access × Option Bool)) →
    let es := x.elems f k.active ea
    let s0 := if i = .stst f ∨ i = .ldas f then s else ordered s x f
    let fails := fun (o : Nat) (e : Nat × Nat) => CheckFails s0 (s.ctxOf x.launch) n acc stamped o e.2
    let off := fun (e : Nat × Nat) => ∃ j < n, s0.spOk x.core x.block (e.2 + j) = false
    i.wf = true → Issued s k g x i → x.count cls < 63 → (f.order = 4 → x.count .ld = 0 ∧ x.count .st = 0) →
    ∀ (l1 : List (Nat × Nat)) (e : Nat × Nat) (l2 : List (Nat × Nat)), es = l1 ++ e :: l2 →
    (f.path ≠ 3 → ∀ (o : Nat) (cause : BitVec 8),
      (o, cause) ∈ ([(1, 0x09), (3, 0x08), (4, 0x09), (5, 0x0A), (6, 0x0B)] : List (Nat × BitVec 8)) →
      fails o e → (∀ q ∈ l1, ¬ fails o q) → (∀ o' < o, ∀ q ∈ es, ¬ fails o' q) →
      ChecksOut s k g x i cause e.1 (elemMask es) (fun r => r.write = (acc == .write) ∧
        if o = 1 then r.addr = e.2 else ∃ p ∈ pagePieces e.2 n, r.addr = p.1)) ∧
    (f.path = 3 → s.switchingFor x n es = none → off e → (∀ q ∈ l1, ¬ off q) →
      ChecksOut s k g x i 0x0E e.1 (elemMask es) (fun r => r.write = (acc == .write) ∧ r.addr = e.2))

/-- R149, R151, R156 to R162, R261: gathers, scatters and atomics issue; where a memory instruction faults. -/
def Obligations.GatheredIssue : Prop := Claims.GatherScatterAtomicIssue ∧ Claims.ProbingGather ∧ Claims.FailingChecks

/-- R163 to R165, R385: FENCE waits for every older load and store, PFENCE for the threads' older stores on its first path, WAIT
for its four limits; then they go on, FENCE with nothing older left on .lay where it acquires from other cores, or in every core of
its scope with `.sc`, PFENCE with every write that its core sees on the first path visible on the second, and none of them changes
memory; a WAIT that passes over
failed operations raises MACHINE_CHECK with the first one's address and clears their marks (R385). The model's own readings and
choices in it: log entries 8, 31 and 75. -/
def Obligations.FencesAndWait : Prop :=
  ∀ (s : State) (k : Issue) (g : Nat) (x : Group),
    let stands := fun (i : Instr) (w : Wait) => ∃ t : State, exec i s = .next t ∧ t.mem = s.mem ∧
      t.group? g = some { x with wait := some w }
    (∀ f : MFmt, Issued s k g x (.fence f) →
      (x.enabledSet f.g k.active 0 = [] ∨ (x.count .ld = 0 ∧ x.count .st = 0) →
        ∃ s1 : State, exec (.fence f) s = .next (s1.complete k g x) ∧ s1 = { s with cores := s1.cores, dies := s1.dies } ∧
          (x.enabledSet f.g k.active 0 = [] → s1 = s) ∧
          (x.enabledSet f.g k.active 0 ≠ [] → f.order = 1 ∨ f.order = 3 ∨ f.order = 4 →
            (2 ≤ f.scope.toNat → (s1.core x.core).lay = []) ∧ (f.scope = 5 → ∀ d, (s1.die d).l2 = []) ∧
            (f.order = 4 → ∀ c ∈ s.cores.map (·.1), (c = x.core ∨ (f.scope = 2 ∧ c / 8 = x.core / 8) ∨
              (f.scope = 3 ∧ c / 32 = x.core / 32) ∨ 4 ≤ f.scope.toNat) → (s1.core c).lay = []))) ∧
      (x.enabledSet f.g k.active 0 ≠ [] → x.count .ld ≠ 0 ∨ x.count .st ≠ 0 → stands (.fence f) .memory)) ∧
    (∀ f : MFmt, Issued s k g x (.pfence f) →
      let m := maskOf (x.enabledSet f.g k.active 0)
      let older := ∃ o ∈ x.ops, o.cls = .st ∧ o.mask &&& m ≠ 0 ∧ (memFmt? o.instr).map (·.path) = some f.path
      (m = 0 → Completes s k g (.pfence f) (fun y => y = x)) ∧
      (m ≠ 0 → older → stands (.pfence f) (.stores m f.path)) ∧
      (m ≠ 0 → ¬ older → ∃ s1 : State, exec (.pfence f) s = .next (s1.complete k g x) ∧
        s1 = { s with versions := s1.versions } ∧
        (f.path ≠ 3 → f.ext ≠ 3 → ∀ pa, ∀ v ∈ s.writesTo pa, s.sees x.core f.path.toNat none pa v = true →
          ∃ w ∈ s1.writesTo pa, w = { v with seen := w.seen } ∧ s1.sees x.core f.ext.toNat none pa w = true))) ∧
    (∀ f : SFmt, Issued s k g x (.wait f) →
      let lim := fun (j : Nat) => f.imm.toNat / 64 ^ j % 64
      let passes := x.count .ld ≤ lim 0 ∧ x.count .st ≤ lim 1 ∧ x.count .cp ≤ lim 2 ∧ x.count .en ≤ lim 3
      let past := fun (p : Cls × Nat) => (p.1 = .ld ∧ lim 0 < 63) ∨ (p.1 = .st ∧ lim 1 < 63) ∨ (p.1 = .cp ∧ lim 2 < 63) ∨
        (p.1 = .en ∧ lim 3 < 63)
      (passes → (∀ p ∈ x.failed, ¬ past p) → Completes s k g (.wait f) (fun y => y = x)) ∧
      (¬ passes → stands (.wait f) (.counts (lim 0) (lim 1) (lim 2) (lim 3))) ∧
      (passes → ∀ p l1 l2, x.failed = l1 ++ p :: l2 → (∀ q ∈ l1, ¬ past q) → past p →
        ∃ (t : State) (y : Group) (r : FaultRec), exec (.wait f) s = .next t ∧ t.mem = s.mem ∧ t.group? g = some y ∧
          y.status = .faulted r none ∧ r.info.cause = 0x0D ∧ r.info.addr = p.2 ∧ ∀ q, q ∈ y.failed ↔ q ∈ x.failed ∧ ¬ past q))

/-! ### FIFO banks, maps and bank modes -/

/-- R166, R258, R259, R384: where no other producer waits, QPUSH appends the records of its threads in ascending order; QPOP gives
the oldest records, of sound words, to its threads in ascending order and takes them away, and faults with MACHINE_CHECK where a word
of them cannot be corrected; on a bank that is no FIFO bank both fault with SP_MAP; under TRY each thread is served or
skipped, and flagged; without TRY, where slots or records are too few, the threads that they allow are served and the
instruction waits with the rest, QPUSH in the line of producers (log entry 87). The record of either fault names the lowest enabled
thread: for a word that belongs to another thread's record the model's own reading (log entry 37). -/
def Obligations.FifoPushPop : Prop :=
  ∀ (s : State) (k : Issue) (g : Nat) (x : Group) (f : EFmt),
    let on := x.enabledSet f.g k.active 0
    let n := f.imm.toNat % 32
    let b := (s.core x.core).bank n
    let vx := f.vx.toNat
    let recs := fun (l : List Nat) => l.map (fun t => some ((List.range 4).flatMap (fun j => leBytes 8 (x.rv t (vx + j)).toNat)))
    let whole := (b.slots.takeWhile (·.isSome)).length
    let room := 512 - b.slots.length
    let me := Producer.group g
    let ahead := b.line.filter (fun p => p != me)
    let queued := if me ∈ b.line then b.line else b.line ++ [me]
    let sound := ∀ j < min on.length b.slots.length, s.badRecord x.core n j = false
    let bankIs := fun (t : State) (c : Bank) => (t.core x.core).bank n = c ∧ t.mem = s.mem
    let popped := fun (m : Nat) => if m = 0 then b else { b with slots := b.slots.drop m, head := (b.head + m) % 512 }
    let given := fun (y : Group) (m : Nat) =>
      (∀ j < m, ∀ q < 4, (y.rv (on.getD j 0) (vx + q)).toNat =
        ofLe ((((b.slots.getD j none).getD []).drop (8 * q)).take 8) % 2 ^ 64) ∧
      (∀ t < 32, ∀ q, (q < vx ∨ vx + 4 ≤ q ∨ t ∉ on.take m) → y.rv t q = x.rv t q)
    (∀ i ∈ [Instr.qpush f, .qpop f], Issued s k g x i → on = [] → Completes s k g i (fun y => y = x)) ∧
    (∀ i ∈ [Instr.qpush f, .qpop f], Issued s k g x i → on ≠ [] → b.switching = false → b.mode ≠ .fifo →
      ChecksOut s k g x i 0x0E (on.headD 0) (maskOf on) (fun r => r.write = decide (i = .qpush f))) ∧
    (Issued s k g x (.qpop f) → on ≠ [] → b.switching = false → b.mode = .fifo → ¬ sound →
      ChecksOut s k g x (.qpop f) 0x0D (on.headD 0) (maskOf on) (fun _ => True)) ∧
    (b.mode = .fifo → b.switching = false → b.line.filter (s.stillWaits x.core n) = [] →
    (Issued s k g x (.qpush f) → f.ext = 0 → on ≠ [] → b.slots.length + on.length ≤ 512 → ∃ t : State,
      exec (.qpush f) s = .next t ∧ bankIs t { b with slots := b.slots ++ recs on, line := ahead } ∧
      t.group? g = some ({ x with cont := none, wait := none }.advance k)) ∧
    (Issued s k g x (.qpush f) → f.ext = 0 → on ≠ [] → 512 < b.slots.length + on.length → ∃ t : State,
      exec (.qpush f) s = .next t ∧ bankIs t { b with slots := b.slots ++ recs (on.take room), line := queued } ∧
      t.group? g = some { x with cont := some (.fifo k (on.drop room)), wait := some .serving }) ∧
    (Issued s k g x (.qpop f) → f.ext = 0 → on ≠ [] → sound → on.length ≤ whole → ∃ (t : State) (y : Group),
      exec (.qpop f) s = .next t ∧ bankIs t { popped on.length with line := ahead } ∧ t.group? g = some (y.advance k) ∧
      given y on.length) ∧
    (Issued s k g x (.qpop f) → f.ext = 0 → on ≠ [] → sound → whole < on.length → ∃ (t : State) (y : Group),
      exec (.qpop f) s = .next t ∧ bankIs t (popped whole) ∧ given y whole ∧
      t.group? g = some { y with cont := some (.fifo k (on.drop whole)), wait := some .serving }) ∧
    (Issued s k g x (.qpush f) → f.ext = 1 → on ≠ [] → f.pf ≠ 15 →
      let m := min on.length room
      ∃ (t : State) (y : Group), exec (.qpush f) s = .next t ∧ bankIs t { b with slots := b.slots ++ recs (on.take m) } ∧
      t.group? g = some (y.advance k) ∧ y.v = x.v ∧
      ∀ j < on.length, y.rp (on.getD j 0) f.pf.toNat = if j < m then 0xFF else 0) ∧
    (Issued s k g x (.qpop f) → f.ext = 1 → on ≠ [] → f.pf ≠ 15 → sound →
      let m := min on.length whole
      ∃ (t : State) (y : Group), exec (.qpop f) s = .next t ∧ bankIs t (popped m) ∧ t.group? g = some (y.advance k) ∧ given y m ∧
      ∀ j < on.length, y.rp (on.getD j 0) f.pf.toNat = if j < m then 0xFF else 0))

/-- R167 to R169, R257, R385: SPMAP maps its region with every line empty, SPWB carries the dirty bytes of its slot to global memory,
line after line, and leaves none dirty; where a line meets an error that cannot be corrected both stop there, marked failed, and the
slot stays as it was; SPEMPTY empties the lines of its threads, BANKCFG begins the switch of its bank. -/
def Obligations.MapsAndBanks : Prop :=
  ∀ (s : State) (k : Issue) (g : Nat) (x : Group),
    let c := x.core
    let lead := maskOf [leader k.active]
    (∀ f : EFmt, Issued s k g x (.spmap f) →
      let slot := f.imm.toNat % 16
      let a := (x.rs f.sa.toNat).toNat
      let len := (x.rs f.sc.toNat).toNat
      let m := MapSlot.mk (spDecode c a).2 (x.rs f.sb.toNat).toNat len x.launch
      s.switchingOf (regionBanks c ((m.off, len) :: s.slotRegion c slot)) = none →
      Uniform x f.g k.active .cp (s.mapFailures x slot a (x.rs f.sb.toNat).toNat len ++ s.slotFailures c slot) →
      ∃ (t : State) (y : Group), exec (.spmap f) s = .next t ∧ t.group? g = some (y.advance k) ∧ SameRegs x y ∧
        Outstanding x y (.spmap f) .cp lead .idle ∧ y.ops.getLast?.map (·.failed) = some (s.badSlots c [slot]) ∧
        ((s.unmapSlots c [slot]).2 = true → Sparse.get none (t.core c).maps slot = (if len = 0 then none else some m) ∧
          (len ≠ 0 → ∀ l ∈ m.lines, t.isFull c l = false ∧ Sparse.get 0 (t.core c).mask l = 0)) ∧
        ((s.unmapSlots c [slot]).2 = false → (t.core c).maps = (s.core c).maps)) ∧
    (∀ f : EFmt, Issued s k g x (.spwb f) →
      let slot := f.imm.toNat % 16
      s.switchingOf (regionBanks c (s.slotRegion c slot)) = none →
      Uniform x f.g k.active .cp (s.slotFailures c slot) →
      ∃ (t : State) (y : Group), exec (.spwb f) s = .next t ∧ t.group? g = some (y.advance k) ∧ SameRegs x y ∧
        Outstanding x y (.spwb f) .cp lead .idle ∧ y.ops.getLast?.map (·.failed) = some (s.badSlots c [slot]) ∧
        (t.core c).maps = (s.core c).maps ∧ (Sparse.get none (s.core c).maps slot = none → t.mem = s.mem) ∧
        ∀ m, Sparse.get none (s.core c).maps slot = some m → (s.writeLines c m m.lines).2 = true →
          let v := s.ctxOf m.launch
          let dirty := fun (l : Nat) => ((List.range 128).filter (fun i => (Sparse.get 0 (s.core c).mask l).getLsbD i)).map
            (fun i => (m.va + (l * 128 - m.off) + i, s.spByte c (l * 128 + i)))
          (∀ l ∈ m.lines, Sparse.get 0 (t.core c).mask l = 0) ∧
          t.mem = ((m.lines.filter (fun l => Sparse.get 0 (s.core c).mask l != 0)).foldl (fun u l =>
            (written u v (dirty l)).healAll v ((dirty l).map (fun p => (p.1, 1)))) s).mem ∧
          ∀ a b pa, m.lines.flatMap dirty = [(a, b)] → a < 2 ^ 64 → s.pa? v a = some pa →
            t.byte pa = b ∧ ∀ q, q ≠ pa → t.byte q = s.byte q) ∧
    (∀ f : MFmt, Issued s k g x (.spempty f) →
      let es := (x.enabledSet f.g k.active 0).map (fun t => (t, x.ea f t))
      Admitted s x f .st es (es.flatMap (fun e => s.spFailures c x.block e.2 1 (some e.1))) →
      ∃ (t : State) (y : Group), exec (.spempty f) s = .next t ∧ t.group? g = some (y.advance k) ∧ t.mem = s.mem ∧ SameRegs x y ∧
        Outstanding x y (.spempty f) .st (elemMask es) .idle ∧
        (∀ e ∈ es, let q := spDecode c e.2; t.isFull q.1 (q.2 / 128) = false ∧
          Sparse.get 0 (t.core q.1).mask (q.2 / 128) = 0) ∧
        ∀ cc off, t.spByte cc off = s.spByte cc off) ∧
    (∀ f : EFmt, Issued s k g x (.bankcfg f) →
      let b := (s.core c).bank (f.imm.toNat % 32)
      b.switching = false → (b.holder = none ∨ b.holder = some x.block) →
      Uniform x f.g k.active .en (((s.core c).slotsOf (f.imm.toNat % 32)).flatMap (fun j => s.slotFailures c j)) →
      ∃ (t : State) (y : Group), exec (.bankcfg f) s = .next t ∧ t.group? g = some (y.advance k) ∧ t.mem = s.mem ∧ SameRegs x y ∧
        Outstanding x y (.bankcfg f) .en lead (.bank (f.imm.toNat % 32) (f.imm.toNat / 32 % 4)) ∧
        (t.core c).bank (f.imm.toNat % 32) = { b with switching := true })

/-- R152, R385: the oldest operation of its class, its effect made, leaves its counter; one that failed leaves its mark, and
one that answers a scalar writes it then. The model's own readings and choices in it: log entry 68. -/
def Obligations.OperationRetires : Prop :=
  ∀ (s : State) (g n : Nat) (x : Group) (o : Op), s.opAt? (OpRef.mk g n) = some (x, o) →
    x.ops.find? (fun p => p.cls == o.cls) = some o → o.id = n → x.status ≠ .ended →
    let leaves := fun (y : Group) => y.ops = x.ops.filter (fun p => p.id != n) ∧ y.v = x.v ∧ y.p = x.p ∧
      y.threads = x.threads ∧ (∀ a, o.failed = some a → ∃ b, (o.cls, b) ∈ y.failed) ∧ (o.failed = none → y.failed = x.failed)
    (o.done = true → (∀ w, o.work ≠ .result w) → ∃ (t : State) (y : Group), exec (.operationRetire g n) s = .next t ∧
      t.mem = s.mem ∧ t.group? g = some y ∧ leaves y ∧ y.s = x.s) ∧
    (∀ w (f : EFmt), o.work = .result w → enFmt? o.instr = some f → ∃ (t : State) (y : Group),
      exec (.operationRetire g n) s = .next t ∧ t.mem = s.mem ∧ t.group? g = some y ∧ leaves y ∧ y.rs f.sd.toNat = w ∧
      ∀ q, q ≠ f.sd.toNat → y.rs q = x.rs q) ∧
    (o.done = false → (∀ w, o.work ≠ .result w) →
      exec (.operationRetire g n) s = .refused (.notEnabled "OPERATION_RETIRE"))

/-- R166, R167, R169, R249, R256, R257, R334, R385: the last waiting thread of a QPUSH or QPOP is served, or the group is Faulted and
keeps the threads that are left (log entry 95); a first touch, and no step without one, fills a mapped line from memory under its written
mask, and a load that waits on a page where the fill fails takes the fault (log entry 105); a drained bank switches, empty, or keeps
its mode where its write-back meets an error that cannot be corrected. -/
def Obligations.CoreSteps : Prop :=
  ∀ (s : State) (g : Nat) (x : Group), s.group? g = some x →
    (∀ (k : Issue) (f : EFmt) (th : Nat) (r : List Byte),
      let n := f.imm.toNat % 32
      let b := (s.core x.core).bank n
      x.cont = some (.fifo k [th]) → x.status = .ready →
      (∀ i, k.instr = i → i = .qpush f ∨ i = .qpop f → b.mode ≠ .fifo ∨ (i = .qpop f ∧ b.slots ≠ [] ∧ s.badRecord x.core n 0 = true) →
        ∃ (t : State) (r : FaultRec), exec (.fifoThreadServed g) s = .next t ∧ t.mem = s.mem ∧
          t.group? g = some { x with status := .faulted r none } ∧ (t.core x.core).bank n = b ∧
          r.info.cause = if b.mode ≠ .fifo then 0x0E else 0x0D) ∧
      (k.instr = .qpush f → b.mode = .fifo → s.mayPush x.core n (.group g) = true → ∃ t : State, exec (.fifoThreadServed g) s = .next t ∧ t.mem = s.mem ∧
        (t.core x.core).bank n =
          { b with slots := b.slots ++ [some (x.record f.vx.toNat th)], line := b.line.filter (fun p => p != .group g) } ∧
        t.group? g = some ({ x with cont := none, wait := none }.advance k)) ∧
      (k.instr = .qpop f → b.mode = .fifo → b.slots.head? = some (some r) → s.badRecord x.core n 0 = false → ∃ (t : State) (y : Group),
        exec (.fifoThreadServed g) s = .next t ∧ t.mem = s.mem ∧ t.group? g = some (y.advance k) ∧ y.cont = none ∧
        y.wait = none ∧ (t.core x.core).bank n =
          { b with slots := b.slots.tail, head := (b.head + 1) % 512, line := b.line.filter (fun p => p != .group g) } ∧
        (th < 32 → ∀ q < 4, (y.rv th (f.vx.toNat + q)).toNat = ofLe ((r.drop (8 * q)).take 8) % 2 ^ 64))) ∧
    (∀ (c line j : Nat) (m : MapSlot), (s.core c).mapOf line = some (j, m) → s.isFull c line = false →
      let va := m.va + (line * 128 - m.off)
      let fails := fun (v : State) => v.spanFailures (s.ctxOf m.launch) va 128 .read none none
      let fills := fun (v : State) => ∃ t : State, exec (.mapFill c line) s = .next t ∧ t.mem = s.mem ∧
        (∀ i < 128, t.spByte c (line * 128 + i) =
          if (Sparse.get 0 (s.core c).mask line).getLsbD i then s.spByte c (line * 128 + i)
          else (v.vread (s.ctxOf m.launch) va 128).getD i 0) ∧
        ∀ c2 off, (c2 ≠ c ∨ off / 128 ≠ line) → t.spByte c2 off = s.spByte c2 off
      (∀ r rest, s.waitersOn c line = r :: rest → fails (s.as r.group r.op) = [] → fills (s.as r.group r.op)) ∧
      (∀ r y o info, s.waitersOn c line = [r] → s.opAt? r = some (y, o) → y.status = .ready →
        (∃ e ∈ fails (s.as r.group r.op), e.order ≠ 8) → firstFailure (fails (s.as r.group r.op)) = some info →
        ∃ (t : State) (rec_ : FaultRec), exec (.mapFill c line) s = .next t ∧ t.mem = s.mem ∧
          t.group? r.group = some { y with status := .faulted rec_ none } ∧ rec_.info.cause = info.cause) ∧
      (s.waitersOn c line = [] → s.flightOn c line ≠ none ∨ s.contextOn c line ≠ none → fails s = [] → fills s) ∧
      (s.waitersOn c line = [] → s.flightOn c line = none → s.contextOn c line = none →
        exec (.mapFill c line) s = .refused (.notEnabled "MAP_FILL"))) ∧
    (∀ (n bank mode : Nat) (o : Op), x.op? n = some o → o.work = .bank bank mode → s.bankBusy x.core bank = false →
      (∀ a, (s.as g n).badSlots x.core ((s.core x.core).slotsOf bank) = some a → ∃ (t : State), exec (.bankSwitch g n) s = .next t ∧
        (t.core x.core).bank bank = { (s.core x.core).bank bank with switching := false } ∧
        ((t.group? g).bind (fun y => (y.op? n).map (fun d => (d.done, d.failed)))) = some (true, some a)) ∧
      ((s.as g n).badSlots x.core ((s.core x.core).slotsOf bank) = none → ∃ (t : State), exec (.bankSwitch g n) s = .next t ∧
        (t.core x.core).bank bank = Bank.fresh (modeOf mode) (if modeOf mode = .cache then none else some x.block) ∧
        (∀ off, off / 16384 = bank → t.spByte x.core off = 0) ∧ (∀ l, l / 128 = bank → t.isFull x.core l = false) ∧
        ((t.group? g).bind (fun y => (y.op? n).map (·.done))) = some true))

/-- R261, R262, R284, R384: a batch closes 32 clocks after it opened or at its 128th line, and the lanes that entered it are sent; the
reply for one line fills a gather's elements on it, or stores a scatter's; an atomic's next element is read and written in one step,
as one access that nothing else comes between. Which line's reply returns next is a free value (log entry 99). Lanes whose bytes are lost
end their operation failed (log entry 77). -/
def Sys2Proof.Claims.GatherAndAtomicSteps : Prop :=
  ∀ (s : State) (g n : Nat) (x : Group) (o : Op) (f : MFmt), s.opAt? (OpRef.mk g n) = some (x, o) →
    memFmt? o.instr = some f →
    let r := OpRef.mk g n
    let v := s.as g n
    let c := s.ctxOf x.launch
    let m := mBytes f
    let failed := fun (i : Instr) (a : Nat) => ∃ (t : State), exec i s = .next t ∧ t.mem = s.mem ∧
      (t.opAt? r).map (·.2) = some { o with work := .idle, done := true, failed := some a }
    let leaves := fun (y : Group) (l : List Lane) (rest : List (Nat × Lane)) =>
      (y.op? n).map (fun d => (d.work, d.done)) = some (if l = [] ∧ rest = [] then (.idle, true) else (.gather l rest, o.done))
    (∀ b, (s.core x.core).batch = some b →
      (b.opened + 32 ≤ s.clk ∨ 128 ≤ b.lines.length → ∃ t : State, exec (.gatherBatchClose x.core) s = .next t ∧
        t.mem = s.mem ∧ (t.core x.core).batch = none ∧
        ∀ m l1 l2 l q, b.ops = l1 ++ (r, m) :: l2 → r ∉ l1.map (·.1) → r ∉ l2.map (·.1) → o.work = .gather l q →
          (t.opAt? r).map (·.2.work) = some (.gather (l.drop m) (q ++ (l.take m).map (fun e => (s.clk, e))))) ∧
      (s.clk < b.opened + 32 → b.lines.length < 128 →
        exec (.gatherBatchClose x.core) s = .refused (.notEnabled "GATHER_BATCH_CLOSE"))) ∧
    (∀ l q, o.work = .gather l q → o.cls = .ld → q ≠ [] →
      (∀ l1 e l2, q = l1 ++ e :: l2 → (∀ d ∈ l1, v.laneLost c d.2 = false) → v.laneLost c e.2 = true →
        failed (.gatherReply g n) e.2.addr) ∧
      ((∀ e ∈ q, v.laneLost c e.2 = false) → (∀ d ∈ x.ops, d.id ≠ n → ∀ l2 q2, d.work ≠ .gather l2 q2) →
        ∃ (line : Nat) (t : State) (y : Group), line ∈ q.map (fun e => v.laneLine c e.2) ∧
          exec (.gatherReply g n) s = .next t ∧ t.mem = s.mem ∧ t.group? g = some y ∧
          leaves y l (q.filter (fun e => v.laneLine c e.2 != line)) ∧
          ∀ e ∈ q, v.laneLine c e.2 = line → f.g.u = false → e.2.thread < 32 → mOff f + e.2.part.1 + e.2.part.2 ≤ 8 →
            (∀ d ∈ q, d.2 = e.2 ∨ d.2.thread ≠ e.2.thread ∨ d.2.part.1 + d.2.part.2 ≤ e.2.part.1 ∨
              e.2.part.1 + e.2.part.2 ≤ d.2.part.1) →
            y.elemV e.2.thread f.data.toNat (mOff f + e.2.part.1) (8 * e.2.part.2) =
              ofLe (v.cachedRead x.core c 0 e.2.addr e.2.part.2) % 2 ^ (8 * e.2.part.2))) ∧
    (∀ l q, o.work = .gather l q → o.cls = .st → f.subop = 15 →
      (∃ e ∈ q, s.scatterBefore x.core r (v.laneLine c e.2) = false) →
      ∃ (line : Nat) (t : State) (y : Group), line ∈ q.map (fun e => v.laneLine c e.2) ∧ s.scatterBefore x.core r line = false ∧
        exec (.gatherReply g n) s = .next t ∧ t.group? g = some y ∧ SameRegs x y ∧
        leaves y l (q.filter (fun e => v.laneLine c e.2 != line)) ∧
        (∀ e pa, (q.map (·.2)).filter (fun e => v.laneLine c e == line) = [e] → e.addr % 65536 + e.part.2 ≤ 65536 →
          e.addr < 2 ^ 64 → e.part.1 + e.part.2 ≤ m → 0 < e.part.2 → v.pa? c e.addr = some pa →
          t.bytes pa e.part.2 = ((leBytes m e.value).drop e.part.1).take e.part.2 ∧
          ∀ a, a < pa ∨ pa + e.part.2 ≤ a → t.byte a = s.byte a)) ∧
    (∀ (l : Lane) (next : Work),
      (∃ rest, o.work = .atoms (l :: rest) ∧ next = (if rest = [] then .idle else .atoms rest) ∧ v.olderAtomic x o f l = false ∧
        (f.path ≠ 3 → v.laneLost c l = false) ∧ (f.path = 3 → v.sramFailures x.core l.addr m none = [])) ∨
      (∃ q j rest, o.work = .gather q ((j, l) :: rest) ∧ next = .gather q rest ∧ o.cls = .st ∧ f.subop ≠ 15 ∧
        v.scatterBefore x.core r (v.laneLine c l) = false ∧ v.olderAtomic x o f l = false ∧ v.laneLost c l = false) →
      let old := if f.path = 3 then ofLe (s.spRead x.core l.addr m) else v.atomicOld x.core c l.addr m
      let new_ := leBytes m (atomNew o.instr f old l)
      ∃ (t : State) (y : Group), exec (.atomicAtHome g n) s = .next t ∧ t.group? g = some y ∧ (y.op? n).map (·.work) = some next ∧
        (f.path = 3 → t.mem = s.mem ∧ (m ≤ 8 → t.spRead x.core l.addr m = new_)) ∧
        (∀ pa, f.path ≠ 3 → l.addr % 65536 + m ≤ 65536 → l.addr < 2 ^ 64 → 0 < m → v.pa? c l.addr = some pa →
          old = ofLe (s.view x.core 0 none pa m) ∧ t.view x.core 0 none pa m = new_ ∧
          ((∀ j < m, ∀ w ∈ (s.writesTo (pa + j)).head?, s.sees x.core 0 none (pa + j) w = true) →
            old = ofLe (s.bytes pa m) ∧ t.bytes pa m = new_) ∧
          ∀ a, a < pa ∨ pa + m ≤ a → t.byte a = s.byte a) ∧
        (returns o.instr f = false → y.v = x.v) ∧
        (returns o.instr f = true → l.half = none → f.g.u = false → l.thread < 32 → mOff f + m ≤ 8 →
          y.elemV l.thread f.data.toNat (mOff f) (8 * m) = old % 2 ^ (8 * m))) ∧
    (∀ l rest, o.work = .atoms (l :: rest) → v.olderAtomic x o f l = false →
      (f.path ≠ 3 → v.laneLost c l = true → failed (.atomicAtHome g n) l.addr) ∧
      (f.path = 3 → v.sramFailures x.core l.addr m none ≠ [] → ∃ a, failed (.atomicAtHome g n) a))

/-- R85, R150, R160 to R162: what each operator of an atomic makes of an old value: on bits 31:0 of its element where the type has 32 bits,
with the bits above kept; each half of `.addbf2` on its own bits; AMAXR leaves the identity of `.max`. -/
def Sys2Proof.Claims.AtomicOperators : Prop :=
  ∀ (f : MFmt) (o w : Nat) (l : Lane), o < 2 ^ 64 →
    let p := o % 2 ^ w
    let v := l.value % 2 ^ w
    let keep := o / 2 ^ w * 2 ^ w
    let flt := 8 ≤ f.type.toNat
    let fm := fmtOf f.type
    let int := fun (c : Nat) => ival (signedTy f.type) w c
    (typeWidth? f.type = some w → w = 32 ∨ w = 64 →
      (l.half = none → ∀ i ∈ [Instr.atom f, .scat f],
        let new_ := atomNew i f o l
        (f.subop = 0 → new_ = keep + (if flt then (fm.round 0 (Machine.Num.add 0 (fm.decode p) (fm.decode v)).1).1 else p + v) % 2 ^ w) ∧
        (f.subop = 1 → new_ = keep + (if flt then (minMaxCode fm false true p v).1 else if int p ≤ int v then p else v)) ∧
        (f.subop = 2 → new_ = keep + (if flt then (minMaxCode fm true true p v).1 else if int v ≤ int p then p else v)) ∧
        (f.subop = 3 → new_ = keep + (p &&& v)) ∧ (f.subop = 4 → new_ = keep + (p ||| v)) ∧
        (f.subop = 5 → new_ = keep + (p ^^^ v)) ∧ (f.subop = 6 → new_ = keep + v) ∧
        (f.subop = 7 → new_ = keep + if p = v then l.value2 % 2 ^ w else p)) ∧
      atomNew (.amaxr f) f o l =
        keep + if flt then fm.infCode true else if signedTy f.type = true then 2 ^ (w - 1) else 0) ∧
    (∀ h < 2, l.half = some h → ∀ i ∈ [Instr.atom f, .scat f],
      let half := fun (u : Nat) => u / 2 ^ (16 * h) % 2 ^ 16
      half (atomNew i f o l) =
        (fmtBF16.round 0 (Machine.Num.add 0 (fmtBF16.decode (half o)) (fmtBF16.decode (half l.value))).1).1 ∧
      ∀ j, j < 16 * h ∨ 16 * h + 16 ≤ j → (atomNew i f o l).testBit j = o.testBit j)

/-- R85, R150, R160 to R162, R261, R262, R284, R384: the steps of gathers, scatters and atomics, and the operators. -/
def Obligations.GatherAndAtomicSteps : Prop := Claims.GatherAndAtomicSteps ∧ Claims.AtomicOperators

/-! ### Engines: fibres, deques, bounds, random words -/

/-- R176, R177, R280, R385: FBOPEN takes a row's pointers, FBNEXT gives the next column and value and moves on, both as the thread's
own reads on .gen, FBEND tells an exhausted fibre, FBCLOSE closes its slot; where a unit that FBOPEN or FBNEXT reads is lost,
nothing is opened or delivered and the operation is marked failed. The model's own readings and choices in it: log entry 48. -/
def Sys2Proof.Claims.Fibres : Prop :=
  ∀ (s : State) (k : Issue) (g : Nat) (x : Group) (f : EFmt),
    let c := s.ctxOf x.launch
    let on := x.enabledSet f.g k.active 0
    let n := f.imm.toNat % 8
    let fb := fun t => x.fibre t n
    let spoiled := fun (i : Instr) (b : Nat) => ∃ (t : State) (y : Group), exec i s = .next t ∧ t.group? g = some (y.advance k) ∧
      t.mem = s.mem ∧ SameRegs x y ∧ y.fibres = x.fibres ∧ Outstanding x y i .ld (maskOf on) .idle ∧
      y.ops.getLast?.map (·.failed) = some (some b)
    (∀ i ∈ [Instr.fbopen f, .fbnext f], Issued s k g x i → on = [] → Completes s k g i (fun y => y = x)) ∧
    (∀ b, Issued s k g x (.fbopen f) → on ≠ [] → x.count .ld < 63 →
      let a := (x.rs f.sa.toNat).toNat
      a % 32 = 0 → s.spanFailures c a 32 .read none none ≠ [] → atIssue (s.spanFailures c a 32 .read none none) = [] →
      s.badSpan c a 32 true = some b → spoiled (.fbopen f) b) ∧
    (∀ b, Issued s k g x (.fbnext f) → on ≠ [] → x.count .ld < 63 →
      let spans := fun t => if (fb t).cursor < (fb t).fin then [(wrap64 ((fb t).cols + 4 * (fb t).cursor), 4),
        (wrap64 ((fb t).vals + (fb t).cursor * 2 ^ (fb t).wlog), 2 ^ (fb t).wlog)] else []
      (∀ t ∈ on, ∀ q ∈ spans t, atIssue (s.spanFailures c q.1 q.2 .read none (some t)) = []) →
      s.badIn c (on.flatMap spans) true = some b → spoiled (.fbnext f) b) ∧
    (Issued s k g x (.fbopen f) → on ≠ [] → x.count .ld < 63 →
      let a := (x.rs f.sa.toNat).toNat
      let l := s.cachedRead x.core c 0 a 32
      let num := fun (b : Nat) => s.genNum x.core c b 8
      let row := fun t => (x.rv t f.vx.toNat).toNat
      let at_ := fun t => wrap64 (numAt l 0 8 + 8 * row t)
      let rows := numAt l 0x18 4
      let lo := fun t => num (at_ t)
      let hi := fun t => num (wrap64 (numAt l 0 8 + 8 * row t + 8))
      let bad := fun t => rows ≤ row t ∨ hi t < lo t
      a % 32 = 0 → s.spanFailures c a 32 .read none none = [] → numAt l 0x1C 4 < 3 →
      (∀ t ∈ on, row t < rows → s.spanFailures c (at_ t) 16 .read none (some t) = []) →
      ∃ (t : State) (y : Group), exec (.fbopen f) s = .next t ∧ t.group? g = some (y.advance k) ∧ t.mem = s.mem ∧
        SameRegs x y ∧ Outstanding x y (.fbopen f) .ld (maskOf on) .idle ∧ (y.fbst = true ↔ x.fbst = true ∨ ∃ q ∈ on, bad q) ∧
        ∀ q ∈ on, y.fibre q n = (if rows ≤ row q then Fibre.mk 0 0 (numAt l 8 8) (numAt l 0x10 8) (numAt l 0x1C 4 % 4)
          else Fibre.mk (if hi q < lo q then hi q else lo q) (hi q) (numAt l 8 8) (numAt l 0x10 8) (numAt l 0x1C 4 % 4))) ∧
    (Issued s k g x (.fbnext f) → on ≠ [] → x.count .ld < 63 → f.pf ≠ 15 →
      let ci := fun t => wrap64 ((fb t).cols + 4 * (fb t).cursor)
      let va := fun t => wrap64 ((fb t).vals + (fb t).cursor * 2 ^ (fb t).wlog)
      (∀ t ∈ on, (fb t).cursor < (fb t).fin → s.spanFailures c (ci t) 4 .read none (some t) = [] ∧
        s.spanFailures c (va t) (2 ^ (fb t).wlog) .read none (some t) = []) →
      ∃ (t : State) (y : Group), exec (.fbnext f) s = .next t ∧ t.group? g = some (y.advance k) ∧ t.mem = s.mem ∧
        Outstanding x y (.fbnext f) .ld (maskOf on) .idle ∧
        WritesV x { y with p := x.p, fibres := x.fibres, ops := x.ops, nextOp := x.nextOp } on f.vx.toNat (fun q =>
          if (fb q).cursor < (fb q).fin then
            BitVec.ofNat 64 (s.genNum x.core c (ci q) 4 + s.genNum x.core c (va q) (2 ^ (fb q).wlog) * 2 ^ 32) else 0xFFFFFFFF) ∧
        ∀ q ∈ on, y.rp q f.pf.toNat = (if (fb q).cursor < (fb q).fin then 0 else 0xFF) ∧
          y.fibre q n = (if (fb q).cursor < (fb q).fin then { fb q with cursor := (fb q).cursor + 1 } else fb q)) ∧
    (Issued s k g x (.fbend f) → f.pf ≠ 15 → Completes s k g (.fbend f) (fun y => y = { x with p := y.p } ∧
      (∀ q ∈ on, y.rp q f.pf.toNat = if (fb q).cursor = (fb q).fin then 0xFF else 0) ∧
      ∀ t < 32, ∀ q, q ≠ f.pf.toNat ∨ t ∉ on → y.rp t q = x.rp t q)) ∧
    (Issued s k g x (.fbclose f) → Completes s k g (.fbclose f) (fun y => y = { x with fibres := y.fibres } ∧
      (∀ q ∈ on, y.fibre q n = Fibre.mk 0 0 0 0 0) ∧
      ∀ t < 32, ∀ j < 8, j ≠ n ∨ t ∉ on → y.fibre t j = x.fibre t j))

/-- R151, R178, R179, R325: a deque operation leaves issue with its threads' operands, once the descriptor and the items that the
threads would act on now pass their checks; at the home, under the translations of its issue, each thread in turn puts its item into the
ring slot of BOT, pops the newest item or steals the oldest; on a full or an empty deque it is flagged and changes nothing. An item that
the issue did not foresee is checked at the turn, and where it fails the operation ends failed: the model's own choice (log entry 40). -/
def Sys2Proof.Claims.Deques : Prop :=
  ∀ (s : State) (g : Nat) (x : Group) (f : EFmt),
    let c := s.ctxOf x.launch
    (∀ (k : Issue) (i : Instr) (kind : DqKind),
      (i, kind) ∈ ([(.dqpush f, .push), (.dqpop f, .pop), (.dqsteal f, .steal)] : List (Instr × DqKind)) →
      let on := x.enabledSet f.g k.active 0
      let a := (x.rs f.sa.toNat).toNat
      Issued s k g x i →
      (on = [] → Completes s k g i (fun y => y = x)) ∧
      (on ≠ [] → x.count .en < 63 → atIssue (s.updateFailures c a 64 none ++
          s.descFailures c a 64 (fun l => (deqOf l).ok) (fun l => s.itemFailures c kind (deqOf l) on)) = [] →
        ∃ (t : State) (y : Group), exec i s = .next t ∧ t.group? g = some (y.advance k) ∧ t.mem = s.mem ∧ SameRegs x y ∧
          Outstanding x y i .en (maskOf on) (.threads on) ∧
          y.ops.getLast?.map (fun o => (o.sargs, o.targs)) =
            some ([x.rs f.sa.toNat], on.map (fun q => (q, x.rv q f.vx.toNat))))) ∧
    (∀ (n th : Nat) (rest : List Nat) (o : Op), s.group? g = some x → x.op? n = some o → o.work = .threads (th :: rest) →
      th < 32 → f.pf ≠ 15 →
      let v := s.as g n
      let a := (o.sargs.getD 0 0).toNat
      let d := deqOf (v.vread c a 64)
      let left := fun (y : Group) => (y.op? n).map (fun p => (p.work, p.done)) =
        some (if rest = [] then (.idle, true) else (.threads rest, o.done))
      let clear := fun (b : Nat) (k : Access) (stamped : Option Bool) =>
        (∃ p ∈ o.leaves, p.1 = b / 65536) ∨ atIssue (v.spanFailures c b 8 k stamped none) = []
      v.spoiled c a 64 = false → a < 2 ^ 64 - 0x20 → a % 64 = 0 →
      (o.instr = .dqpush f → d.bot - d.top < 2 ^ d.clog → ¬ clear (d.item d.bot) .write (some false) →
        ∃ t : State, exec (.dequeStep g n) s = .next t ∧ t.mem = s.mem ∧
          (t.opAt? (OpRef.mk g n)).map (fun p => (p.2.work, p.2.done, p.2.failed.isSome)) = some (.idle, true, true)) ∧
      (o.instr = .dqpush f → d.bot - d.top < 2 ^ d.clog → d.ring % 8 = 0 → clear (d.item d.bot) .write (some false) → v.badSpan c (d.item d.bot) 8 false = none →
        let pushed := (v.hold c (d.item d.bot) 8).vwrite c (d.item d.bot) (leBytes 8 (o.targ th).toNat)
        ∃ (t : State) (y : Group), exec (.dequeStep g n) s = .next t ∧ t.group? g = some y ∧ y.rp th f.pf.toNat = 0xFF ∧
          y.v = x.v ∧ left y ∧ ∀ pa, pushed.pa? c (a + 0x18) = some pa → t.num pa 8 = (d.bot + 1) % 2 ^ 64 ∧
            ∀ p, v.pa? c (d.item d.bot) = some p → (p + 8 ≤ pa ∨ pa + 8 ≤ p) → t.num p 8 = (o.targ th).toNat) ∧
      (o.instr = .dqpush f → 2 ^ d.clog ≤ d.bot - d.top →
        ∃ (t : State) (y : Group), exec (.dequeStep g n) s = .next t ∧ t.group? g = some y ∧ t.mem = s.mem ∧
          y.rp th f.pf.toNat = 0 ∧ y.v = x.v ∧ left y) ∧
      (o.instr = .dqpop f → d.top < d.bot → clear (d.item (d.bot - 1)) .read none → v.spoiled c (d.item (d.bot - 1)) 8 = false →
        ∃ (t : State) (y : Group), exec (.dequeStep g n) s = .next t ∧ t.group? g = some y ∧ y.rp th f.pf.toNat = 0xFF ∧
          y.rv th f.vx.toNat = BitVec.ofNat 64 (v.vnum c (d.item (d.bot - 1)) 8) ∧ left y ∧
          ∀ pa, v.pa? c (a + 0x18) = some pa → t.num pa 8 = d.bot - 1) ∧
      (o.instr = .dqsteal f → d.top < d.bot → clear (d.item d.top) .read none → v.spoiled c (d.item d.top) 8 = false →
        ∃ (t : State) (y : Group), exec (.dequeStep g n) s = .next t ∧ t.group? g = some y ∧ y.rp th f.pf.toNat = 0xFF ∧
          y.rv th f.vx.toNat = BitVec.ofNat 64 (v.vnum c (d.item d.top) 8) ∧ left y ∧
          ∀ pa, v.pa? c (a + 0x10) = some pa → t.num pa 8 = d.top + 1) ∧
      (o.instr ∈ [Instr.dqpop f, .dqsteal f] → d.bot ≤ d.top →
        ∃ (t : State) (y : Group), exec (.dequeStep g n) s = .next t ∧ t.group? g = some y ∧ t.mem = s.mem ∧
          y.rp th f.pf.toNat = 0 ∧ y.rv th f.vx.toNat = 0 ∧ left y))

/-- R176 to R179: fibre slots and work deques. -/
def Obligations.FibresAndDeques : Prop := Claims.Fibres ∧ Claims.Deques

/-- R180: BNDUP leaves issue with its threads' values; the cluster's unit applies them in turn and every core's copy follows;
BNDRD reads the issuing core's copy. -/
def Sys2Proof.Claims.BoundRegisters : Prop :=
  ∀ (s : State) (g : Nat) (x : Group) (f : EFmt),
    let b := f.imm.toNat % 16
    let key := x.core / 8 * 16 + b
    (∀ k : Issue,
      let on := x.enabledSet f.g k.active 0
      let w := Sparse.get 0 (s.core x.core).bnd b
      (Issued s k g x (.bndup f) → on ≠ [] → x.count .en < 63 → Completes s k g (.bndup f) (fun y =>
        SameRegs x y ∧ Outstanding x y (.bndup f) .en (maskOf on) (.bound false) ∧
        y.ops.getLast?.map (·.targs) = some (on.map (fun q => (q, x.rv q f.vx.toNat))))) ∧
      (Issued s k g x (.bndrd f) → Completes s k g (.bndrd f) (fun y =>
        if f.g.u then (x.enabled f.g (leader k.active) 0 = false → y = x) ∧
          (x.enabled f.g (leader k.active) 0 = true → WritesS x y f.sd.toNat w)
        else WritesV x y on f.vx.toNat (fun _ => w)))) ∧
    (∀ (n core : Nat) (o : Op), s.group? g = some x → x.op? n = some o → enFmt? o.instr = some f →
      (o.work = .bound false → ∃ t : State, exec (.boundUnitUpdate g n core) s = .next t ∧ t.mem = s.mem ∧
        Sparse.get 0 t.bounds key =
          o.targs.foldl (fun cur p => bndNew (f.ext.toNat % 4) f.type cur p.2) (Sparse.get 0 s.bounds key) ∧
        (∀ q, q ≠ key → Sparse.get 0 t.bounds q = Sparse.get 0 s.bounds q) ∧
        ((t.opAt? (OpRef.mk g n)).map (·.2.work)) = some (.bound true)) ∧
      (∀ r w rest, o.work = .bound true → (s.core core).bndQ = (r, w, OpRef.mk g n) :: rest → ∃ t : State,
        exec (.boundUnitUpdate g n core) s = .next t ∧ t.mem = s.mem ∧ Sparse.get 0 (t.core core).bnd r = w ∧
        (t.core core).bndQ = rest))

/-- R181, R364 to R367: RNGT claims its slot and takes one ticket, served in ascending thread order with consecutive words of
the slot's sequence; the engine refills by 16 words up to 64; in replay mode a ticket takes words from the table and moves
CURSOR. -/
def Sys2Proof.Claims.RandomWords : Prop :=
  ∀ (s : State) (g : Nat) (x : Group) (f : EFmt),
    let d := x.core / 32
    let seed := match s.launch? x.launch with | some l => l.seed | none => 0
    (∀ k : Issue,
      let on := x.enabledSet f.g k.active 0
      let j := if f.ext = 1 then (x.rs f.sa.toNat).toNat % 4096 else f.imm.toNat % 4096
      let old := s.slot d j
      let slot := if old.claim.isSome then old else RngSlot.mk (some x.launch) 0 0 [] (s.boundHeader (s.ctxOf x.launch) j)
      Issued s k g x (.rngt f) → on ≠ [] →
      (old.claim.isSome = true → old.claim ≠ some x.launch → ∃ t : State, exec (.rngt f) s = .next t ∧ t.mem = s.mem ∧
        t.group? g = some { x with wait := some (.slot d j) }) ∧
      ((old.claim = none ∨ old.claim = some x.launch) → x.count .en < 63 →
        (∀ h, slot.replay = some h → s.replayFailures (s.ctxOf x.launch) h on.length = []) →
        ∃ (t : State) (z : Group), exec (.rngt f) s = .next t ∧ t.mem = s.mem ∧ t.group? g = some z ∧
          z.threads = (x.advance k).threads ∧ z.nextOp = x.nextOp + 1 ∧ (t.slot d j).claim = some x.launch ∧
          (slot.replay = none → slot.tickets = [] → on.length ≤ slot.level → x.ops = [] →
            (∀ q < on.length, z.rv (on.getD q 0) f.vx.toNat = BitVec.ofNat 64 (randomWord seed j (slot.pos + q))) ∧
            (t.slot d j).pos = slot.pos + on.length ∧ (t.slot d j).level = slot.level - on.length) ∧
          (slot.replay = none → slot.tickets = [] → slot.level < on.length → x.ops = [] →
            (t.slot d j).tickets = [OpRef.mk g x.nextOp]))) ∧
    (∀ (die j : Nat),
      let y := s.slot die j
      y.claim.isSome = true → y.replay = none → y.level < 64 → ∃ t : State, exec (.randomRefill die j) s = .next t ∧
        t.mem = s.mem ∧ (y.tickets = [] → t.slot die j = { y with level := min 64 (y.level + 16) })) ∧
    (∀ (n j h : Nat) (o : Op) (on : List Nat),
      let r := OpRef.mk g n
      let c := s.ctxOf x.launch
      let v := s.as g n
      let l := v.vread c h 64
      let count := numAt l 8 4
      let cur := numAt l 0x0C 4
      let wraps := numAt l 0x10 4 % 2 = 1
      let at_ := fun q => wrap64 (numAt l 0 8 + 4 * (if cur + q < count then cur + q else (cur + q) % count))
      s.group? g = some x → x.op? n = some o → o.work = .threads on → on.Nodup → (∀ q ∈ on, q < 32) →
      enFmt? o.instr = some f → s.ticketSlot r = some (d, j) → (s.slot d j).replay = some h →
      (s.slot d j).tickets.head? = some r → OnePage h 64 → (∀ q < on.length, cur + q < count ∨ wraps) →
      v.badIn c ((h, 64) :: (List.range on.length).map (fun q => (at_ q, 4))) true = none →
      ∃ (t : State) (z : Group), exec (.replayTicket g n) s = .next t ∧ t.group? g = some z ∧
        (∀ q < on.length, z.rv (on.getD q 0) f.vx.toNat = BitVec.ofNat 64 (v.vnum c (at_ q) 4)) ∧
        (z.op? n).map (·.done) = some true ∧ (t.slot d j).tickets = (s.slot d j).tickets.tail ∧
        ∀ pa, v.pa? c (h + 0x0C) = some pa →
          t.num pa 4 = (if wraps then (cur + on.length) % count else cur + on.length) % 2 ^ 32)

/-- R180, R181, R364 to R367: bound registers and random words. -/
def Obligations.BoundAndRandom : Prop := Claims.BoundRegisters ∧ Claims.RandomWords

/-! ### Time and stamped memory -/

/-- R182, R183, R347, R348: TNOW reads both bounds; STST enters its prepare phase; each home assigns a stamp above every
stamp of the line and at least Latest and S*p*, or raises WIDTH; when all have answered, every pending entry of the instruction is
confirmed with its stamp, or, where a home raised WIDTH, removed with the line's ASTAMP and CSTAMP kept; a commit is made at the
first clock at which Earliest exceeds its stamp. The model's own readings and choices in it: log entry 39. -/
def Sys2Proof.Claims.StampedStores : Prop :=
  ∀ (s : State) (k : Issue) (g : Nat) (x : Group),
    (∀ f : EFmt, (Instr.tnow f).wf = true → Issued s k g x (.tnow f) → Completes s k g (.tnow f) (fun y =>
      (x.enabled f.g (leader k.active) 0 = false → y = x) ∧
      (x.enabled f.g (leader k.active) 0 = true → y = { x with s := y.s } ∧
        y.rs f.sd.toNat = BitVec.ofNat 64 (s.earliest (x.core / 32)) ∧
        y.rs f.sb.toNat = BitVec.ofNat 64 (s.latest (x.core / 32)) ∧
        ∀ q, q ≠ f.sd.toNat → q ≠ f.sb.toNat → y.rs q = x.rs q))) ∧
    (∀ f : MFmt, Issued s k g x (.stst f) →
      let es := x.elems f k.active (x.ea f)
      (es = [] → Completes s k g (.stst f) (fun y => y = x)) ∧
      (es ≠ [] → x.count .st < 63 → s.elemFailures x f .write (some true) es = [] →
      ∃ (t : State) (y : Group), exec (.stst f) s = .next t ∧ t.group? g = some y ∧ t.mem = s.mem ∧ t.stamps = s.stamps ∧
        SameRegs x y ∧ y.threads = x.threads ∧ y.wait = some .serving ∧ Outstanding x y (.stst f) .st (elemMask es) (.commits 0) ∧
        ∃ l, y.cont = some (.stst k l 0 none) ∧ ∀ e ∈ l, ∃ a ∈ es, e.thread = a.1)) ∧
    (∀ (i : Issue) (e : StampElt) (rest : List StampElt) (made pa : Nat),
      let r := OpRef.mk g (x.nextOp - 1)
      let d := (dramDie pa).getD 0
      let y := s.stamped (pa / 128)
      let sp := match x.op? (x.nextOp - 1) with | some o => (o.sargs.getD 0 0).toNat | none => 0
      let held := 16 ≤ y.pending.length ∧ (s.as g (x.nextOp - 1)).heldRound g (s.groups.length + 1) g = false
      s.group? g = some x → x.cont = some (.stst i (e :: rest) made none) →
      (s.as g (x.nextOp - 1)).pa? (s.ctxOf x.launch) e.addr = some pa →
      (2 * (s.die d).quartz.qlim.toNat < s.latest d - s.earliest d → ∃ (t : State) (z : Group),
        exec (.ststPrepare g) s = .next t ∧ t.mem = s.mem ∧ t.stamps = s.stamps ∧ t.group? g = some z ∧
        z.cont = some (.stst i [] made (some (e.thread, e.addr)))) ∧
      (s.latest d - s.earliest d ≤ 2 * (s.die d).quartz.qlim.toNat → held →
        exec (.ststPrepare g) s = .refused (.notEnabled "STST_PREPARE")) ∧
      (s.latest d - s.earliest d ≤ 2 * (s.die d).quartz.qlim.toNat → ¬ held → ∃ (t : State) (z : Group) (st : Nat),
        exec (.ststPrepare g) s = .next t ∧ t.mem = s.mem ∧ t.group? g = some z ∧
        z.cont = some (.stst i rest (made + 1) none) ∧ s.latest d ≤ st ∧ sp ≤ st ∧ y.astamp < st ∧
        (st = s.latest d ∨ st = sp ∨ st = y.astamp + 1) ∧
        t.stamped (pa / 128) = { y with astamp := st, pending := y.pending ++ [Pending.mk st pa e.data r false] })) ∧
    (∀ (i : Issue) (made : Nat) (o : Op) (width : Option (Nat × Nat)),
      s.group? g = some x → x.cont = some (.stst i [] made width) → x.op? (x.nextOp - 1) = some o →
      ∃ (t : State) (z : Group), exec (.ststConfirm g) s = .next t ∧ t.mem = s.mem ∧ t.group? g = some z ∧ z.cont = none ∧
        (width = none → z.threads = (x.advance i).threads ∧ z.wait = none ∧
          (z.op? (x.nextOp - 1)).map (·.work) = some (.commits made) ∧
          ∀ line, t.stamped line = { s.stamped line with
            pending := (s.stamped line).pending.map (fun e => if e.by_ = OpRef.mk g (x.nextOp - 1) then { e with confirmed := true } else e) }) ∧
        ∀ th a, width = some (th, a) → (∀ line, t.stamped line = { s.stamped line with
            pending := (s.stamped line).pending.filter (fun e => e.by_ != OpRef.mk g (x.nextOp - 1)) }) ∧ z.threads = x.threads ∧ z.ops = x.ops.filter (fun p => p.id != o.id) ∧
          ∃ rec_, z.status = .faulted rec_ none ∧ rec_.info.cause = 0x0C ∧ rec_.info.addr = a ∧ rec_.info.thread = some th) ∧
    (∀ (line : Nat) (e : Pending) (rest : List Pending),
      let y := s.stamped line
      y.pending = e :: rest → e.confirmed = true →
      (e.stamp < s.earliest ((dramDie (line * 128)).getD 0) → ∃ t : State, exec (.stampedCommit line) s = .next t ∧
        t.stamped line = { y with cstamp := e.stamp, pending := rest } ∧
        t.bytes (line * 128 + e.addr % 128) e.data.length = e.data ∧
        ∀ a, a < line * 128 + e.addr % 128 ∨ line * 128 + e.addr % 128 + e.data.length ≤ a → t.byte a = s.byte a) ∧
      (s.earliest ((dramDie (line * 128)).getD 0) ≤ e.stamp →
        exec (.stampedCommit line) s = .refused (.notEnabled "STAMPED_COMMIT")))

/-- R184, R274, R351: LDAS leaves issue after the width test with its flags clear; a request is answered once Earliest has passed
T and no commit at or below T is pending, with the line's bytes, or with zeros and the flag set where the line is newer than
T; the last answer makes the acquire that its ORDER asks for. -/
def Sys2Proof.Claims.AsOfLoads : Prop :=
  ∀ (s : State) (g : Nat) (x : Group) (f : MFmt),
    let c := s.ctxOf x.launch
    (∀ k : Issue,
      let es := x.elems f k.active (x.ea f)
      let T := (x.rs (f.ext.toNat / 4)).toNat
      (Instr.ldas f).wf = true → Issued s k g x (.ldas f) → es ≠ [] → x.count .ld < 63 →
      s.elemFailures x f .read (some true) es = [] →
      (∀ e ∈ es, ∀ p ∈ linePieces e.2 (mBytes f), s.wideAt c p.1 = false) →
      ∃ (t : State) (y : Group), exec (.ldas f) s = .next t ∧ t.group? g = some (y.advance k) ∧ t.mem = s.mem ∧
        y.v = x.v ∧ y.s = x.s ∧
        Outstanding x y (.ldas f) .ld (elemMask es) (.asOf T (es.flatMap (fun e => asOfReqs e.1 e.2 (mBytes f) (mOff f)))) ∧
        ∀ e ∈ es, ∀ b < 8, mOff f ≤ b → b < mOff f + mBytes f → (y.rp e.1 f.fp.toNat).getLsbD b = false) ∧
    (∀ (n T pa : Nat) (q : SpReq) (rest : List SpReq) (o : Op),
      let v := s.as g n
      let va := q.line * 128 + q.byte
      let late := T < (s.stamped (pa / 128)).cstamp
      s.group? g = some x → x.op? n = some o → memFmt? o.instr = some f → f.g.u = false → o.work = .asOf T (q :: rest) →
      v.pa? c va = some pa → v.spoiled c va q.count = false → q.thread < 32 → q.reg + q.count ≤ 8 →
      T < s.earliest ((dramDie pa).getD 0) → (∀ e ∈ (s.stamped (pa / 128)).pending, T < e.stamp) →
      ∃ (t : State) (z : Group), exec (.ldasAnswer g n) s = .next t ∧ t.mem = s.mem ∧ t.group? g = some z ∧
        elem (z.rv q.thread f.data.toNat) q.reg (8 * q.count) = (if late then 0 else s.num pa q.count) ∧
        (late → f.fp ≠ 15 → ∀ b < 8, mOff f ≤ b → b < mOff f + mBytes f → (z.rp q.thread f.fp.toNat).getLsbD b = true) ∧
        (z.op? n).map (·.work) = some (if rest = [] then .idle else .asOf T rest) ∧
        (rest = [] → f.order = 1 ∨ f.order = 3 ∨ f.order = 4 → 2 ≤ f.scope.toNat → (t.core x.core).lay = []))

/-- R182 to R184, R347, R348, R351: stamped stores and as-of loads. -/
def Obligations.StampedAccess : Prop := Claims.StampedStores ∧ Claims.AsOfLoads

/-! ### Copies -/

/-- R172 to R175, R260, R318, R385: CPY reads its record and operands and arrives at the copy engine, asking for a lease above
2^20 bytes, or, where its record is lost, leaves a failed operation; CPYSEL of the block that holds the queue arrives there with no
row done. The model's own readings and choices in it: log entry 38, and for the lost record log entry 97. -/
def Sys2Proof.Claims.CopyIssue : Prop :=
  ∀ (s : State) (k : Issue) (g : Nat) (x : Group) (f : EFmt),
    let lead := maskOf [leader k.active]
    let ref := OpRef.mk g x.nextOp
    let on := x.enabled f.g (leader k.active) 0
    let a := x.rs f.sa.toNat
    let arrived := fun (i : Instr) (args : List Word) (w : Work) => ∃ (t : State) (y : Group), exec i s = .next t ∧
      t.group? g = some (y.advance k) ∧ t.mem = s.mem ∧ SameRegs x y ∧ Outstanding x y i .cp lead w ∧
      y.ops.getLast?.map (·.sargs) = some args ∧ (t.core x.core).copies.getLast? = some ref ∧
      (Leaser.op ref ∈ (t.die (x.core / 32)).asking ↔
        Leaser.op ref ∈ (s.die (x.core / 32)).asking ∨ i = .cpy f ∧ 2 ^ 20 < (recordOf args).total)
    (∀ i ∈ [Instr.cpy f, .cpysel f], Issued s k g x i → on = false → Completes s k g i (fun y => y = x)) ∧
    (Issued s k g x (.cpy f) → on = true → x.count .cp < 63 →
      let image := s.cachedRead x.core (s.ctxOf x.launch) 2 a.toNat 64
      let args := a :: [0, 1, 2, 3].map (fun j => x.rs (f.sb.toNat + j)) ++ [if f.ext = 1 then 0 else x.rs f.sc.toNat] ++
        (List.range 8).map (fun j => BitVec.ofNat 64 (ofLe ((image.drop (8 * j)).take 8)))
      s.copySwitching x (f.ext == 1) (f.imm.toNat % 32) args = none →
      s.copyFailures x (f.ext == 1) (f.imm.toNat % 32) args = [] →
      (s.descBad x.core (s.ctxOf x.launch) 2 a.toNat 64 = none → arrived (.cpy f) args (.copy none)) ∧
      (∀ b, s.descBad x.core (s.ctxOf x.launch) 2 a.toNat 64 = some b → ∃ (t : State) (y : Group), exec (.cpy f) s = .next t ∧
        t.group? g = some (y.advance k) ∧ t.mem = s.mem ∧ SameRegs x y ∧ Outstanding x y (.cpy f) .cp lead .idle ∧
        y.ops.getLast?.map (·.failed) = some (some b))) ∧
    (Issued s k g x (.cpysel f) → on = true → x.count .cp < 63 → (s.core x.core).holder = some x.block →
      atIssue (s.selFailures x f) = [] → arrived (.cpysel f) [a, x.rs f.sb.toNat, x.rs f.sc.toNat] (.rows 0)) ∧
    (Issued s k g x (.cpysel f) → on = true → x.count .cp < 63 → (s.core x.core).holder ≠ some x.block → ∃ (t : State) (y : Group) (r : FaultRec),
      exec (.cpysel f) s = .next t ∧ t.group? g = some y ∧ y.status = .faulted r none ∧ r.info.cause = 0x15)

/-- R173, R259, R385: a dense copy into the scratchpad leaves the box there, out-of-range elements as zero; one out of it writes its
run; a FIFO copy appends its records while the bank has room and no producer that came before it waits, and else keeps its place in the
line of producers (log entry 87); one that meets data it cannot deliver ends failed. -/
def Sys2Proof.Claims.CopyCompletes : Prop :=
  ∀ (s : State) (g n : Nat) (x : Group) (o : Op) (f : EFmt) (left : Option (List (List Byte))),
    s.group? g = some x → x.op? n = some o → o.instr = .cpy f → o.work = .copy left →
    let v := s.as g n
    let lay := recordOf o.sargs
    let c := s.ctxOf x.launch
    let org := originOf o.sargs
    let a := (o.sargs.getD 5 0).toNat
    let bank := f.imm.toNat % 32
    let b := (s.core x.core).bank bank
    let me := Producer.op g n
    let done := fun (t : State) => (t.opAt? (OpRef.mk g n)).map (fun p => (p.2.work, p.2.done)) = some (.idle, true)
    s.inEngine x.core (OpRef.mk g n) = true →
    (lay.total ≤ 2 ^ 20 ∨ Leaser.op (OpRef.mk g n) ∈ (s.die (x.core / 32)).granted) →
    (f.ext ≠ 1 → lay.up = false → v.copyBad x.core c lay org a = none → ∃ t : State, exec (.copyComplete g n) s = .next t ∧
      t.mem = s.mem ∧ done t ∧
      (lay.skew = false → lay.total % 32 = 0 → a + lay.total ≤ 2 ^ 22 → ∀ j < lay.total,
        t.spByte (spDecode x.core (a + j)).1 (spDecode x.core (a + j)).2 = (v.copyBytes c lay org).getD j 0)) ∧
    (f.ext ≠ 1 → lay.up = true → v.copyBad x.core c lay org a = none → ∃ t : State, exec (.copyComplete g n) s = .next t ∧ done t ∧
      (∀ core off, t.spByte core off = s.spByte core off) ∧
      (∀ row q va m pa, lay.skew = false → copyRuns lay org = [(row, q, va, m)] → OnePage va m → v.pa? c va = some pa →
        row * lay.rowBytes + q + m ≤ lay.total / 32 * 32 →
        (∀ j < m, t.byte (pa + j) = s.spByte (spDecode x.core (a + (row * lay.rowBytes + q + j))).1
          (spDecode x.core (a + (row * lay.rowBytes + q + j))).2) ∧
        ∀ p, p < pa ∨ pa + m ≤ p → t.byte p = s.byte p)) ∧
    (∀ b, (f.ext ≠ 1 ∨ left = none) → v.copyBad x.core c lay org (if f.ext = 1 then 0 else a) = some b → ∃ t : State,
      exec (.copyComplete g n) s = .next t ∧ t.mem = s.mem ∧
      (t.opAt? (OpRef.mk g n)).map (·.2) = some { o with work := .idle, done := true, failed := some b }) ∧
    (f.ext = 1 → (left = none → v.copyBad x.core c lay org 0 = none) → s.mayPush x.core bank me = false →
      (me ∈ b.line → exec (.copyComplete g n) s = .refused (.notEnabled "COPY_COMPLETE")) ∧
      (me ∉ b.line → ∃ t : State, exec (.copyComplete g n) s = .next t ∧ t.mem = s.mem ∧
        (t.core x.core).bank bank = { b with line := b.line ++ [me] })) ∧
    (f.ext = 1 → (left = none → v.copyBad x.core c lay org 0 = none) → s.mayPush x.core bank me = true →
      let recs := match left with | some l => l | none => cut32 (lay.total / 32) (v.copyBytes c lay org)
      let m := min recs.length (512 - b.slots.length)
      ∃ t : State, exec (.copyComplete g n) s = .next t ∧ t.mem = s.mem ∧
        (t.core x.core).bank bank = { b with
          slots := b.slots ++ (recs.take m).map some,
          line := if m = recs.length then b.line.filter (fun p => p != me) else if me ∈ b.line then b.line else b.line ++ [me] } ∧
        (m = recs.length → done t) ∧
        (m < recs.length → (t.opAt? (OpRef.mk g n)).map (·.2.work) = some (.copy (some (recs.drop m)))))

/-- R174, R175: the next row of CPYSEL is popped and stored, and its record written, from a fresh record or, with ACC, from the
one in memory. -/
def Sys2Proof.Claims.SelectRow : Prop :=
  ∀ (s : State) (g n j : Nat) (x : Group) (o : Op) (f : EFmt) (row : List (BitVec 32)) (rest : List (List (BitVec 32))),
    s.group? g = some x → x.op? n = some o → o.instr = .cpysel f → o.work = .rows j →
    let v := s.as g n
    let c := s.ctxOf x.launch
    let size := 16 + 8 * selK f
    let at_ := (o.sargs.getD 1 0).toNat + j * size
    let to_ := wrap64 ((o.sargs.getD 0 0).toNat + 256 * j)
    let start := if selAcc f then SelRec.ofBytes (selK f) (v.vread c at_ size) else SelRec.fresh (selK f)
    let words := row.flatMap (fun v => leBytes 4 v.toNat)
    s.inEngine x.core (OpRef.mk g n) = true → (j = 0 → s.selBlocked x.core (OpRef.mk g n) f = false) →
    (s.core x.core).holder = some x.block → s.waitingPoppers x.core = [] → (s.core x.core).queue = row :: rest →
    (s.core x.core).badRow = false → v.badSpan c at_ size (selAcc f) = none → v.badSpan c to_ 256 false = none →
    ∃ t : State, exec (.cpyselRow g n) s = .next t ∧ (t.core x.core).queue = rest ∧
      (t.opAt? (OpRef.mk g n)).map (fun p => (p.2.work, p.2.done)) =
        some (if j + 1 = selRows f then (.idle, true) else (.rows (j + 1), o.done)) ∧
      (∀ pa, OnePage at_ size → (v.vwrite c to_ words).pa? c at_ = some pa →
        t.bytes pa size = (start.step s.stepNo (selK f) (o.sargs.getD 2 0).toNat row).bytes) ∧
      (∀ pa pb, row.length = 64 → OnePage to_ 256 → OnePage at_ size → v.pa? c to_ = some pa →
        (v.vwrite c to_ words).pa? c at_ = some pb → pb + size ≤ pa ∨ pa + 256 ≤ pb → t.bytes pa 256 = words)

/-! ### The control ring -/

/-- R327: a command at the head of its ring that breaks a limit is taken and completes with status 0xFF; a status is written
at DONE, unless DONE is zero or the unit there is lost. The model's own readings and choices in it: log entry 29. -/
def Sys2Proof.Claims.MalformedCommands : Prop :=
  ∀ (s : State) (c : Nat) (m : Cmd), s.ctlHead c = some m →
    let m0 := m.arg = 0 ∧ m.va % 65536 = 0 ∧ m.len % 65536 = 0 ∧ s.coversWhole c m.va m.len = true
    let named := (s.cmdLaunch c m).isSome = true
    (∀ (i : Instr) (op : Nat) (ok : Prop),
      (i, op, ok) ∈ ([(.give c, 2, m0), (.take c, 3, m0), (.resolve c, 4, s.resolveOk c m = true),
        (.move c, 5, m.arg ≤ 4 ∧ m.va % 65536 = 0 ∧ m.len % 65536 = 0 ∧ s.coversWhole c m.va m.len = true),
        (.frames c, 6, m.arg ≤ 3 ∧ m.va % 8 = 0 ∧ 1 ≤ m.len ∧ m.len ≤ 65536), (.refuse c, 7, m0),
        (.resume c, 8, targetOk m.va = true ∧ m.len < 5 * 2 ^ 50 ∧ named),
        (.abort c, 9, m.len < 256 ∧ ∃ q l, s.cmdLaunch c m = some (q, l) ∧ (m.va = 2 ^ 64 - 1 ∨ m.va < l.blocks)),
        (.preempt c, 10, m.va < 2 ^ 32 ∧ (m.len = 0 ∨ 100000 ≤ m.len ∧ m.len ≤ 1000000000) ∧ named),
        (.withdraw c, 11, m.va < 2 ^ 32 ∧ m.len = 0 ∧ named), (.savearea c, 12, m.va % 65536 = 0 ∧ m.len % 65536 = 0 ∧ s.coversWhole c m.va m.len = true ∧ named),
        (.replay c, 13, bits m.arg 12 19 = 0 ∧ m.va % 64 = 0 ∧ m.len = 0 ∧ (bitAt m.arg 31 = true ∨ m.va = 0))] :
        List (Instr × Nat × Prop)) →
      m.op = op → ¬ ok → exec i s = .next ((s.ctlTake c).answer m.done 0xFF)) ∧
    (∀ (t : State) (status : Nat), (m.done = 0 → t.answer m.done status = t) ∧
      (m.done ≠ 0 → (t.badAt m.done 8 (coveredBy [(m.done, 8)]) = none → (t.answer m.done status).num m.done 8 = status % 2 ^ 64) ∧
        ∀ a, a < m.done ∨ m.done + 8 ≤ a → (t.answer m.done status).byte a = t.byte a)) ∧
    (∀ x, s.ctx? c = some x → (s.ctlTake c).num (x.ctl + 0x10) 8 = (s.num (x.ctl + 0x10) 8 + 1) % 2 ^ 64)

/-- R172 to R175, R259, R260, R318, R327: copies, from the instruction to the last byte, and commands whose operands are
malformed. -/
def Obligations.Copies : Prop :=
  Claims.CopyIssue ∧ Claims.CopyCompletes ∧ Claims.SelectRow ∧ Claims.MalformedCommands

/-- R185, R329, R330: VACQ and VREL answer 1 on a range that is not host-shared; VACQ answers 3 where the device owns it and
no VREL is pending; else they join the context's list, VACQ with a record of kind 2. They join with the range widened to the whole
pages that it covers a part of: the model's own choice (log entry 90). -/
def Sys2Proof.Claims.OwnershipIssue : Prop :=
  ∀ (s : State) (k : Issue) (g : Nat) (x : Group) (f : EFmt),
    let c := s.ctxOf x.launch
    let lead := maskOf [leader k.active]
    let va := (x.rs f.sa.toNat).toNat
    let len := (x.rs f.sb.toNat).toNat
    let good := va % 65536 = 0 ∧ len % 65536 = 0 ∧ s.sharedRange c va len = true
    let ready := s.ownedBy c va len false = true ∧ s.ownPending c va len true = false
    let answers := fun (i : Instr) (w : Word) =>
      Completes s k g i (fun y => SameRegs x y ∧ Outstanding x y i .en lead (.result w))
    let joins := fun (i : Instr) (recs : List ReqRec) => ∃ (t : State) (y : Group), exec i s = .next t ∧
      t.group? g = some (y.advance k) ∧ t.mem = s.mem ∧ SameRegs x y ∧
      Outstanding x y i .en lead (.range (s.widen c va len).1 (s.widen c va len).2) ∧
      ∀ q, s.ctx? c = some q →
        t.ctx? c = some { q with vacqs := q.vacqs ++ [OpRef.mk g x.nextOp], reqs := q.reqs ++ recs }
    (∀ i ∈ [Instr.vacq f, .vrel f], Issued s k g x i → x.enabled f.g (leader k.active) 0 = false →
      Completes s k g i (fun y => y = x)) ∧
    (∀ i ∈ [Instr.vacq f, .vrel f], Issued s k g x i → x.enabled f.g (leader k.active) 0 = true → x.count .en < 63 → ¬ good →
      answers i 1) ∧
    (Issued s k g x (.vacq f) → x.enabled f.g (leader k.active) 0 = true → x.count .en < 63 → good →
      (ready → answers (.vacq f) 3) ∧ (¬ ready → joins (.vacq f) [ReqRec.mk 2 (x.core / 32) va 0])) ∧
    (Issued s k g x (.vrel f) → x.enabled f.g (leader k.active) 0 = true → x.count .en < 63 → good → joins (.vrel f) [])

/-- R327, R329, R330: GIVE and TAKE answer 1 on a range that is not host-shared; GIVE clears HOSTOWN and answers 0 unless a
VREL has begun there; TAKE answers 3 where the host owns the range, else waits for the handoff of a VREL, which sets
HOSTOWN of the whole page that its leaf maps; REFUSE ends every pending VACQ that meets its range with status 2. The model's own
readings and choices in it: log entries 41 and 90. -/
def Sys2Proof.Claims.OwnershipCommands : Prop :=
  ∀ (s : State) (c : Nat) (m : Cmd), s.ctlHead c = some m →
    let s0 := s.ctlTake c
    let shared := s0.sharedRange c m.va m.len = true
    let good := m.arg = 0 ∧ m.va % 65536 = 0 ∧ m.len % 65536 = 0 ∧ s.coversWhole c m.va m.len = true
    (m.op = 2 → good → ¬ shared → exec (.give c) s = .next (s0.answer m.done 1)) ∧
    (m.op = 2 → good → shared → (∀ p ∈ pagesOf m.va m.len, s0.releasing c p = false) →
      ∃ s1 : State, exec (.give c) s = .next (s1.answer m.done 0) ∧
        (∀ l, m.len = 65536 → s0.leafAt c (wrap64 m.va) = some l → s1.num l.at_ 8 = l.value - (if l.value.testBit 7 then 2 ^ 7 else 0)) ∧
        ∀ x p, s1.ctx? c = some x → p ∈ pagesOf m.va m.len → m.va + m.len ≤ 2 ^ 64 → Sparse.get none x.held (p / 65536) = none) ∧
    (m.op = 2 → good → shared → (∃ p ∈ pagesOf m.va m.len, s0.releasing c p = true) →
      exec (.give c) s = .refused (.notEnabled "GIVE")) ∧
    (m.op = 3 → good → ¬ shared → exec (.take c) s = .next (s0.answer m.done 1)) ∧
    (m.op = 3 → good → shared → s0.ownedBy c m.va m.len true = true → exec (.take c) s = .next (s0.answer m.done 3)) ∧
    (m.op = 3 → good → shared → s0.ownedBy c m.va m.len true = false → ∃ t : State, exec (.take c) s = .next t ∧
      t.mem = s0.mem ∧ (t.ctx? c).map (·.pend) = (s0.ctx? c).map (fun x => x.pend ++ [PendCmd.mk 3 0 m.va m.len m.done])) ∧
    (m.op = 7 → good → ∃ s1 : State, exec (.refuse c) s = .next (s1.answer m.done 0) ∧ s1.mem = s0.mem ∧
      ∀ x r b n, s0.ctx? c = some x → x.vacqs = [r] → s0.ownRange r = some (false, b, n) →
        ((m.va < b + n ∧ b < m.va + m.len) → (s1.opAt? r).map (·.2.work) = some (.result 2) ∧
          (s1.ctx? c).map (·.vacqs) = some []) ∧
        (¬ (m.va < b + n ∧ b < m.va + m.len) → s1 = s0)) ∧
    (∀ (g n : Nat) (x : Group) (o : Op) (f : EFmt) (y : Ctx) (va : Nat) (l : Leaf), s.group? g = some x → x.op? n = some o →
      o.instr = .vrel f → s.ctxOf x.launch = c → s.ctx? c = some y → o.work = .range va 65536 →
      (y.vacqs.takeWhile (· != OpRef.mk g n)).filterMap s.ownRange = [] → s.rangeInUse c va 65536 = false →
      s.leafAt c (wrap64 va) = some l → y.pend = [] →
      ∃ t : State, exec (.vrelHandoff g n) s = .next t ∧ t.num l.at_ 8 = l.value ||| 2 ^ 7 ∧
        (t.opAt? (OpRef.mk g n)).map (·.2.work) = some (.result 0) ∧
        (t.ctx? c).map (·.vacqs) = some (y.vacqs.filter (· != OpRef.mk g n)))

/-- R185, R327, R329, R330: ownership, from the instruction to the completion. -/
def Obligations.Ownership : Prop := Claims.OwnershipIssue ∧ Claims.OwnershipCommands

/-! ### Pages and moves -/

/-- R170, R324, R328, R331: PGREQ gives 3 to a thread whose page has no translation, or is resident and the host's, 0 to one whose
page is resident, or asks for its move; one whose page is not resident asks for it; the threads that ask stay outstanding until
RESOLVE or the move answers them; an address that is not canonical raises PAGE_PROTECTION (R151). -/
def Sys2Proof.Claims.PageRequests : Prop :=
  ∀ (s : State) (g : Nat) (x : Group) (f : MFmt),
    let c := s.ctxOf x.launch
    let ask := fun a => s.pageAsk c (f.subop == 1) a
    (∀ k : Issue,
      let es := x.elems f k.active (x.ea f)
      let left := es.filterMap (fun e => match ask e.2 with | .inr p => some (e.1, p.1) | .inl _ => none)
      Issued s k g x (.pgreq f) → (es = [] → Completes s k g (.pgreq f) (fun y => y = x)) ∧
      (x.count .en < 63 → ∀ (l1 : List (Nat × Nat)) (e : Nat × Nat) (l2 : List (Nat × Nat)), es = l1 ++ e :: l2 →
        canonical e.2 = false → (∀ q ∈ l1, canonical q.2 = true) →
        ChecksOut s k g x (.pgreq f) 0x09 e.1 (elemMask es) (fun r => r.addr = e.2)) ∧
      (es ≠ [] → x.count .en < 63 → (∀ e ∈ es, canonical e.2 = true) →
      ∃ (t : State) (y : Group), exec (.pgreq f) s = .next t ∧ t.group? g = some (y.advance k) ∧ t.mem = s.mem ∧
        Outstanding x y (.pgreq f) .en (elemMask es) (if left = [] then .idle else .pages left) ∧ y.s = (if f.g.u then y.s else x.s) ∧
        (f.g.u = false → mOff f + mBytes f ≤ 8 → 0 < mBytes f → ∀ e ∈ es, ∀ status, ask e.2 = .inl status →
          y.elemV e.1 f.data.toNat (mOff f) (8 * mBytes f) = status) ∧
        (f.g.u = false → ∀ e ∈ es, ∀ p, ask e.2 = .inr p → y.rv e.1 f.data.toNat = x.rv e.1 f.data.toNat))) ∧
    (∀ a, (s.leafAt c a = none → ask a = .inl 3) ∧
      (∀ l, s.leafAt c a = some l → l.bit 2 = false → ask a = .inr (a - a % 2 ^ l.log, false)) ∧
      (∀ l, s.leafAt c a = some l → l.bit 2 = true → l.bit 6 = true → l.bit 7 = true → ask a = .inl 3) ∧
      (∀ l, s.leafAt c a = some l → l.bit 2 = true → l.bit 6 = false →
        ask a = if f.subop = 1 then .inr (a - a % 2 ^ l.log, true) else .inl 0)) ∧
    (∀ (n th page status : Nat) (o : Op), s.group? g = some x → x.op? n = some o → memFmt? o.instr = some f →
      o.work = .pages [(th, page)] → th < 32 → f.g.u = false → mOff f + mBytes f ≤ 8 → 0 < mBytes f → status < 256 →
      ∃ y : Group, (s.answerPage (OpRef.mk g n) page status).group? g = some y ∧
        y.elemV th f.data.toNat (mOff f) (8 * mBytes f) = status ∧
        (y.op? n).map (fun p => (p.work, p.done)) = some (.idle, true))

/-- R326 to R328: INVAL drops what the caches hold of its range, at once or once nothing uses it; an unassigned command answers
0xFF; RESOLVE answers the requests for its page or gives a host move its frame; MOVE makes a request of every page; FRAMES adds
to a die's pool. -/
def Sys2Proof.Claims.PageCommands : Prop :=
  ∀ (s : State) (c : Nat) (m : Cmd), s.ctlHead c = some m →
    let s0 := s.ctlTake c
    let paged := m.va % 65536 = 0 ∧ m.len % 65536 = 0 ∧ s.coversWhole c m.va m.len = true
    let idle := ∀ x, s.ctx? c = some x → x.pend = []
    (idle → m.op = 0 ∨ 13 < m.op → exec (.inval c) s = .next (s0.answer m.done 0xFF)) ∧
    (idle → m.op = 1 → m.arg = 0 → paged → s0.rangeInUse c m.va m.len = false →
      ∃ s1 : State, exec (.inval c) s = .next (s1.answer m.done 0) ∧ s1.mem = s0.mem ∧
        ∀ x p, s1.ctx? c = some x → p ∈ pagesOf m.va m.len → m.va + m.len ≤ 2 ^ 64 → Sparse.get none x.held (p / 65536) = none) ∧
    (idle → m.op = 1 → m.arg = 0 → paged → s0.rangeInUse c m.va m.len = true →
      ∃ t : State, exec (.inval c) s = .next t ∧ t.mem = s0.mem ∧
        (t.ctx? c).map (·.pend) = some [PendCmd.mk 1 0 m.va m.len m.done]) ∧
    (m.op = 4 → s.resolveOk c m = true → s0.hostMove? c m.va = none →
      exec (.resolve c) s = .next ((s0.answerResidency c m.va m.arg).answer m.done 0)) ∧
    (m.op = 4 → s.resolveOk c m = true → ∀ n mv, s0.hostMove? c m.va = some (n, mv) →
      (m.arg = 0 → ∃ s1 : State, exec (.resolve c) s = .next (s1.answer m.done 0) ∧ s1.mem = s0.mem ∧
        Sparse.find? s1.moves n = some { mv with frame := some m.len }) ∧
      (m.arg ≠ 0 → exec (.resolve c) s = .next (((s0.forgetMove mv).endMove n mv 3).answer m.done 0))) ∧
    (m.op = 5 → m.arg ≤ 4 → paged →
      let ps := s0.movePages c m.va m.len
      (ps = [] → exec (.move c) s = .next (s0.answer m.done 0)) ∧
      (ps ≠ [] → ∃ t : State, exec (.move c) s = .next t ∧ t.mem = s0.mem ∧
        (t.ctx? c).map (·.pend) = (s0.ctx? c).map (fun x => x.pend ++ [PendCmd.mk 5 0 s0.nextId ps.length m.done]) ∧
        ∀ j < ps.length, Sparse.find? t.moves (s0.nextId + 1 + j) =
          some (Move.mk c (ps.getD j 0) m.arg none (some s0.nextId) false false none))) ∧
    (m.op = 6 → m.arg ≤ 3 → m.va % 8 = 0 → 1 ≤ m.len → m.len ≤ 65536 →
      let l := (List.range m.len).map (fun j => s0.vnum c (m.va + 8 * j) 8)
      let sound := s0.spanFailures c m.va (8 * m.len) .read none none = [] ∧
        ∀ fr ∈ l, fr % 65536 = 0 ∧ dramDie fr = some m.arg
      (¬ sound → exec (.frames c) s = .next (s0.answer m.done 0xFF)) ∧
      (sound → ∃ s1 : State, exec (.frames c) s = .next (s1.answer m.done 0) ∧ s1.mem = s0.mem ∧
        (s1.die m.arg).frames = (s0.die m.arg).frames ++ l))

/-- R170, R326 to R328: page requests and the pager's commands. -/
def Obligations.PageRequestsAndCommands : Prop := Claims.PageRequests ∧ Claims.PageCommands

/-- R331, R332: a move, of a page that no other is moving, is refused, settled, already home or granted, and waits for the
residency of its page; the fifth move within 65.536 ms settles its page for 16.8 s; a granted move carries its page to a frame of
the pool, bytes and entry, and frees the old frame. The model's own readings and choices in it: log entries 42, 43, 91 and 92. -/
def Obligations.PageMoves : Prop :=
  ∀ (s : State) (n : Nat) (m : Move), Sparse.find? s.moves n = some m →
    (m.granted = false → m.posted = false → s.moving n m = false →
      (s.leafAt m.ctx m.va = none → exec (.moveRequestDecision n) s = .next (s.endMove n m 3)) ∧
      (∀ l, s.leafAt m.ctx m.va = some l →
        let busy := l.log = 30 ∨ (l.bit 6 = true ∧ (l.bit 7 = true ∨ s.releasing m.ctx m.va = true)) ∨
          (m.target = 4 ∧ l.bit 5 = true)
        let free := l.log ≠ 30 ∧ l.bit 6 = false ∧ (m.target = 4 → l.bit 5 = false)
        let plain := free ∧ l.bit 2 = true
        let home := if inSystem l.frame then 4 else l.home
        let past := s.hist m.ctx m.va
        let now := s.earliest l.home
        let recent := past.moves.filter (fun u => now < u + 65536000 && u ≤ now)
        (busy → exec (.moveRequestDecision n) s = .next (s.endMove n m 3)) ∧
        (free → l.bit 2 = false → ∃ t : State, exec (.moveRequestDecision n) s = .next t ∧ t.mem = s.mem ∧
          Sparse.find? t.moves n = some { m with posted := true }) ∧
        (plain → m.target = home → exec (.moveRequestDecision n) s = .next (s.endMove n m 0)) ∧
        (plain → m.target < 4 → m.target ≠ home → l.bit 8 = true → now < past.settle →
          exec (.moveRequestDecision n) s = .next (s.endMove n m 2)) ∧
        (plain → m.target < 4 → m.target ≠ home → (l.bit 8 = false ∨ past.settle ≤ now) → 4 ≤ recent.length →
          ∃ s1 : State, exec (.moveRequestDecision n) s = .next (s1.endMove n m 2) ∧ s1.num l.at_ 8 = l.value ||| 2 ^ 8 ∧
            (s1.hist m.ctx m.va).settle = now + 16777216000) ∧
        (plain → m.target < 4 → m.target ≠ home → (l.bit 8 = false ∨ past.settle ≤ now) → recent.length < 4 →
          ∃ t : State, exec (.moveRequestDecision n) s = .next t ∧
            Sparse.find? t.moves n = some { m with granted := true, posted := false } ∧ (t.hist m.ctx m.va).moves.getLast? = some now ∧
            (l.bit 8 = true → t.num l.at_ 8 = l.value - 2 ^ 8)))) ∧
    (m.granted = true → m.target < 4 → ∀ l, s.leafAt m.ctx m.va = some l → l.bit 2 = true →
      let pool := (s.die m.target).frames
      (∀ a, s.badSpan m.ctx m.va (2 ^ l.log) true = some a → m.op = none → exec (.pageMove n) s = .next (s.endMove n m 3)) ∧
      (s.badSpan m.ctx m.va (2 ^ l.log) true = none → ∀ fr, pool.find? (fun p => p % 2 ^ l.log == 0) = some fr → dramDie fr = some m.target →
        s.pageBusy m.ctx m.va l = false → Memory.wf s.mem = true →
        ∃ s1 : State, exec (.pageMove n) s = .next (s1.endMove n m 1) ∧ (s1.die m.target).frames = pool.erase fr ∧
          s1.num l.at_ 8 = l.value - bits l.value 16 40 * 2 ^ 16 - l.home * 2 ^ 56 + fr / 65536 * 2 ^ 16 + m.target * 2 ^ 56 ∧
          (∀ j < 2 ^ l.log, (fr + j < l.at_ ∨ l.at_ + 8 ≤ fr + j) → s1.byte (fr + j) = s.byte (l.frame + j)) ∧
          ∀ y, s.ctx? m.ctx = some y → (s1.ctx? m.ctx).map (·.reqs) = some (y.reqs ++ [ReqRec.mk 5 m.target l.frame 0])) ∧
      (s.badSpan m.ctx m.va (2 ^ l.log) true = none → pool.find? (fun p => p % 2 ^ l.log == 0) = none → m.posted = false → ∃ t : State, exec (.pageMove n) s = .next t ∧
        Sparse.find? t.moves n = some { m with posted := true } ∧ t.mem = s.mem ∧
        ∀ y, s.ctx? m.ctx = some y → (t.ctx? m.ctx).map (·.reqs) = some (y.reqs ++ [ReqRec.mk 4 m.target m.va 0])))

/-- R328, R336, R312: the oldest waiting record is written into slot TAIL of its ring, where that slot can be written, TAIL advances
by 1 and the host is interrupted; without room it waits. The model's own readings and choices in it: log entries 13 (a CLOG outside 1 to
16), 29 and 70. -/
def Obligations.RecordsPosted : Prop :=
  ∀ (s : State) (c : Nat) (x : Ctx), s.ctx? c = some x →
    let posts := fun (i : Instr) (q z : Nat) (l : List Byte) (y : Ctx) => ∃ t : State, exec i s = .next t ∧
      t.ctx? c = some y ∧ t.irqs = s.irqs + 1 ∧ t.num (q + 0x18) 8 = (s.num (q + 0x18) 8 + 1) % 2 ^ 64 ∧
      (let at_ := s.num q 8 + z * (s.num (q + 0x18) 8 % 2 ^ (s.num (q + 0x08) 4 % 32))
       (at_ + z ≤ q + 0x18 ∨ q + 0x20 ≤ at_ → s.badAt at_ z (coveredBy [(at_, z)]) = none → t.bytes at_ z = l) ∧
       ∀ a, (a < at_ ∨ at_ + z ≤ a) → (a < q + 0x18 ∨ q + 0x20 ≤ a) → t.byte a = s.byte a)
    (∀ r rest, x.faults = r :: rest →
      (s.ringRoom x.fault = true → posts (.faultRecordPost c) x.fault 64 r.bytes { x with faults := rest }) ∧
      (s.ringRoom x.fault = false → exec (.faultRecordPost c) s = .refused (.notEnabled "FAULT_RECORD_POST"))) ∧
    (∀ r rest, x.reqs = r :: rest →
      (s.ringRoom x.req = true → posts (.requestRecordPost c) x.req 32 r.bytes { x with reqs := rest }) ∧
      (s.ringRoom x.req = false → exec (.requestRecordPost c) s = .refused (.notEnabled "REQUEST_RECORD_POST")))

/-! ### Steering launches -/

/-- R334, R337 to R340: RESUME makes a Faulted group Ready, at its unit or at its saved TPCs; ABORT stops the launch's blocks;
PREEMPT asks for a running block, WITHDRAW takes a request back and releases SAFE, SAVEAREA takes a writable range; what they
name is over or not in that state: status 1; a launch that the context does not have: 0xFF. -/
def Obligations.SteeringCommands : Prop :=
  ∀ (s : State) (c h : Nat) (l : Launch) (m : Cmd), s.ctlHead c = some m →
    let s0 := s.ctlTake c
    let named := s.cmdLaunch c m = some (h, l) ∧ s0.cmdLaunch c m = some (h, l)
    (named → m.op = 8 → targetOk m.va = true → m.len < 5 * 2 ^ 50 →
      (s0.blockBy h (bits m.va 0 32) = none → exec (.resume c) s = .next (s0.answer m.done 1)) ∧
      (∀ b k g x, bitAt m.va 47 = false → s0.blockBy h (bits m.va 0 32) = some (b, k) → s0.block? b = some k →
        k.groups[bits m.va 32 11]? = some g → s0.group? g = some x →
        ((∀ r q, x.status ≠ .faulted r q) → exec (.resume c) s = .next (s0.answer m.done 1)) ∧
        ((∃ r q, x.status = .faulted r q) → k.st = .running → ∃ (s1 : State) (y : Group),
          exec (.resume c) s = .next (s1.answer m.done 0) ∧ s1.mem = s0.mem ∧ s1.group? g = some y ∧ y.status = .ready ∧
          y.v = x.v ∧ y.p = x.p ∧ y.s = x.s ∧
          (m.len = 0 → y.threads = x.threads) ∧
          (m.len ≠ 0 → ∀ t < x.nthr, y.thread t = if (x.thread t).st = .retired then x.thread t else
            { x.thread t with tpc := BitVec.ofNat 53 m.len })))) ∧
    (named → m.op = 9 → m.len < 256 → m.va = 2 ^ 64 - 1 →
      (l.outcome.isSome = true → exec (.abort c) s = .next (s0.answer m.done 1)) ∧
      (l.outcome = none → l.doom = none → s0.launch? h = some l → ∃ s1 : State, exec (.abort c) s = .next (s1.answer m.done 0) ∧
        (s1.launch? h).map (·.doom) = some (some (1, if m.len = 0 then 0x21 else m.len)) ∧
        ∀ b k, s0.blocks = [(b, k)] → k.launch = h → k.st = .running → (s1.block? b).map (·.st) = some .aborting)) ∧
    (named → m.op = 10 → m.va < 2 ^ 32 → limitOk m.len = true →
      (s0.blockBy h m.va = none → exec (.preempt c) s = .next (s0.answer m.done 1)) ∧
      (∀ b k, s0.blockBy h m.va = some (b, k) → s0.block? b = some k →
        (k.st ≠ .running → exec (.preempt c) s = .next (s0.answer m.done 1)) ∧
        (k.st = .running → k.pre = none → ∃ t : State, exec (.preempt c) s = .next t ∧ t.mem = s0.mem ∧ t.block? b =
          some { k with pre := some (PreReq.mk (s0.clk + if m.len = 0 then 1600000 else m.len * 4 / 5) [(c, m.done)] false false 1 []) }))) ∧
    (named → m.op = 11 → m.va < 2 ^ 32 → m.len = 0 → ∀ b k, s0.blockBy h m.va = some (b, k) → s0.block? b = some k →
      (k.pre = none ∨ (∃ r, k.pre = some r ∧ r.taking = true) ∨ k.st ≠ .running →
        exec (.withdraw c) s = .next (s0.answer m.done 1)) ∧
      (∀ r, k.pre = some r → r.taking = false → k.st = .running → ∃ s1 : State, exec (.withdraw c) s = .next (s1.answer m.done 0) ∧
        (s1.block? b).map (·.pre) = some none ∧
        ∀ g x, k.groups = [g] → s0.group? g = some x → ∃ y, s1.group? g = some y ∧ ∀ t < x.nthr, y.thread t =
          (if ∃ u, (x.thread t).st = .safe u then { x.thread t with st := .runnable } else x.thread t))) ∧
    (s.cmdLaunch c m = none → ∀ (i : Instr) (op : Nat), (i, op) ∈ ([(.resume c, 8), (.abort c, 9), (.preempt c, 10), (.withdraw c, 11),
      (.savearea c, 12)] : List (Instr × Nat)) → m.op = op → exec i s = .next (s0.answer m.done 0xFF)) ∧
    (named → m.op = 12 → m.va % 65536 = 0 → m.len % 65536 = 0 →
      (s.coversWhole c m.va m.len = false → exec (.savearea c) s = .next (s0.answer m.done 0xFF)) ∧
      (s.coversWhole c m.va m.len = true →
      let sound := ∀ p ∈ pagesOf m.va m.len, s0.spanFailures c p 65536 .write none none = []
      (¬ sound → exec (.savearea c) s = .next (s0.answer m.done 1)) ∧
      (sound → ∃ s1 : State, exec (.savearea c) s = .next (s1.answer m.done 0) ∧ s1.mem = s0.mem ∧
        (s1.ctx? c).map (·.save) = some (some (m.va, m.len))))) ∧
    (m.op = 13 → replayFields m = true →
      let j := m.arg % 4096
      (s0.slotClaimed c j = true → exec (.replay c) s = .next (s0.answer m.done 1)) ∧
      (s0.slotClaimed c j = false → bitAt m.arg 31 = true → s0.headerOk c m.va = false →
        exec (.replay c) s = .next (s0.answer m.done 2)) ∧
      (s0.slotClaimed c j = false → (bitAt m.arg 31 = false ∨ s0.headerOk c m.va = true) → ∃ s1 : State,
        exec (.replay c) s = .next (s1.answer m.done 0) ∧ s1.mem = s0.mem ∧
        (s1.ctx? c).map (fun x => Sparse.get none x.replays j) = some (if bitAt m.arg 31 then some m.va else none)))

/-! ### Launches and blocks -/

/-- R109, R309, R312, R313, R397: LAUNCH leaves its answer to be written at retirement, an identity or a refusal; a slot of
a rung host queue is taken and has an identity whether or not it is refused; a doorbell of an empty or unknown queue changes
nothing; a record is judged by the checks of R309 in their order. The model's own readings and choices in it: log entries 13 (a CLOG
outside 1 to 16), 29, 35, 36, 93 and 100. -/
def Sys2Proof.Claims.LaunchAndQueues : Prop :=
  ∀ (s : State) (c : Nat) (q : Ctx), s.ctx? c = some q →
    (∀ (k : Issue) (g : Nat) (x : Group) (f : EFmt), Issued s k g x (.launch f) → s.ctxOf x.launch = c →
      let a := (x.rs f.sa.toNat).toNat
      let lead := maskOf [leader k.active]
      let dev := q.devQ.getD (f.imm.toNat % 8) 0
      let answers := fun (t : State) (w : Word) => ∃ y : Group, t.group? g = some (y.advance k) ∧ SameRegs x y ∧
        Outstanding x y (.launch f) .en lead (.result w)
      (x.enabled f.g (leader k.active) 0 = false → Completes s k g (.launch f) (fun y => y = x)) ∧
      let refuses := fun (w : Nat) => ∃ t : State, exec (.launch f) s = .next t ∧ t.mem = s.mem ∧ answers t (BitVec.ofNat 64 (2 ^ 63 + w))
      let judged := (s.hold c a 64).judge c q (s.vread c a 64)
      (x.enabled f.g (leader k.active) 0 = true → x.count .en < 63 →
        (a % 64 ≠ 0 → refuses 2) ∧
        (a % 64 = 0 → dev = 0 → refuses 6) ∧
        (a % 64 = 0 → dev ≠ 0 → s.ringRoom dev = false → refuses 1) ∧
        (dev ≠ 0 → s.ringRoom dev = true → a % 64 = 0 → s.spanFailures c a 64 .read none none = [] →
          (∀ e, judged = .error e → refuses e) ∧
          (∀ l, judged = .ok l → ∃ t : State, exec (.launch f) s = .next t ∧
            answers t (BitVec.ofNat 64 q.nextLid.toNat) ∧ t.launch? s.nextId = some l ∧
            (t.ctx? c).map (·.nextLid) = some (if q.nextLid + 1 = 0 then 1 else q.nextLid + 1))))) ∧
    (∀ j, j < 16 → j ∈ q.rung → s.ringReady (q.hostQ.getD j 0) = true →
      let d := q.hostQ.getD j 0
      let at_ := s.num d 8 + 64 * (s.num (d + 0x10) 8 % 2 ^ (s.num (d + 8) 4 % 32))
      let record := s.bytes at_ 64
      s.sound at_ 64 = true → ∃ (t : State) (l : Launch), exec (.hostQueueTake c j) s = .next t ∧ t.launch? s.nextId = some l ∧ l.lid = q.nextLid ∧
        l.ctx = c ∧ t.num (d + 0x10) 8 = (s.num (d + 0x10) 8 + 1) % 2 ^ 64 ∧
        (t.ctx? c).map (·.nextLid) = some (if q.nextLid + 1 = 0 then 1 else q.nextLid + 1) ∧
        (at_ % 64 ≠ 0 → l.doom = some (2, 2)) ∧ (at_ % 64 = 0 → (∀ e, s.judge c q record = .error e → l.doom = some (2, e)) ∧
          (∀ r, s.judge c q record = .ok r → l = r))) ∧
    (∀ v : BitVec 32, ∃ t : State, exec (.doorbellWrite c v) s = .next t ∧ t.mem = s.mem ∧
      (s.ringReady (q.rungQueue v.toNat) = false → t.ctx? c = some q) ∧
      (s.ringReady (q.rungQueue v.toNat) = true → ∃ y, t.ctx? c = some y ∧ v.toNat ∈ y.rung)) ∧
    (s.ringReady 0 = false) ∧ (∀ v, 16 < v → q.rungQueue v = 0) ∧
    ∀ l : List Byte,
      let ctl := numAt l 0x34 4
      let kd := numAt l 0x10 8
      let d := s.vread c kd 64
      (2 ^ 53 ≤ numAt l 0 8 ∨ numAt l 0x30 4 = 0 ∨ 2 < ctl / 2 ^ 7 % 4 ∨ kd % 64 ≠ 0 ∨ numAt l 0x28 8 % 16 ≠ 0 ∨
        s.spanFailures c kd 64 .read none none ≠ [] ∨ numAt d 0x2A 1 = 0 ∨ 32 < numAt d 0x2A 1 ∨ numAt d 0x28 2 % 64 ≠ 0 ∨
        numAt d 0x2C 4 = 0 ∨ 2048 < numAt d 0x2C 4 → s.judge c q l = .error 2) ∧
      (s.fullLaunch c q l = none → s.judge c q l = .error 2) ∧
      ∀ m, s.fullLaunch c q l = some m →
        let named := ∀ p ∈ m.deps, p ≠ 0 ∧ p ≠ q.nextLid ∧ (q.nextLid - p).toNat < 2 ^ 31 ∧
          ∃ e ∈ s.launches, e.2.ctx = c ∧ e.2.lid = p
        m.entry.toNat = numAt l 0 8 ∧ m.blocks = numAt l 0x30 4 ∧ m.prio = ctl % 8 ∧ m.coop = ctl.testBit 3 ∧
        m.garnet = ctl.testBit 4 ∧ m.nthr = numAt d 0x2A 1 ∧ m.ngroups = numAt d 0x2C 4 ∧ m.vregs = numAt d 0x28 2 ∧
        m.bken = q.bken ∧ m.readback = q.readback ∧
        (¬ named → s.judge c q l = .error 4) ∧ (named → s.capacity m = 0 → s.judge c q l = .error 5) ∧
        (named → s.capacity m ≠ 0 → m.coop = true → s.capacity m < m.blocks → s.judge c q l = .error 3) ∧
        (named → s.capacity m ≠ 0 → (m.coop = true → m.blocks ≤ s.capacity m) →
          s.judge c q l = .ok { m with lid := q.nextLid })

/-- R314, R317, R364: a launch whose blocks have all ended ends completed, one with a decided outcome ends so when its
blocks are over; its record is written at DONE, its random slots are free, its dependants see its outcome; after 100 ms of
waiting a launch's boost grows, up to 6. The model's own readings and choices in it: log entries 29, 57 and 102. -/
def Sys2Proof.Claims.LaunchEnds : Prop :=
  ∀ (s : State) (h : Nat) (l : Launch), s.launch? h = some l → l.outcome = none →
    let ends := fun (o : Nat × Nat) => ∃ t : State, exec (.launchEnd h) s = .next t ∧
      t.launch? h = some { l with outcome := some o } ∧ t.irqs = s.irqs + (if l.irq then 1 else 0) ∧
      (∀ d < 4, ∀ j, (t.slot d j).claim ≠ some h) ∧
      (l.done = 0 → t.mem = s.mem) ∧
      (∀ pa, l.done ≠ 0 → OnePage l.done 16 → s.spanFailures l.ctx l.done 16 .write (some false) none = [] →
        s.pa? l.ctx l.done = some pa →
        t.num pa 4 = (o.1 + 256 * o.2) % 2 ^ 32 ∧ t.num (pa + 4) 4 = l.lid.toNat ∧ t.num (pa + 8) 8 = s.earliest l.endDie % 2 ^ 64)
    (l.doom = none → (l.placed = 0 → s.depFailed l = false) → l.finished = l.blocks → ends (0, 0)) ∧
    (l.doom = none → l.placed = 0 → s.depFailed l = true → ends (3, 0)) ∧
    (∀ o, l.doom = some o → s.blocksOver h = true → ends o) ∧
    (∀ o, l.doom = some o → s.blocksOver h = false → exec (.launchEnd h) s = .refused (.notEnabled "LAUNCH_END")) ∧
    (s.waiting h l = true → l.boost < 6 → l.waitFrom + 80000000 ≤ s.clk → ∃ t : State, exec (.ageBoost h) s = .next t ∧
      t = s.setLaunch h { l with boost := l.boost + 1, waitFrom := l.waitFrom + 80000000 }) ∧
    (s.waiting h l = false ∨ 6 ≤ l.boost ∨ s.clk < l.waitFrom + 80000000 →
      exec (.ageBoost h) s = .refused (.notEnabled "AGE_BOOST"))

/-- R109, R309, R312 to R314, R317, R364, R397: launches, from the queue to the end. -/
def Obligations.Launches : Prop := Claims.LaunchAndQueues ∧ Claims.LaunchEnds

/-- R227, R237, R310, R311, R314, R316: a block is placed only where its groups fit, at least cost among the cores that the order of
waiting blocks leaves to it; its groups start with the launch's entry, its scalars and everything else zero, and its cores' layout caches
hold nothing older than what its first instructions acquire; the turn passes to its context. -/
def Obligations.BlockPlaced : Prop :=
  ∀ (s : State) (h : Nat) (l : Launch) (pl : Placement), s.launch? h = some l → l.coop = false →
    let cores := nubNat (pl.groups.map (·.1))
    let rooms := (allCores.filter (fun c => s.mayPass h l [c])).map s.room
    let fits := s.fit h l (fun _ => l.banks) l.streams.length pl.groups rooms ≠ none ∧ pl.groups.length = l.ngroups ∧
      ∀ other, s.findPlace h l l.banks l.ngroups rooms = some other →
        cheaper (s.placeCost rooms (nubNat (other.map (·.1)))) (s.placeCost rooms cores) = false
    (s.mstat.fatal = false → s.queued h l = true → s.takenBlocks h = [] → l.next < l.blocks → s.mayPass h l cores = true →
      fits → ∃ (t : State) (b : Nat) (k : Block), exec (.blockPlace h pl) s = .next t ∧ t.turn = l.ctx ∧
        t.launch? h = some { l with next := l.next + 1, placed := l.placed + 1, boost := 0, waitFrom := s.clk } ∧
        t.block? b = some k ∧ k.launch = h ∧ k.bidx = l.next ∧ k.cores = cores ∧ k.groups.length = l.ngroups ∧
        ∀ j < l.ngroups, ∃ x, t.group? (k.groups.getD j 0) = some x ∧ x.gidx = j ∧ x.block = b ∧ x.launch = h ∧
          (x.core, x.part) = pl.groups.getD j (0, 0) ∧ x.threads = List.replicate l.nthr (Thread.mk l.entry .runnable) ∧
          x.v = [] ∧ x.p = [] ∧ x.s = l.sinit ∧ x.flags = 0 ∧ x.status = .ready ∧ x.resident = true ∧
          (t.core x.core).lay = []) ∧
    (s.mstat.fatal = true ∨ s.queued h l = false ∨ s.takenBlocks h ≠ [] ∨ s.mayPass h l cores = false ∨ l.blocks ≤ l.next ∨ ¬ fits →
      exec (.blockPlace h pl) s = .refused (.notEnabled "BLOCK_PLACE"))

/-- R311, R316, R318, R339, R387, R401: a core is gated after 20 µs without a group or a context and wakes 4 µs after a placement,
unless the dies are down; the distributor asks one lower block to give way; a lease goes to the highest asking, but not in an
emergency. The model's own reading in it: log entry 94. -/
def Obligations.DistributorSteps : Prop :=
  ∀ (s : State) (c : Nat),
    let x := s.core c
    (x.powered = true → s.occupied c = false → x.idleAt + 16000 ≤ s.clk →
      exec (.coreGate c) s = .next (s.setCore c { x with powered := false })) ∧
    (x.powered = false ∨ s.occupied c = true ∨ s.clk < x.idleAt + 16000 →
      exec (.coreGate c) s = .refused (.notEnabled "CORE_GATE")) ∧
    (x.powered = false → s.occupied c = true → x.idleAt + 3200 ≤ s.clk → s.mstat.fatal = false → s.mstat.therm ≠ 3 →
      exec (.coreWake c) s = .next (s.setCore c { x with powered := true })) ∧
    (x.powered = true ∨ s.occupied c = false ∨ s.clk < x.idleAt + 3200 ∨ s.mstat.fatal = true ∨ s.mstat.therm = 3 →
      exec (.coreWake c) s = .refused (.notEnabled "CORE_WAKE")) ∧
    (∀ (b h : Nat) (l : Launch) (k : Block), s.firstWaiting = some (h, l) → s.block? b = some k →
      (∀ e ∈ s.blocks, ∀ r, e.2.pre = some r → r.own = false) → s.mstat.fatal = false → s.placeable h l = false →
      (∃ e ∈ s.victims l (s.effPrio 8 h), e.1 = b) → (∀ e ∈ s.victims l (s.effPrio 8 h), s.goesFirst (b, k) e = true) →
      k.pre = none → (∀ q, s.launch? k.launch = some q → q.coop = false) →
      exec (.distributorPreemptRequest b) s =
        .next (s.setBlock b { k with pre := some (PreReq.mk (s.clk + 1600000) [] false true 1 []) })) ∧
    (∀ (d : Nat) (a : Leaser), s.nextLease d = some a →
      a ∈ (s.die d).asking ∧ (∀ b ∈ (s.die d).asking, s.leaserPrio b ≤ s.leaserPrio a) ∧
      (s.mstat.therm.toNat < 2 → ∃ t : State, exec (.leaseGrant d) s = .next t ∧ t.mem = s.mem ∧
        (t.die d).asking = (s.die d).asking.erase a ∧ (t.die d).granted = (s.die d).granted ++ [a] ∧
        ∀ n y, a = .tile n → s.tile? n = some y → t.tile? n = some { y with lease := .held }) ∧
      (2 ≤ s.mstat.therm.toNat → exec (.leaseGrant d) s = .refused (.notEnabled "LEASE_GRANT")))

/-- R338 to R343: a block whose groups stand at safe points is refused for want of room in the save area, or taken: away
from its cores with its registers kept, its PREEMPTs answered 0, once the fault records that it owes are posted; past its limit it is
aborted with PREEMPT_TIMEOUT; restored, its groups stand on their new cores with the same registers and go on; aborted, it discards what
waits for an event that cannot come, and ends. The model's own readings and choices in it: log entries 16 and 17. -/
def Obligations.PreemptionSteps : Prop :=
  ∀ (s : State) (b g : Nat) (k : Block) (l : Launch) (x : Group), s.block? b = some k → s.launch? k.launch = some l →
    k.groups = [g] → s.group? g = some x → k.tiles = [] → l.coop = false →
    (∀ r, k.pre = some r → k.st = .running → r.deadline ≤ s.clk → exec (.blockTake b) s = .refused (.notEnabled "BLOCK_TAKE")) ∧
    (∀ r, k.pre = some r → k.st = .running → r.taking = false → s.clk < r.deadline → s.blockSafe k = true → s.notIssuing k = true →
      (s.imageFits l.ctx (s.imageSize b k l) = false → ∃ t : State, exec (.blockTake b) s = .next t ∧
        (t.block? b).map (fun y => (y.pre, y.st)) = some (none, .running)) ∧
      (s.imageFits l.ctx (s.imageSize b k l) = true → x.ops = [] → x.cont = none → s.owedRecords k = [] → ∃ (t : State) (y : Group),
        exec (.blockTake b) s = .next t ∧ t.group? g = some y ∧ y.resident = false ∧ y.v = x.v ∧ y.p = x.p ∧ y.s = x.s ∧
        y.threads = x.threads ∧ y.status = x.status ∧
        (∃ i, (t.block? b).map (fun y => (y.pre, y.st)) = some (none, .taken i) ∧ i.cores = k.cores) ∧
        ∀ core ∈ k.cores, ∀ n < 32, ((t.core core).bank n).holder ≠ some b)) ∧
    (∀ r q, k.pre = some r → r.taking = true → s.ctx? l.ctx = some q → (∃ e ∈ r.owed, e ∈ q.faults) →
      exec (.blockTake b) s = .refused (.notEnabled "BLOCK_TAKE")) ∧
    (∀ r, k.pre = some r → k.st = .running → r.deadline ≤ s.clk → l.outcome = none → l.doom = none → s.blocks = [(b, k)] →
      ∃ t : State, exec (.preemptTimeout b) s = .next t ∧ (t.launch? k.launch).map (·.doom) = some (some (1, 0x20)) ∧
        (t.block? b).map (·.st) = some .aborting) ∧
    (∀ r, k.pre = some r → s.clk < r.deadline → exec (.preemptTimeout b) s = .refused (.notEnabled "PREEMPT_TIMEOUT")) ∧
    (∀ i core part, k.st = .taken i → s.mstat.fatal = false → s.queued k.launch l = true →
      s.restoreSet k.launch l = [b] → x.status ≠ .ended →
      let at_ := s.baseCore k i [(core, part)] core
      let rooms := (allCores.filter (fun c => s.mayPass k.launch l [c])).map s.room
      s.mayPass k.launch l (nubNat (i.coresAt at_)) = true → s.fitBack k.launch l k i [(core, part)] at_ rooms ≠ none →
      (∀ q, s.findBackOne k.launch l k i rooms = some q →
        cheaper (s.placeCost rooms (i.coresAt q.2.1)) (s.placeCost rooms (i.coresAt at_)) = false) →
      ∃ (t : State) (y : Group), exec (.blockRestore b (Placement.mk [(core, part)] core)) s = .next t ∧ t.turn = l.ctx ∧
        (t.block? b).map (·.st) = some .running ∧ t.group? g = some y ∧ y.core = core ∧ y.part = part ∧ y.resident = true ∧
        y.v = x.v ∧ y.p = x.p ∧ y.s = x.s ∧ (x.core ∈ i.cores → (t.core core).lay = []) ∧
        (x.status = .ready → ∀ q < x.nthr, y.thread q =
          (if ∃ u, (x.thread q).st = .safe u then { x.thread q with st := .runnable } else x.thread q))) ∧
    (k.st = .aborting → ∀ o, x.ops.find? (s.blockedOp g x) = some o → exec (.blockAbort b) s = .next (s.discardOp g x o)) ∧
    (k.st = .aborting → x.ops.find? (s.blockedOp g x) = none → s.groupSpent g x = true → ∃ (t : State) (y : Group), exec (.blockAbort b) s = .next t ∧
      t.group? g = some y ∧ y.status = .ended ∧ y.resident = false ∧ y.ops = [] ∧
      (t.block? b).map (·.st) = some .ended ∧ (t.launch? k.launch).map (·.finished) = some (l.finished + 1))

/-! ### The tile stream -/

/-- R90, R189, R190: NOP, moves, immediates in their three modes, sums modulo 2^64, branches on T*a*, format registers; a value
that is no format is FORMAT, a target out of range TARGET. -/
def Sys2Proof.Claims.TileScalars : Prop :=
  ∀ (s : State) (k : Issue) (c : Nat) (x : Tile) (f : TFmt),
    let u := k.unit.toNat
    let a := x.rt f.ta.toNat
    let old := x.rt f.td.toNat
    let target : Int := u + f.imm.toInt
    let fmt := if f.mod.getLsbD 0 then f.imm.toNat else a.toNat
    (∀ v, Tiled s k c x (.nop v) → TileCompletes s k c (.nop v) (fun y => y = x)) ∧
    (Tiled s k c x (.tsmov f) → TileCompletes s k c (.tsmov f) (fun y => WritesT x y f.td.toNat a)) ∧
    (Tiled s k c x (.tsmovi f) → (Instr.tsmovi f).wf = true → TileCompletes s k c (.tsmovi f) (fun y => ∃ w, WritesT x y f.td.toNat w ∧
      (f.mod.toNat % 4 = 0 → w.toInt = f.imm.toInt) ∧ (f.mod.toNat % 4 = 1 → w.toNat = f.imm.toNat) ∧
      (f.mod.toNat % 4 = 2 → w.toNat = f.imm.toNat * 2 ^ 32 + old.toNat % 2 ^ 32))) ∧
    (Tiled s k c x (.tsadd f) → TileCompletes s k c (.tsadd f) (fun y => WritesT x y f.td.toNat
      (a + if f.mod.getLsbD 0 then BitVec.ofInt 64 f.imm.toInt else x.rt f.tb.toNat))) ∧
    (∀ (i : Instr) (taken : Prop),
      (i, taken) ∈ ([(.tloop f, 0 < a.toInt), (.tbra f,
        ([decide (a.toInt = 0), decide (a.toInt ≠ 0), decide (a.toInt < 0), decide (0 ≤ a.toInt), decide (0 < a.toInt),
          decide (a.toInt ≤ 0), true] : List Bool).getD (f.mod.toNat % 8) false = true)] : List (Instr × Prop)) →
      i.wf = true → Tiled s k c x i →
      (¬ taken → TileCompletes s k c i (fun y => y = x)) ∧
      (taken → LegalTarget s (s.ctxOf x.launch) target →
        exec i s = .next ({ s with issue := k.follow }.setTile c { x with tpc := BitVec.ofNat 53 target.toNat })) ∧
      (taken → target < 0 ∨ 5 * 2 ^ 50 ≤ target → exec i s = .next (s.faultTile c (k.mark (mkFault 0x03 0 none)) k.unit))) ∧
    (Tiled s k c x (.tfmt f) →
      (fmtRegOk fmt = true → TileCompletes s k c (.tfmt f) (fun y => y = { x with f := x.f.set f.fa.toNat (BitVec.ofNat 64 fmt) })) ∧
      (fmtRegOk fmt = false → exec (.tfmt f) s = .next (s.faultTile c (k.mark (mkFault 0x14 0 none)) k.unit)))

/-- R101, R191, R192, R318: TARR and TEND wait for older matrix work; TARR arrives, or waits while its arrival is held; TWAIT
waits while it is; a set of which the context is no member is SETS; TEND ends the context and gives up its lease, and what the
kernel held is lost where the block ends with it. -/
def Sys2Proof.Claims.TileSetsAndEnd : Prop :=
  ∀ (s : State) (k : Issue) (c : Nat) (x : Tile) (b : Block) (f : TFmt),
    let n := f.imm.toNat
    let me := 2048 + x.number
    let d := s.setDef x.launch n
    let st := s.setState x.block n
    let waits := fun (i : Instr) (w : TWait) => exec i s = .next ({ s with issue := none }.setTile c { x with wait := some w })
    s.block? x.block = some b → b.launch = x.launch →
    (∀ i ∈ [Instr.tarr f, .tend f], Tiled s k c x i → x.flight ≠ [] → waits i .drained) ∧
    (∀ i ∈ [Instr.tarr f, .twait f], Tiled s k c x i → (i = .tarr f → x.flight = []) → x.number ∉ d.tiles →
      exec i s = .next (s.faultTile c (k.mark (mkFault 0x13 0 none)) k.unit)) ∧
    (∀ i ∈ [Instr.tarr f, .twait f], Tiled s k c x i → (i = .tarr f → x.flight = []) → x.number ∈ d.tiles → me ∈ st.arrived →
      waits i (.phase n)) ∧
    (Tiled s k c x (.twait f) → x.number ∈ d.tiles → me ∉ st.arrived → TileCompletes s k c (.twait f) (fun y => y = x)) ∧
    (Tiled s k c x (.tarr f) → x.flight = [] → x.number ∈ d.tiles → me ∉ st.arrived → ∃ t : State,
      exec (.tarr f) s = .next t ∧ t.mem = s.mem ∧ t.tile? c = some { x with tpc := k.unit + 1, got := [], bad := badAfter k x.bad } ∧
      t.setState x.block n = if ∀ m ∈ d.members, m ∈ st.arrived ∨ m = me ∨ s.memberGone b m = true
        then SetState.mk (st.phase + 1) [] else SetState.mk st.phase (st.arrived ++ [me])) ∧
    (Tiled s k c x (.tend f) → x.flight = [] → ∃ (t : State) (y : Tile), exec (.tend f) s = .next t ∧ t.tile? c = some y ∧
      y.status = .ended ∧ y.lease = .none ∧ (y.t = x.t ∧ y.tpc = k.unit + 1 ∨
        y.t = [] ∧ y.tpc = 0 ∧ (t.block? x.block).map (·.st) = some .ended) ∧
      Leaser.tile c ∉ (t.die (x.core / 32)).asking ∧ Leaser.tile c ∉ (t.die (x.core / 32)).granted)

/-- R90, R101, R189 to R192, R318: the scalar instructions, sets and ends of the tile stream. -/
def Obligations.TileInstructions : Prop := Claims.TileScalars ∧ Claims.TileSetsAndEnd

/-- R193, R196, R203, R207, R286, R318: a matrix or winner-list instruction whose checks pass enters flight with the T and F
values of its issue, MMA, MMAC and MMK then advancing their bases; with four in flight, or without its stream's lease, a matrix
instruction waits. -/
def Obligations.MatrixIssue : Prop :=
  ∀ (s : State) (k : Issue) (c : Nat) (x : Tile) (f : TFmt),
    let ta := f.ta.toNat
    let tb := f.tb.toNat
    let pitch := fun (r : Nat) => BitVec.ofInt 64 (sint 24 (bits (x.rt (r + 1)).toNat 24 24))
    let enters := fun (i : Instr) (floor : Nat) (words : List (BitVec 32)) (spans : List (Nat × Nat)) (theta : List Entry) (P : Tile → Prop) =>
      ∃ (t : State) (y : Tile), exec i s = .next t ∧ t.tile? c = some y ∧ t.mem = s.mem ∧ t.cores = s.cores ∧ P y ∧
      y = { x with
        t := y.t, tpc := k.unit + 1, got := [], bad := badAfter k x.bad,
        flight := x.flight ++ [Inflight.mk i k.unit x.t x.f floor false [] words 0 (s.leavesOf (s.ctxOf x.launch) spans)
          (operandLines i x.t x.core) [] theta k.slot2] }
    let still := fun (l : List (Nat × Nat)) => s.switchingOf (banksOf l) = none
    let moved := fun (y : Tile) => (∀ q, q ≠ ta → q ≠ tb → y.rt q = x.rt q) ∧
      (f.mod.getLsbD 0 = true → f.mod.getLsbD 1 = false ∨ ta ≠ tb → y.rt ta = x.rt ta + pitch ta) ∧
      (f.mod.getLsbD 1 = true → f.mod.getLsbD 0 = false ∨ (ta ≠ tb ∧ ta ≠ tb + 1) → y.rt tb = x.rt tb + pitch tb) ∧
      (f.mod.getLsbD 0 = false → f.mod.getLsbD 1 = false → y.t = x.t)
    let side := s.sideFailures x (descOf x.t ta) true
    let w := s.list x.core f.wn.toNat
    let matrix := [Instr.tnorm f, .mma f, .mmac f, .mmk f]
    let list := [Instr.wlinit f, .wlflr f, .wlst f, .wlmrg f]
    let g := targetOf x.t f
    (∀ i ∈ matrix ++ list, Tiled s k c x i → 4 ≤ x.flight.length →
      exec i s = .next ({ s with issue := none }.setTile c { x with wait := some .flight })) ∧
    (∀ i ∈ matrix, Tiled s k c x i → x.flight.length < 4 → x.lease = .none → ∃ t : State, exec i s = .next t ∧ t.mem = s.mem ∧
      t.tile? c = some { x with lease := .asked, wait := some .lease } ∧ Leaser.tile c ∈ (t.die (x.core / 32)).asking) ∧
    (Tiled s k c x (.tnorm f) → x.flight.length < 4 → x.lease = .held → still (operandLines (.tnorm f) x.t x.core ++ sideLines x f) →
      s.operandA x f false ++ side = [] → enters (.tnorm f) 0 [] [] [] (fun y => y.t = x.t)) ∧
    (Tiled s k c x (.mma f) → x.flight.length < 4 → x.lease = .held → still (operandLines (.mma f) x.t x.core) →
      s.operandA x f false ++ s.operandB x f false ++ formatFailures x f = [] → s.holdsMatrix x.core x.block = true →
      enters (.mma f) 0 [] [] [] moved) ∧
    (Tiled s k c x (.mmac f) → x.flight.length < 4 → x.lease = .held → still (operandLines (.mmac f) x.t x.core) →
      s.operandA x f false ++ s.operandB x f false ++ formatFailures x f = [] → g.ok = true →
      (∀ p ∈ g.spans, s.addFailures (s.ctxOf x.launch) p.1 p.2 = []) → enters (.mmac f) 0 [] g.spans [] moved) ∧
    (Tiled s k c x (.mmk f) → x.flight.length < 4 → x.lease = .held → still (operandLines (.mmk f) x.t x.core) →
      s.operandA x f true ++ s.operandB x f true ++ formatFailures x f ++ s.listFailures x f.wn.toNat true = [] →
      (x.rt f.tc.toNat).toNat + 63 < 2 ^ 32 - 1 → enters (.mmk f) (s.sampleFloor x f.wn.toNat) [] []
        (w.rows.map (fun r => (r[w.k - 1]?).getD unfilled)) moved) ∧
    (Tiled s k c x (.wlinit f) → x.flight.length < 4 → s.listFailures x f.wn.toNat false = [] →
      enters (.wlinit f) 0 [] [] [] (fun y => y.t = x.t)) ∧
    (Tiled s k c x (.wlflr f) → x.flight.length < 4 → s.listFailures x f.wn.toNat true = [] →
      enters (.wlflr f) 0 [] [] [] (fun y => y.t = x.t)) ∧
    (let a := (x.rt ta).toNat
     let size := fun q => 320 + 512 * q
     let image := fun q => s.imageRead x (imageSp f) a q
     let kk := ofLe (image 4)
     (Tiled s k c x (.wlst f) → x.flight.length < 4 → a % 64 = 0 → s.listFailures x f.wn.toNat true = [] →
       still (imageLines x f a (size (s.listAhead x f.wn.toNat).1)) →
       s.imageFailures x (imageSp f) true a (size (s.listAhead x f.wn.toNat).1) = [] →
       enters (.wlst f) 0 [] (if imageSp f then [] else [(a, size (s.listAhead x f.wn.toNat).1)]) [] (fun y => y.t = x.t)) ∧
     (Tiled s k c x (.wlmrg f) → x.flight.length < 4 → a % 64 = 0 → s.listFailures x f.wn.toNat true = [] →
       (∀ e ∈ x.flight, ∀ q, e.instr ≠ .wlst q) → still (imageLines x f a 64) → still (imageLines x f a (size kk)) →
       s.imageFailures x (imageSp f) false a 64 = [] → 1 ≤ kk → kk ≤ 32 →
       s.imageFailures x (imageSp f) false a (size kk) = [] →
       (imageSp f = true → s.emptyIn x a 64 = none ∧ s.emptyIn x a (size kk) = none) →
       enters (.wlmrg f) (s.sampleFloor x f.wn.toNat) (words32 (size kk / 4) (image (size kk))) [] [] (fun y => y.t = x.t)))

/-- R196 to R207, R286, R289, R290: the oldest uncommitted instruction commits once its operand lines are full: TNORM writes a
sidecar for every step, MMA puts 64 rows into the queue where there is room, MMK selects, never inserts a cell of a row or column
with an unsound sidecar for which the test of R205 holds against the entries of its issue, and may miss only such a cell for which
it holds against those or the entries of its commit; its audit records whether a sidecar was unsound, the list instructions act on
their list; data gone bad since issue is MACHINE_CHECK at the instruction (R384). The model's own readings and choices in it: log
entries 11 and 45. -/
def Obligations.MatrixCommits : Prop :=
  ∀ (s : State) (c : Nat) (x : Tile) (e : Inflight) (f : TFmt), s.tile? c = some x → x.discarded.head? = some e →
    x.live = true → s.operandsFull e = true →
    let w := s.list x.core f.wn.toNat
    let v := s.overlay e.got
    let A := v.operand x e f false
    let B := v.operand x e f true
    let sideA := (descOf e.t f.ta.toNat).side
    let sideB := (descOf e.t f.tb.toNat).side
    let g0 := tReg e.t f.tc.toNat
    let queue := (s.core x.core).queue
    let fails := fun (th : List Entry) (i j : Nat) => ¬ (v.rowSound x.core sideA A i = true ∧ v.rowSound x.core sideB B j = true) ∧
      abandons e.floor ((th[i]?).getD unfilled) (g0 + j) (A.getD i []) (B.getD j [])
        ((List.range 8).map (v.sideAt x.core sideA i)) ((List.range 8).map (v.sideAt x.core sideB j)) = true
    let rest := dropFirst (fun d => !d.applied) x.flight
    let leaves := fun (t : State) => (t.tile? c).map (·.flight) = some rest
    let left := fun (t : State) => (t.tile? c).map (fun y => y.flight.map (fun d => (d.instr, d.unit))) =
      some (rest.map (fun d => (d.instr, d.unit)))
    let lists := fun (w2 : WList) => ∃ t : State, exec (.matrixCommit c) s = .next t ∧ left t ∧ t.mem = s.mem ∧
      (e.instr ≠ .wlinit f → leaves t) ∧
      t.list x.core f.wn.toNat = w2 ∧ ∀ q, q ≠ f.wn.toNat → t.list x.core q = s.list x.core q
    (∀ a, s.operandBad x e = some a → (e.instr = .mma f ∧ queue.length ≤ 192) ∨ e.instr = .tnorm f ∨ e.instr = .mmk f ∨
      e.instr = .wlst f ∨ e.instr = .wlmrg f ∨ e.instr = .wlflr f →
      exec (.matrixCommit c) s = .next (s.faultTile c { mkFault 0x0D a none with slot2 := e.slot2 } e.unit)) ∧
    (s.operandBad x e = none →
    (e.instr = .tnorm f → ∃ t : State, exec (.matrixCommit c) s = .next t ∧ left t ∧ t.mem = s.mem ∧
      (gaOf f = false → (descOf e.t f.ta.toNat).side + 2048 ≤ 2 ^ 22 → ∀ i < 64, ∀ q < 8,
        t.spRead x.core ((descOf e.t f.ta.toNat).side + 32 * i + 4 * q) 4 = leBytes 4 (normCode ((A.getD i []).getD q [])))) ∧
    (e.instr = .mma f → queue.length ≤ 192 → ∃ t : State, exec (.matrixCommit c) s = .next t ∧ leaves t ∧ t.mem = s.mem ∧
      (t.core x.core).queue = queue ++ A.map (fun ra => B.map (fun rb => BitVec.ofNat 32 (cellValue ra rb)))) ∧
    (e.instr = .mma f → 192 < queue.length → exec (.matrixCommit c) s = .refused (.notEnabled "MATRIX_COMMIT")) ∧
    (e.instr = .mmk f → f.mod.getLsbD 2 = false → ∃ miss : Nat → Nat → Bool,
      lists (w.select e.floor g0 miss (productTile A B)) ∧
      ∀ i j, (fails e.theta i j → miss i j = true) ∧
        (miss i j = true → fails e.theta i j ∨ fails (w.rows.map (fun r => (r[w.k - 1]?).getD unfilled)) i j)) ∧
    (e.instr = .mmk f → f.mod.getLsbD 2 = true → ∃ w2 : WList, lists w2 ∧
      w2 = { w.select e.floor g0 (fun _ _ => false) (productTile A B) with audit := w2.audit } ∧
      (w.audit ≠ none → w2.audit = w.audit) ∧
      (w.audit = none → (w2.audit = none ↔ ∀ p ∈ tileCells,
        sideSound false (v.sideAt x.core sideA p.1 p.2) ((A.getD p.1 []).getD p.2 []) = true ∧
        sideSound false (v.sideAt x.core sideB p.1 p.2) ((B.getD p.1 []).getD p.2 []) = true))) ∧
    (e.instr = .wlinit f → lists (WList.mk f.imm.toNat
      (List.replicate 64 (List.replicate f.imm.toNat (0xFFFFFFFF, 0xFF800000))) (List.replicate 64 0) none none)) ∧
    (e.instr = .wlflr f → lists { w with floor := if f.mod.getLsbD 0 then some (f.imm.toNat % 16) else none }) ∧
    (e.instr = .wlmrg f → lists (w.merge e.floor e.words)) ∧
    (e.instr = .wlst f → ∃ t : State, exec (.matrixCommit c) s = .next t ∧ left t ∧
      (∀ pa, imageSp f = false → OnePage (tReg e.t f.ta.toNat) w.image.length →
        (s.asFlight x e).pa? (s.ctxOf x.launch) (tReg e.t f.ta.toNat) = some pa → t.bytes pa w.image.length = w.image) ∧
      (imageSp f = true → t.mem = s.mem)))

/-- R200, R201, R384, R386: at the tag's home a contribution already recorded is dropped; one in order waits for those before it;
else its bit is added to the tag and it goes to its 128 lines, each of which adds its 32 sums in release order; a lost tag, or
an operand gone bad since issue, is MACHINE_CHECK, and a lost line stays lost. -/
def Sys2Proof.Claims.MatrixAccumulates : Prop :=
  ∀ (s : State) (c : Nat) (x : Tile) (e : Inflight) (f : TFmt), s.tile? c = some x → e.instr = .mmac f →
    let q := s.ctxOf x.launch
    let g := targetOf e.t f
    let v := s.asFlight x e
    let tag := v.vnum q g.tag 128
    let first := fun (d : Inflight) => !d.applied
    let lost := fun (a : Nat) => (v.spanFailures q a 128 .read none none).any (fun p => p.order == 8)
    (x.discarded.head? = some e → x.live = true → s.operandsFull e = true → lost g.tag = true →
      exec (.mmacTagStep c) s = .next (s.faultTile c { mkFault 0x0D g.tag none with slot2 := e.slot2 } e.unit)) ∧
    (x.discarded.head? = some e → x.live = true → s.operandsFull e = true → lost g.tag = false → g.n < 1024 →
      (tag.testBit g.n = true → exec (.mmacTagStep c) s = .next (s.setTile c { x with flight := dropFirst first x.flight })) ∧
      (tag.testBit g.n = false → f.mod.getLsbD 3 = true → tag % 2 ^ g.n ≠ 2 ^ g.n - 1 →
        exec (.mmacTagStep c) s = .refused (.notEnabled "MMAC_TAG_STEP")) ∧
      (∀ a, tag.testBit g.n = false → (f.mod.getLsbD 3 = true → tag % 2 ^ g.n = 2 ^ g.n - 1) → s.operandBad x e = some a →
        exec (.mmacTagStep c) s = .next (s.faultTile c { mkFault 0x0D a none with slot2 := e.slot2 } e.unit)) ∧
      (tag.testBit g.n = false → (f.mod.getLsbD 3 = true → tag % 2 ^ g.n = 2 ^ g.n - 1) → s.operandBad x e = none → ∃ t : State,
        exec (.mmacTagStep c) s = .next t ∧
        (t.tile? c).map (·.flight) = some (changeFirst first (fun d => { d with
          applied := true, lines := g.lines, release := s.stepNo,
          words := (productTile (v.operand x e f false) (v.operand x e f true)).flatten }) x.flight) ∧
        ∀ pa, OnePage g.tag 128 → v.pa? q g.tag = some pa → t.num pa 128 = tag + 2 ^ g.n)) ∧
    (∀ line pa, x.flight.find? (fun d => d.applied && d.lines.contains line) = some e → v.pa? q line = some pa →
      (s.earlierOn pa e.release = true → exec (.mmacLineApply c line) s = .refused (.notEnabled "MMAC_LINE_APPLY")) ∧
      (s.earlierOn pa e.release = false → ∃ t : State, exec (.mmacLineApply c line) s = .next t ∧
        (e.lines.erase line ≠ [] → (t.tile? c).map (·.flight) = some (changeFirst (fun d => d.applied && d.lines.contains line)
          (fun d => { d with lines := e.lines.erase line }) x.flight)) ∧
        (e.lines.erase line = [] → (t.tile? c).map (·.flight) =
          some (dropFirst (fun d => d.applied && d.lines.contains line) x.flight)) ∧
        (lost line = true → t.mem = s.mem) ∧
        (lost line = false → OnePage line 128 → (e.sumsOn g line).length = 32 →
          (∀ j < 32, t.num (pa + 4 * j) 4 =
            addF32 (v.vnum q (wrap64 (line + 4 * j)) 4) ((e.sumsOn g line).getD j 0).toNat % 2 ^ 32) ∧
          ∀ a, a < pa ∨ pa + 128 ≤ a → t.byte a = s.byte a)))

/-- R199, R208, R384: AQPOP gives the oldest row of the queue, columns 2*t* and 2*t* + 1 to thread *t*, in the order in which the groups
came, and waits for a row; WLRD gives entry *t* of a list's row; without the queue or the list both are WINNER, cause 0x15 of R335, and
a row or a list that cannot be corrected is MACHINE_CHECK, whose record names the lowest enabled thread (log entry 37, DEDUCED). -/
def Sys2Proof.Claims.QueueAndListReads : Prop :=
  ∀ (s : State) (k : Issue) (g : Nat) (x : Group) (f : VFmt),
    let on := x.enabledSet f.g k.active 0
    let core := s.core x.core
    let w := s.list x.core f.subop.toNat
    (∀ i ∈ [Instr.aqpop f, .wlrd f], Issued s k g x i → on = [] → Completes s k g i (fun y => y = x)) ∧
    (∀ i ∈ [Instr.aqpop f, .wlrd f], Issued s k g x i → on ≠ [] → core.holder ≠ some x.block ∨ (i = .wlrd f ∧ w.k = 0) →
      ∃ (t : State) (y : Group) (r : FaultRec), exec i s = .next t ∧ t.group? g = some y ∧ y.status = .faulted r none ∧
        r.info.cause = 0x15) ∧
    (Issued s k g x (.aqpop f) → on ≠ [] → core.holder = some x.block →
      (core.queue = [] ∨ s.popTurn x.core g = false → ∃ t : State, exec (.aqpop f) s = .next t ∧ t.mem = s.mem ∧
        (t.core x.core).queue = core.queue ∧ g ∈ (t.core x.core).poppers ∧ t.group? g = some { x with wait := some .queue }) ∧
      (core.queue ≠ [] → s.popTurn x.core g = true → core.badRow = true →
        Faults s k g (.aqpop f) { mkFault 0x0D 0 none with thread := some (on.headD 0) } (maskOf on)) ∧
      (∀ row rest, core.queue = row :: rest → s.popTurn x.core g = true → core.badRow = false → ∃ (t : State) (y : Group),
        exec (.aqpop f) s = .next t ∧ t.mem = s.mem ∧ t.group? g = some (y.advance k) ∧ (t.core x.core).queue = rest ∧
        WritesV x y on f.d.toNat (fun th =>
          BitVec.ofNat 64 ((row.getD (2 * th) 0).toNat + (row.getD (2 * th + 1) 0).toNat * 2 ^ 32)))) ∧
    (Issued s k g x (.wlrd f) → on ≠ [] → core.holder = some x.block → w.k ≠ 0 → core.badList f.subop.toNat = true →
      Faults s k g (.wlrd f) { mkFault 0x0D 0 none with thread := some (on.headD 0) } (maskOf on)) ∧
    (Issued s k g x (.wlrd f) → on ≠ [] → core.holder = some x.block → w.k ≠ 0 → core.badList f.subop.toNat = false →
      Completes s k g (.wlrd f) (fun y =>
      WritesV x y on f.d.toNat (fun th =>
        let e := (w.rows.getD f.xa.toNat []).getD th (0xFFFFFFFF, 0xFF800000)
        BitVec.ofNat 64 (e.1.toNat + e.2.toNat * 2 ^ 32))))

/-- R199 to R201, R208: what a matrix operation adds, and what queue and list reads answer. -/
def Obligations.MatrixArithmetic : Prop := Claims.MatrixAccumulates ∧ Claims.QueueAndListReads

/-! ### Neighbour lists, KV table, prefix index, collectives -/

/-- R209 to R214, R296, R303, R385: NLBIN and NLSWEEP reach the die's engines in order of their descriptors, or with a descriptor
whose data is lost end failed; NLBIN writes the status of what it binned; up to four engines (one with ORD) each start a cell, test
it, which a stale particle makes the last, and push its pairs in order; the end pushes the end record; NLSTAT reads the status. The
model's own readings and choices in it: log entries 44, 85, 87 and 97 (DEDUCED: the lost descriptor's failed operation). -/
def Obligations.Neighbours : Prop :=
  ∀ (s : State) (g : Nat) (x : Group) (f : EFmt),
    let c := s.ctxOf x.launch
    let d := x.core / 32
    (∀ (k : Issue) (i : Instr) (sweep : Bool), (i, sweep) ∈ ([(.nlbin f, false), (.nlsweep f, true)] : List (Instr × Bool)) →
      Issued s k g x i →
      let lead := maskOf [leader k.active]
      let a := (x.rs f.sa.toNat).toNat
      let bank := f.imm.toNat % 32
      let gr := gridOf (s.cachedRead x.core c 2 a 128)
      let ref := OpRef.mk g x.nextOp
      (x.enabled f.g (leader k.active) 0 = false → Completes s k g i (fun y => y = x)) ∧
      (x.enabled f.g (leader k.active) 0 = true → x.count .cp < 63 → s.gridFailures x a sweep = [] →
        (sweep = true → ((s.core x.core).bank bank).mode = .fifo ∧ ((s.core x.core).bank bank).switching = false) →
        ∃ (t : State) (y : Group), exec i s = .next t ∧ t.group? g = some (y.advance k) ∧ t.mem = s.mem ∧ SameRegs x y ∧
          (∀ b, s.descBad x.core c 2 a 128 = some b → Outstanding x y i .cp lead .idle ∧ y.ops.getLast?.map (·.failed) = some (some b)) ∧
          (s.descBad x.core c 2 a 128 = none →
            Outstanding x y i .cp lead (if sweep then .sweep gr bank (List.range gr.cells) [] 0 none else .bin gr) ∧
            (t.die d).neigh.map (·.1) = (s.die d).neigh.map (·.1) ++ [ref] ∧
            (sweep = true → Leaser.op ref ∈ (t.die d).asking)))) ∧
    (∀ k : Issue, Issued s k g x (.nlstat f) →
      let a := wrap64 ((x.rs f.sa.toNat).toNat + 0x40)
      let st := ofLe (s.cachedRead x.core c 2 a 8)
      (x.enabled f.g (leader k.active) 0 = false → Completes s k g (.nlstat f) (fun y => y = x)) ∧
      (x.enabled f.g (leader k.active) 0 = true → s.spanFailures c a 8 .read none none = [] →
        s.cacheFailures x.core c 2 a 8 none = [] → s.spanFailures c st 8 .read none none = [] → ∃ (t : State) (y : Group), exec (.nlstat f) s = .next t ∧
          t.group? g = some (y.advance k) ∧ t.mem = s.mem ∧ WritesS x y f.sd.toNat (BitVec.ofNat 64 (s.vnum c st 8)))) ∧
    (∀ (n : Nat) (o : Op) (gr : Grid),
      let ref := OpRef.mk g n
      let ended := fun (t : State) => (t.opAt? ref).map (fun p => (p.2.work, p.2.done)) = some (.idle, true) ∧
        (t.die d).neigh = (s.die d).neigh.filter (fun p => p.1 != ref)
      let v := s.as g n
      s.group? g = some x → x.op? n = some o → s.neighTurn d ref = true →
      (o.work = .bin gr → v.badSpan c gr.pos (16 * gr.npart) true = none →
        let l := v.binned c gr
        let cell := fun j => (l.filter (fun p => p.2.1 == j)).map (fun p => (p.1, p.2.2))
        v.badIn c ((gr.status, 64) :: (List.range gr.cells).flatMap (fun j => gr.cellSpans j (min gr.cap (cell j).length))) false = none →
        let past := ((List.range gr.cells).filter (fun j => gr.cap < (cell j).length)).length
        let s1 := (List.range gr.cells).foldl (fun (q : State) j => q.writeCell c gr j (cell j)) v
        ∃ t : State, exec (.nlbinComplete g n) s = .next t ∧ ended t ∧ ∀ pa, OnePage gr.status 64 → s1.pa? c gr.status = some pa →
          t.num pa 4 = (if past = 0 then 1 else 5) ∧ t.num (pa + 4) 4 = (gr.npart - l.length) % 2 ^ 32 ∧
          t.num (pa + 8) 4 = past % 2 ^ 32) ∧
      (∀ bank cell left out pairs stale, o.work = .sweep gr bank left out pairs stale → enFmt? o.instr = some f →
        Leaser.op ref ∈ (s.die d).granted →
        let b := (s.core x.core).bank bank
        let found := v.visitCell c gr cell
        let others := out.filter (fun e => e.1 != cell)
        let goes := fun (P : State → Prop) (w : Work) => ∃ t : State, exec (.nlsweepCellVisit g n cell) s = .next t ∧ t.mem = s.mem ∧
          (t.opAt? ref).map (·.2.work) = some w ∧ P t
        (out.find? (fun e => e.1 == cell) = none → cell ∈ left → (f.ext = 1 → left.head? = some cell ∧ out = []) → out.length < 4 →
          goes (fun t => t.cores = s.cores) (.sweep gr bank (left.erase cell) (out ++ [(cell, none)]) pairs stale)) ∧
        (out.find? (fun e => e.1 == cell) = some (cell, none) → v.visitBad c gr cell = none →
          (found.1 = [] → goes (fun t => t.cores = s.cores) (.sweep gr bank left
            (out.map (fun e => if e.1 = cell then (cell, some found.2) else e)) (pairs + found.2.length) stale)) ∧
          (∀ p, least found.1 = some p → goes (fun t => t.cores = s.cores) (.sweep gr bank [] others pairs
            (some (match stale with | some q => (min q.1 cell, min q.2 p) | none => (cell, p)))))) ∧
        (∀ r rest, out.find? (fun e => e.1 == cell) = some (cell, some (r :: rest)) → s.mayPush x.core bank (.op g n) = true →
          goes (fun t => ((t.core x.core).bank bank).slots = b.slots ++ [some r])
            (.sweep gr bank left (if rest = [] then others else out.map (fun e => if e.1 = cell then (cell, some rest) else e)) pairs stale))) ∧
      (∀ bank pairs stale, o.work = .sweep gr bank [] [] pairs stale → s.mayPush x.core bank (.op g n) = true →
        v.badSpan c gr.status 64 true = none →
        let b := (s.core x.core).bank bank
        ∃ (t : State) (rec_ : List Byte), exec (.nlsweepEnd g n) s = .next t ∧ ended t ∧
          ((t.core x.core).bank bank).slots = b.slots ++ [some rec_] ∧ Producer.op g n ∉ ((t.core x.core).bank bank).line ∧
          rec_.length = 32 ∧
          numAt rec_ 0 4 = 2 ^ 32 - 1 ∧ numAt rec_ 16 8 = pairs % 2 ^ 64 ∧ numAt rec_ 28 4 = 2 ^ 31 ∧
          ∀ pa, OnePage gr.status 64 → v.pa? c gr.status = some pa → t.num pa 4 = numAt rec_ 4 4))

/-- R215 to R217: a KV instruction leaves issue with its threads; each step acts for the next thread: a lookup finds the
entry of its key in the window and its REF, an insertion of a present key answers 1, and KVREF counts up and down, refuses a
pinned or missing entry. The model's own readings and choices in it: log entries 46, 82, 83 and 88. -/
def Sys2Proof.Claims.KvTable : Prop :=
  ∀ (s : State) (g : Nat) (x : Group) (f : EFmt),
    let c := s.ctxOf x.launch
    (∀ (k : Issue) (i : Instr) (write : Bool),
      (i, write) ∈ ([(.kvx f, false), (.kvins f, true), (.kvref f, true)] : List (Instr × Bool)) → Issued s k g x i →
      let on := x.enabledSet f.g k.active 0
      (on = [] → Completes s k g i (fun y => y = x)) ∧
      (on ≠ [] → x.count .en < 63 → s.kvFailures c (x.rs f.sa.toNat).toNat write = [] → ∃ (t : State) (y : Group),
        exec i s = .next t ∧ t.group? g = some (y.advance k) ∧ t.mem = s.mem ∧ SameRegs x y ∧
        Outstanding x y i .en (maskOf on) (.threads on) ∧
        y.ops.getLast?.map (·.sargs) = some [x.rs f.sa.toNat])) ∧
    (∀ (n th : Nat) (rest : List Nat) (o : Op), s.group? g = some x → x.op? n = some o → o.work = .threads (th :: rest) →
      th < 32 → f.pf ≠ 15 →
      let h := (o.sargs.getD 0 0).toNat
      let own := s.as g n
      let at_ := fun (off q : Nat) => own.vnum c (wrap64 (h + off)) q
      let e := own.vnum c (h + 8) 4
      let v := (x.rv th f.vx.toNat).toNat
      let seq := v % 2 ^ 32
      let blk := v / 2 ^ 32
      let ent := fun p => 0x40 + 16 * p
      let valid := fun p => (at_ (ent p + 10) 2).testBit 0
      let pinned := fun p => (at_ (ent p + 10) 2).testBit 1
      let hit := fun p => valid p = true ∧ at_ (ent p) 4 = seq ∧ at_ (ent p + 4) 4 = blk
      let b := (seq * 64 + blk * 5) % e
      let window := (List.range 8).map (fun r => (b + r) % e)
      let answers := fun (i : Instr) (w0 w1 : Nat) (ok : Bool) (P : State → Prop) => o.instr = i → ∃ (t : State) (y : Group),
        exec (.kvStep g n) s = .next t ∧ t.group? g = some y ∧ y.rv th f.vx.toNat = BitVec.ofNat 64 (w0 + w1 * 2 ^ 32) ∧
        y.rp th f.pf.toNat = (if ok then 0xFF else 0) ∧ y.s = x.s ∧ P t ∧
        (y.op? n).map (fun q => (q.work, q.done)) = some (if rest = [] then (.idle, true) else (.threads rest, o.done))
      own.badIn c ((h, 64) :: ((Kv.mk own c h e []).touched o.instr v).map (fun q => (wrap64 (h + q.1), q.2))) true = none →
      (∀ p pre post, window = pre ++ p :: post → hit p → (∀ q ∈ pre, ¬ hit q) →
        answers (.kvx f) p (at_ (ent p + 8) 2) true (fun t => t.mem = s.mem) ∧
        answers (.kvins f) p 1 false (fun t => t.mem = s.mem)) ∧
      ((∀ p ∈ window, ¬ hit p) → at_ (0x40 + 16 * e + 4 * b) 4 = 2 ^ 32 - 1 →
        answers (.kvx f) (2 ^ 32 - 1) 0 false (fun t => t.mem = s.mem) ∧
        ∀ p, (∃ pre post, window = pre ++ p :: post ∧ valid p = false ∧ pinned p = false ∧
          ∀ q ∈ pre, valid q = true ∨ pinned q = true) → answers (.kvins f) p 0 true (fun _ => True)) ∧
      (e ≤ seq → answers (.kvref f) 0 3 false (fun t => t.mem = s.mem)) ∧
      (seq < e → pinned seq = true → answers (.kvref f) 0xFFFF 1 false (fun t => t.mem = s.mem)) ∧
      (seq < e → pinned seq = false → f.ext ≠ 1 → valid seq = false →
        answers (.kvref f) (at_ (ent seq + 8) 2) 2 false (fun t => t.mem = s.mem)) ∧
      (∀ r, r = at_ (ent seq + 8) 2 → seq < e → pinned seq = false → valid seq = true →
        let becomes := fun (z : Nat) (t : State) => ∀ pa, OnePage (wrap64 (h + (ent seq + 8))) 2 →
          own.pa? c (wrap64 (h + (ent seq + 8))) = some pa → t.num pa 2 = z
        (f.ext ≠ 1 → r < 0xFFFE → answers (.kvref f) (r + 1) 0 true (becomes (r + 1))) ∧
        (f.ext = 1 → 2 ≤ r → answers (.kvref f) (r - 1) 0 true (becomes (r - 1)))))

/-- R218 to R221: PFXH gives each thread the hash of as many blocks as its number says; PFXL leaves issue and its step gives
the verified blocks and the collisions; PFXI's step writes a free slot, or tells that the entry stands, that no slot is
free, or that its fields break a limit. The model's own readings and choices in it: log entries 22, 47, 86 and 89. -/
def Sys2Proof.Claims.PrefixIndex : Prop :=
  ∀ (s : State) (g : Nat) (x : Group) (f : EFmt),
    let c := s.ctxOf x.launch
    let a := (x.rs f.sa.toNat).toNat
    let n := f.imm.toNat % 64 + 1
    let seed := match s.launch? x.launch with | some l => l.seed.toNat | none => 0
    (∀ (k : Issue) (i : Instr), i ∈ [Instr.pfxh f, .pfxl f] → Issued s k g x i → x.enabled f.g (leader k.active) 0 = false →
      Completes s k g i (fun y => y = x)) ∧
    (∀ k : Issue, Issued s k g x (.pfxh f) → x.enabled f.g (leader k.active) 0 = true → x.count .en < 63 → a % 4 = 0 →
      s.spanFailures c a (64 * n) .read none none = [] → s.badSpan c a (64 * n) true = none →
      ∀ h : Nat → Nat, h 0 = seed % 65521 →
        (∀ i < n, h (i + 1) = (31 * h i + ((List.range 16).map (fun j => (j + 1) * s.genNum x.core c (wrap64 (a + 4 * (16 * i + j))) 4)).sum) %
          65521) →
        ∃ (t : State) (y : Group), exec (.pfxh f) s = .next t ∧ t.group? g = some (y.advance k) ∧ t.mem = s.mem ∧
          Outstanding x y (.pfxh f) .en (maskOf [leader k.active]) .idle ∧
          WritesV { x with ops := y.ops, nextOp := y.nextOp } y ((threadsOf k.active).filter (· < n)) f.vx.toNat (fun th =>
            BitVec.ofNat 64 (h (th + 1) + 65536 * (th + 1)))) ∧
    (∀ k : Issue, Issued s k g x (.pfxl f) → x.enabled f.g (leader k.active) 0 = true → x.count .en < 63 →
      s.pfxlFailures x.launch c a (x.rs f.sb.toNat).toNat n = [] → ∃ (t : State) (y : Group), exec (.pfxl f) s = .next t ∧
        t.group? g = some (y.advance k) ∧ t.mem = s.mem ∧ SameRegs x y ∧
        Outstanding x y (.pfxl f) .en (maskOf [leader k.active]) (.threads [leader k.active])) ∧
    (∀ k : Issue,
      let on := x.enabledSet f.g k.active 0
      Issued s k g x (.pfxi f) →
      (on = [] → Completes s k g (.pfxi f) (fun y => y = x)) ∧
      (on ≠ [] → x.count .en < 63 → a % 64 = 0 → s.spanFailures c a 64 .read none none = [] →
        prefixOk (s.vread c a 64) = true →
        s.updateFailures c (numAt (s.vread c a 64) 0 8) (32 * numAt (s.vread c a 64) 8 4) none = [] → ∃ (t : State) (y : Group), exec (.pfxi f) s = .next t ∧
        t.group? g = some (y.advance k) ∧ t.mem = s.mem ∧ SameRegs x y ∧
        Outstanding x y (.pfxi f) .en (maskOf on) (.threads on))) ∧
    (∀ (m : Nat) (o : Op), s.group? g = some x → x.op? m = some o →
      let h := (o.sargs.getD 0 0).toNat
      let q := (o.sargs.getD 1 0).toNat
      let own := s.as g m
      let tab := own.pfxTab c h
      own.spoiled c h 64 = false →
      (∀ l, o.work = .threads l → o.instr = .pfxl f →
        let out := own.prefixLookup x.launch c h q n
        own.badIn c [(h, 64), (own.vnum c (wrap64 (h + 0x10)) 8, 64), (q, 64 * n)] true = none →
        own.badIn c (out.ents.map (fun a => (a, 32)) ++ out.read.map (fun a => (a, 64))) true = none →
        own.newFailures c o out.read = [] →
        (o.targs.map (·.1)).Nodup → (∀ p ∈ o.targs, p.1 < 32) →
        ∃ (t : State) (y : Group), exec (.prefixStep g m) s = .next t ∧ t.mem = s.mem ∧ t.group? g = some y ∧
          y.rs f.sd.toNat = BitVec.ofNat 64 (out.phys.length + out.hits % 2 ^ 32 * 2 ^ 32) ∧
          (∀ p ∈ o.targs, p.1 < n → y.rv p.1 f.vx.toNat =
            BitVec.ofNat 64 (if p.1 < out.phys.length then out.phys.getD p.1 0 else 2 ^ 32 - 1)) ∧
          (y.op? m).map (fun z => (z.work, z.done)) = some (.idle, true)) ∧
      (∀ th rest, o.work = .threads (th :: rest) → o.instr = .pfxi f → th < 32 → f.pf ≠ 15 →
        let v := (x.rv th f.vx.toNat).toNat
        let hash := v % 65536
        let pos := v / 65536 % 65536
        let phys := v / 2 ^ 32
        let slot := fun r => wrap64 (tab.ents + 32 * ((hash + r) % tab.e))
        let taken := fun r => (own.vnum c (slot r + 8) 4).testBit 0
        let same := fun r => own.vnum c (slot r) 4 = hash ∧ own.vnum c (slot r + 4) 4 = pos ∧ own.vnum c (slot r + 12) 4 = phys
        let answers := fun (status : Nat) (P : State → Prop) => ∃ (t : State) (y : Group), exec (.prefixStep g m) s = .next t ∧
          t.group? g = some y ∧ y.rv th f.vx.toNat = BitVec.ofNat 64 (v % 2 ^ 32 + status * 2 ^ 32) ∧
          y.rp th f.pf.toNat = (if status = 0 then 0xFF else 0) ∧ P t
        let heard := own.badIn c ((h, 64) :: (own.insertSeen tab hash pos phys [0, 1, 2, 3]).map (fun a => (a, 32))) true = none
        (65521 ≤ hash ∨ pos = 0 → answers 3 (fun t => t.mem = s.mem)) ∧
        (hash < 65521 → pos ≠ 0 → heard → ∀ r < 4, (∀ j < r, taken j = true ∧ ¬ same j) →
          (taken r = false → answers 0 (fun t => ∀ pa, OnePage (slot r) 32 → own.pa? c (slot r) = some pa →
            t.num pa 4 = hash ∧ t.num (pa + 4) 4 = pos ∧ t.num (pa + 8) 4 = 1 ∧ t.num (pa + 12) 4 = phys)) ∧
          (taken r = true → same r → answers 1 (fun t => t.mem = s.mem))) ∧
        (hash < 65521 → pos ≠ 0 → heard → (∀ j < 4, taken j = true ∧ ¬ same j) → answers 2 (fun t => t.mem = s.mem))))

/-- R215 to R221: key-value tables and prefix indexes. -/
def Obligations.TablesAndIndexes : Prop := Claims.KvTable ∧ Claims.PrefixIndex

/-- R222 to R224, R354: COLL leaves issue and its contribution is judged at the home: 1 for another generation, 2 unexpected, 3
twice, 0 recorded in PENDING, the first with its deadline; a generation completes when all expected have contributed or its
deadline has passed: OUT holds what the shards read make, STATUS and ARRIVED tell which arrived, PENDING is 0 and GEN the next;
COLLW waits for that and reads STATUS and ARRIVED. -/
def Obligations.Collectives : Prop :=
  ∀ (s : State) (g : Nat) (x : Group) (f : EFmt),
    let c := s.ctxOf x.launch
    (∀ k : Issue,
      let a := (x.rs f.sa.toNat).toNat
      let desc := s.vread c a 64
      let on := x.enabled f.g (leader k.active) 0
      (∀ i ∈ [Instr.coll f, .collw f], Issued s k g x i → on = false → Completes s k g i (fun y => y = x)) ∧
      (Issued s k g x (.coll f) → on = true → x.count .en < 63 → a % 64 = 0 → s.updateFailures c a 64 none = [] →
        s.spanFailures c a 64 .read none none = [] → collOk desc = true → s.spanFailures c (collOf desc).out (collOf desc).bytes .write (some false) none = [] →
        ∃ (t : State) (y : Group), exec (.coll f) s = .next t ∧ t.group? g = some (y.advance k) ∧ t.mem = s.mem ∧ SameRegs x y ∧
          Outstanding x y (.coll f) .en (maskOf [leader k.active]) (.threads [leader k.active]) ∧
          y.ops.getLast?.map (·.sargs) = some [x.rs f.sa.toNat, x.rs f.sb.toNat, x.rs f.sc.toNat]) ∧
      (Issued s k g x (.collw f) → on = true → a % 64 = 0 → s.spanFailures c a 64 .read none none = [] → collOk desc = true →
        (numAt desc 0x0C 4 % 2048 = f.imm.toNat / 32 → ∃ t : State, exec (.collw f) s = .next t ∧ t.mem = s.mem ∧
          t.group? g = some { x with wait := some (.coll a (f.imm.toNat / 32)) }) ∧
        (numAt desc 0x0C 4 % 2048 ≠ f.imm.toNat / 32 → ∃ (t : State) (y : Group), exec (.collw f) s = .next t ∧ t.mem = s.mem ∧
          t.group? g = some (y.advance k) ∧
          WritesS x y f.sd.toNat (BitVec.ofNat 64 (numAt desc 0x20 4 + numAt desc 0x24 4 * 2 ^ 32))))) ∧
    (∀ (n : Nat) (o : Op) (l : List Nat), s.group? g = some x → x.op? n = some o → o.instr = .coll f → o.work = .threads l →
      let a := (o.sargs.getD 0 0).toNat
      let own := s.as g n
      let d := collOf (own.vread c a 64)
      let who := f.imm.toNat % 32
      let gen := f.imm.toNat / 32
      let answers := fun (status : Nat) (P : State → Prop) => ∃ t : State, exec (.collContribution g n) s = .next t ∧ P t ∧
        (t.opAt? (OpRef.mk g n)).map (·.2.work) = some (.result (BitVec.ofNat 64 status))
      own.spoiled c a 64 = false → OnePage a 64 →
      (d.gen % 2048 ≠ gen → answers 1 (fun t => t.mem = s.mem)) ∧
      (d.gen % 2048 = gen → d.expect.testBit who = false → answers 2 (fun t => t.mem = s.mem)) ∧
      (d.gen % 2048 = gen → d.expect.testBit who = true → d.pending.testBit who = true → answers 3 (fun t => t.mem = s.mem)) ∧
      (d.gen % 2048 = gen → d.expect.testBit who = true → d.pending.testBit who = false → answers 0 (fun t =>
        t.shards = s.shards ++ [Shard.mk ((own.pa? c a).getD 0) c a who (o.sargs.getD 1 0).toNat d.out d.bytes o.leaves] ∧
        ∀ pa, own.pa? c a = some pa → (∃ y ∈ o.leaves, y.1 = a / 65536) → t.num (pa + 0x28) 4 = d.pending + 2 ^ who ∧
          (d.pending = 0 → t.num (pa + 0x18) 8 = (o.sargs.getD 2 0).toNat)))) ∧
    (∀ ctx va pa,
      let own := s.collView ctx va
      let d := collOf (own.vread ctx va 64)
      let due := d.pending ≠ 0 ∧ (d.pending = d.expect ∨ d.deadline < own.earliest (own.homeDie ctx va))
      let parts := s.collParts pa d
      let read := parts.map (fun h => s.vread h.ctx h.addr d.bytes)
      let arrived := parts.foldl (fun m h => m ||| 2 ^ h.who) 0
      own.pa? ctx va = some pa → collOk (own.vread ctx va 64) = true →
      (¬ due → exec (.collCompletion ctx va) s = .refused (.notEnabled "COLL_COMPLETION")) ∧
      (due → own.spoiled ctx va 64 = false → ∃ t : State, exec (.collCompletion ctx va) s = .next t ∧ t.shards = s.shards.filter (fun h => h.desc != pa) ∧
        t.groups = s.groups ∧ t.cores = s.cores ∧
        (OnePage va 64 → (∃ e ∈ own.trans, e.1 = ctx ∧ e.2.1 = va / 65536) →
          t.num (pa + 0x20) 4 = (if arrived = d.expect then 1 else 3) ∧ t.num (pa + 0x24) 4 = arrived % 2 ^ 32 ∧
          t.num (pa + 0x28) 4 = 0 ∧ t.num (pa + 0x0C) 4 = (d.gen + 1) % 2 ^ 32 ∧
          ∀ po, OnePage d.out d.bytes → own.pa? ctx d.out = some po → own.badSpan ctx d.out d.bytes false = none →
            (po + d.bytes ≤ pa ∨ pa + 64 ≤ po) → t.bytes po d.bytes = d.combine s.stepNo read ∧
            (d.op = 1 → ∀ first rest, read = first :: rest → ∀ j < d.n, t.num (po + 4 * j) 4 =
              rest.foldl (fun r l => addF32 r (numAt l (4 * j) 4)) (numAt first (4 * j) 4) % 2 ^ 32))))

/-! ### Fetching (R228 to R241) -/

/-- R228, R231, R232: the candidates, the active set, the fetch TPC outside escort and during it, and what a backward branch
at `u` by `active` does to the rotation state. -/
def Obligations.FetchSelection : Prop :=
  ∀ (x : Group) (u : Nat),
    let cand := x.candidates
    let inE := cand.filter (fun t => x.rot.e.getLsbD t)
    let isMin := fun (l : List Nat) => (∃ t ∈ l, x.tpcOf t = u) ∧ ∀ t ∈ l, u ≤ x.tpcOf t
    let calm := Rotation.mk 0 0 x.rot.m 0
    (∀ t, t ∈ cand ↔ t < x.nthr ∧ ((x.thread t).st = .runnable ∨
      ((x.thread t).st = .deferred ∧ ∀ q < x.nthr, (x.thread q).st ≠ .runnable))) ∧
    (∀ t < 32, (x.activeAt u).getLsbD t = (decide (t ∈ cand) && x.tpcOf t == u)) ∧
    (x.selectFetch = none ↔ cand = []) ∧
    (∀ rot, x.selectFetch = some (u, rot) →
      (x.rot.e = 0 → isMin cand ∧ rot = x.rot) ∧
      (x.rot.e ≠ 0 → inE = [] → isMin cand ∧ rot = calm) ∧
      (x.rot.e ≠ 0 → inE ≠ [] → isMin inE ∧ (isMin cand → rot = calm) ∧ (¬ isMin cand → rot = x.rot))) ∧
    (∀ active : Mask,
      let y := x.noteBackward u active
      let c := if active = x.rot.x then x.rot.c + 1 else 1
      y = { x with rot := y.rot } ∧
      ((x.rot.e ≠ 0 ∨ ∀ t ∈ cand, x.tpcOf t ≤ u) → y.rot = calm) ∧
      (x.rot.e = 0 → (∃ t ∈ cand, u < x.tpcOf t) →
        (c < 256 → y.rot = { x.rot with c := c, x := active }) ∧
        (256 ≤ c → y.rot.c = 0 ∧ y.rot.x = 0 ∧ (∃ t ∈ cand, u < x.tpcOf t ∧ x.tpcOf t = y.rot.m) ∧
          (∀ t ∈ cand, u < x.tpcOf t →
            (x.rot.m < y.rot.m → x.rot.m < x.tpcOf t → y.rot.m ≤ x.tpcOf t) ∧
            (y.rot.m ≤ x.rot.m → x.tpcOf t ≤ x.rot.m ∧ y.rot.m ≤ x.tpcOf t)) ∧
          ∀ t < 32, y.rot.e.getLsbD t = (decide (t ∈ cand) && x.tpcOf t == y.rot.m))))

/-- R35, R53, R228, R241, R244: an active Ready group that has not issued at this clock, in a partition that has issued less than two and
where none that issued less recently can fetch, holds its core and reads the line of its fetch TPC: a check that fails is a fault at that
unit, an instruction held back by an interlock is not fetched, and any other is latched for the active set. The model's own readings and
choices in it: log entries 34, 62 and 107. -/
def Sys2Proof.Claims.GroupFetches : Prop :=
  ∀ (s : State) (g : Nat) (x : Group) (u : Nat) (rot : Rotation),
    let y := x.undefer
    let m := y.activeAt u
    let seen := s.readUnit (s.ctxOf y.launch) false (some y.vregs) u (!y.entered)
    let issued := s.groups.filter (fun p => p.2.core == x.core && p.2.part == x.part && p.2.issuedAt == some s.clk)
    let refused := exec (.groupFetch g) s = .refused (.notEnabled "GROUP_FETCH")
    s.group? g = some x → s.issue = none → x.active = true → s.groupReady g x = true → s.blockRuns x.block = true →
    s.holds x = true → x.placedAt ≤ s.clk → y.selectFetch = some (u, rot) →
    (x.issuedAt = some s.clk ∨ 2 ≤ issued.length → refused) ∧
    (∀ h z, s.group? h = some z → z.active = true → z.core = x.core → z.part = x.part → z.lastIssue < x.lastIssue →
      s.fetchAlone h ≠ none → refused) ∧
    (x.issuedAt ≠ some s.clk → issued.length < 2 → s.fetchTurn g x = true → ∀ f, seen = .error f →
      ∃ (t : State) (z : Group) (r : FaultRec),
      exec (.groupFetch g) s = .next t ∧ t.mem = s.mem ∧ t.issue = none ∧ t.group? g = some z ∧ z.status = .faulted r none ∧
        r.info = f.info ∧ r.unit = u ∧ r.restart = u ∧ r.tmask = y.fetchMask m f ∧ z.threads = y.threads ∧ SameRegs y z) ∧
    (x.issuedAt ≠ some s.clk → issued.length < 2 → s.fetchTurn g x = true → ∀ i j, seen = .ok (i, j) → y.mayIssue m i = true →
      (∀ q, j = some q → y.mayIssue m q = true) →
      ∃ t : State, exec (.groupFetch g) s = .next t ∧ t.issue = some (Issue.mk (.group g) (BitVec.ofNat 53 u) m i j false) ∧
        t.mem = s.mem ∧ t.group? g =
          some { y with rot := rot, wait := none, lastIssue := s.stepNo, readyAt := some s.clk, issuedAt := some s.clk, entered := true }) ∧
    (∀ i j, seen = .ok (i, j) → (y.mayIssue m i = false ∨ ∃ q, j = some q ∧ y.mayIssue m q = false) → refused)

/-- R187, R35, R38: a Ready context that waits for nothing reads the line of its TPC; a check that fails is a fault, and any
instruction is latched. -/
def Sys2Proof.Claims.ContextFetches : Prop :=
  ∀ (s : State) (n : Nat) (x : Tile),
    let seen := s.readUnit (s.ctxOf x.launch) true none x.tpc.toNat (!x.entered)
    s.tile? n = some x → s.issue = none → x.status = .ready → x.resident = true → s.blockRuns x.block = true →
    s.tileWaits x = false →
    (∀ f, seen = .error f → ∃ (t : State) (z : Tile) (r : FaultRec),
      exec (.contextFetch n) s = .next t ∧ t.mem = s.mem ∧ t.issue = none ∧ t.tile? n = some z ∧ z.status = .faulted r none ∧
        r.info = f.info ∧ r.unit = x.tpc.toNat) ∧
    (∀ i j, seen = .ok (i, j) → ∃ t : State, exec (.contextFetch n) s = .next t ∧
      t.issue = some (Issue.mk (.tile n) x.tpc 0 i j false) ∧ t.mem = s.mem ∧
      t.tile? n = some { x with wait := none, entered := true })

/-- R99, R240: the end of a deferral, after the exchange that it gave occasion for; the exchange of an active group that waits, or
of an empty place, with the pending group that has been pending longest; the exchange that 1,024 clocks of being Ready in the
pending set force, one in a clock. The model's own readings and choices in it: log entries 2 and 107. -/
def Sys2Proof.Claims.Exchanges : Prop :=
  ∀ (s : State) (core part : Nat),
    let l := s.partGroups core part
    let pend := l.filter (fun p => !p.2.active && s.groupReady p.1 p.2)
    let act := l.filter (fun p => p.2.active)
    let due := pend.filter (fun p => match p.2.readyAt with | some t => decide (max t p.2.placedAt + 1024 ≤ s.clk) | none => false)
    let enter := fun (t : State) (p : Nat × Group) =>
      t.setGroup p.1 { p.2 with active := true, placedAt := s.clk + 2, readyAt := some (p.2.readyAt.getD s.clk) }
    let first := ∀ p ∈ act, p.2.placedAt ≠ s.clk + 2
    let leave := fun (p : Nat × Group) => s.setGroup p.1 { p.2 with active := false, placedAt := s.clk }
    let oldest := fun (q : List (Nat × Group)) (p : Nat × Group) => p ∈ q ∧ ∀ r ∈ q, p.2.placedAt ≤ r.2.placedAt
    (∀ (g : Nat) (x : Group) (at_ : Nat), s.group? g = some x → x.wait = some (.deferral at_) →
      (at_ < s.clk → x.active = false ∨ s.exchange x.core x.part = none →
        exec (.yieldDependenceEnd g) s = .next (s.setGroup g { x with wait := none })) ∧
      (s.clk ≤ at_ ∨ (x.active = true ∧ s.exchange x.core x.part ≠ none) →
        exec (.yieldDependenceEnd g) s = .refused (.notEnabled "YIELD_DEPENDENCE_END"))) ∧
    (pend ≠ [] → act.length < 8 → ∃ p, oldest pend p ∧ exec (.groupExchange core part) s = .next (enter s p)) ∧
    (pend ≠ [] → 8 ≤ act.length → (∃ o ∈ act, s.groupReady o.1 o.2 = false) → ∃ p o, oldest pend p ∧ o ∈ act ∧
      s.groupReady o.1 o.2 = false ∧ exec (.groupExchange core part) s = .next (enter (leave o) p)) ∧
    ((pend = [] ∨ (8 ≤ act.length ∧ ∀ o ∈ act, s.groupReady o.1 o.2 = true)) →
      exec (.groupExchange core part) s = .refused (.notEnabled "GROUP_EXCHANGE")) ∧
    (due ≠ [] → act ≠ [] → first → ∃ p o, oldest due p ∧ oldest act o ∧
      exec (.forcedExchange core part) s = .next (enter (leave o) p)) ∧
    ((due = [] ∨ act = [] ∨ ¬ first) → exec (.forcedExchange core part) s = .refused (.notEnabled "FORCED_EXCHANGE"))

/-- R35, R38, R53, R99, R187, R228, R240, R244: fetches, and the exchanges between the sets of a partition. -/
def Obligations.FetchesAndExchanges : Prop := Claims.GroupFetches ∧ Claims.ContextFetches ∧ Claims.Exchanges

/-! ### The control processor's commands (R398) -/

/-- R398: a command waits its turn behind those not yet answered, and one that is not carried out is answered as soon as its
turn comes; what makes it malformed or not ready; where its status goes; nothing is answered with BOOTFAIL set. -/
def Sys2Proof.Claims.Mailbox : Prop :=
  ∀ (s : State) (addr st : Nat),
    let a := wrap64 addr
    let n := s.fwNumber a
    let reachable := a % 64 = 0 ∧ hostSpan a 64 = true
    (s.mstat.bootfail = true → exec (.mboxWrite addr) s = .next s) ∧
    (s.mstat.bootfail = false → (s.mbox.queue = [] → s.fwVerdict a = none) →
      (∀ h r, s.mbox.queue = h :: r → s.fwVerdict h = none) →
      exec (.mboxWrite addr) s = .next { s with mbox := { s.mbox with queue := s.mbox.queue ++ [a] } }) ∧
    (s.mstat.bootfail = false → s.mbox.queue = [] → s.fwVerdict a = some st →
      exec (.mboxWrite addr) s = .next (s.fwAnswer a st)) ∧
    (s.mstat.ready = false → ¬ (reachable ∧ (n = 3 ∨ n = 4)) → s.fwVerdict a = some 2) ∧
    (s.mstat.ready = true → ¬ reachable → s.fwVerdict a = some 1) ∧
    (reachable → (s.mstat.ready = true ∨ n = 3 ∨ n = 4) → s.fwVerdict a = if 1 ≤ n ∧ n ≤ 10 then none else some 1) ∧
    (∃ m, s.fwAnswer a st = { s with mem := m, mbox := { s.mbox with answered := some (a, st) } }) ∧
    (hostSpan a 64 = true → (s.fwAnswer a st).num (hostBase + a + 4) 4 = st % 2 ^ 32) ∧
    (∀ pa, (hostSpan a 64 = false ∨ pa < hostBase + a + 4 ∨ hostBase + a + 8 ≤ pa) → (s.fwAnswer a st).byte pa = s.byte pa)

/-- R398: a context is created with its rings and queues, debug off, under the least free number (log entry 53, the model's choice,
like the arguments of the commands: entry 54), and with no move history of its pages (entry 106); one is stopped, every launch of it
aborted, and freed once they have ended. -/
def Sys2Proof.Claims.ContextCommands : Prop :=
  ∀ (s : State) (a : Nat) (args : FwCtxArgs) (c : Nat),
    (s.fwHead 1 = some a → ctxArgsOk args = true → s.freeCtx = some c →
      exec (.fwCtx args) s =
        .next (({ s.setCtx c (newCtx args) with
          hostRead := some (BitVec.ofNat 64 c), history := s.history.filter (fun p => p.1 / 2 ^ 48 != c) } : State).fwDone a 0)) ∧
    (s.freeCtx = some c → c < 512 ∧ s.ctx? c = none ∧ ∀ d < c, s.ctx? d ≠ none) ∧
    (s.fwHead 1 = some a → (ctxArgsOk args = false ∨ s.freeCtx = none) → exec (.fwCtx args) s = .next (s.fwDone a 1)) ∧
    (s.fwHead 1 = none → exec (.fwCtx args) s = .refused (.notEnabled "FW_CTX")) ∧
    (s.fwHead 2 = some a → s.mbox.destroying = none → s.ctx? c = none → exec (.fwDestroy c) s = .next (s.fwDone a 1)) ∧
    (∀ x, s.fwHead 2 = some a → s.mbox.destroying = none → s.ctx? c = some x →
      ∃ (t : State) (z : Ctx), exec (.fwDestroy c) s = .next t ∧ t.mbox = { s.mbox with destroying := some c } ∧
        t.ctx? c = some z ∧ z.hostQ = [] ∧ z.devQ = [] ∧
        ∀ h l, s.launch? h = some l → l.ctx = c → ∃ l', t.launch? h = some l' ∧ (l'.outcome.isSome || l'.doom.isSome) = true) ∧
    (s.fwHead 2 = some a → s.mbox.destroying = some c → s.ctxOver c = true →
      exec (.fwDestroy c) s = .next ((s.freeCtxState c).fwDone a 0)) ∧
    ((s.freeCtxState c).ctx? c = none ∧ ∀ h l, (s.freeCtxState c).launch? h = some l → l.ctx ≠ c) ∧
    ((s.fwHead 2 = none ∨ ∃ d, s.mbox.destroying = some d ∧ (d ≠ c ∨ s.ctxOver c = false)) →
      exec (.fwDestroy c) s = .refused (.notEnabled "FW_DESTROY"))

/-- R377, R378, R388 to R390, R392, R394, R396, R398, R399: what each other command does where it is well formed; else it is
answered with status 1. A write of QCFG keeps every die's interval and chooses its state anew. The model's own readings and
choices in it: log entry 54. -/
def Sys2Proof.Claims.FirmwareSettings : Prop :=
  ∀ (s : State) (a : Nat),
    (∀ buffer,
      let l := s.log.take 64
      s.fwHead 3 = some a → exec (.fwLog buffer) s = .next (
        if hostSpan buffer (32 * l.length) then
          ({ s.putBytes 3 128 none (hostBase + buffer) (l.flatMap LogRec.bytes) with
            log := s.log.drop 64, hostRead := some (BitVec.ofNat 64 l.length) } : State).fwDone a 0
        else s.fwDone a 1)) ∧
    (∀ nonce buffer, s.fwHead 4 = some a → exec (.fwAttest nonce buffer) s = .next (
      if nonce < 2 ^ 384 && hostSpan buffer 0 then ({ s with report := some (s.attest nonce) } : State).fwDone a 0
      else s.fwDone a 1)) ∧
    (∀ v, s.fwHead 5 = some a → ∃ u : State, exec (.fwQcfg v) s = .next (u.fwDone a 0) ∧
      u = { s with dies := u.dies, ctlIrqs := u.ctlIrqs, ctlDrift := BitVec.ofNat 16 (max 1000 (v.toNat / 2 ^ 16 % 2 ^ 16)) } ∧
      ∀ d < 4,
        let q := (u.die d).quartz
        q.qlim.toNat = v.toNat / 2 ^ 32 ∧ q.qdrift.toNat = max 1000 (v.toNat / 2 ^ 16 % 2 ^ 16) ∧
          q.period.toNat = max 1 (v.toNat % 2 ^ 16) ∧ u.earliest d = s.earliest d ∧ u.latest d = s.latest d ∧
          (q.qdrift = (s.die d).quartz.qdrift → (q.base, q.e0, q.l0) = ((s.die d).quartz.base, (s.die d).quartz.e0, (s.die d).quartz.l0)) ∧
          q.conflicts = (s.die d).quartz.conflicts ∧
          q.state = if (s.die d).quartz.state = .unset then .unset
            else if 2 * q.qlim.toNat < s.latest d - s.earliest d then .wide
            else if 1000 * q.period.toNat ≤ min (2 ^ 46 - 1) ((s.clk - q.sampled) / 800) then .free else .locked) ∧
    (∀ hours, s.fwHead 6 = some a → (1 ≤ hours ∧ hours ≤ 168 → ∃ u : State, exec (.fwScrub hours) s = .next (u.fwDone a 0) ∧
        u = { s with dies := u.dies } ∧ ∀ d < 4, u.die d = { s.die d with scrubH := hours }) ∧
      (hours = 0 ∨ 168 < hours → exec (.fwScrub hours) s = .next (s.fwDone a 1))) ∧
    (∀ c rb bk, s.fwHead 7 = some a →
      (∀ x, s.ctx? c = some x → exec (.fwDebug c rb bk) s =
        .next (({ s.setCtx c { x with readback := rb, bken := bk } with debugged := s.debugged || rb } : State).fwDone a 0)) ∧
      (s.ctx? c = none → exec (.fwDebug c rb bk) s = .next (s.fwDone a 1))) ∧
    (∀ routes : List (Nat × Nat), s.fwHead 8 = some a → exec (.fwPeers routes) s = .next (
      if routes.all (fun r => r.1 < 64 && r.2 < 16) then ({ s with peers := routes } : State).fwDone a 0 else s.fwDone a 1)) ∧
    (∀ addr, s.fwHead 9 = some a → exec (.fwAper addr) s = .next (
      if addr % 2 ^ 34 == 0 && (dramDie addr).isSome then ({ s with aperture := addr } : State).fwDone a 0 else s.fwDone a 1)) ∧
    (s.fwHead 10 = some a →
      exec .fwBound s = .next (({ s with ptmBound := some (s.num (hostBase + a + 8) 8) } : State).fwDone a 0)) ∧
    (∀ n, s.fwHead n = some a ↔ s.mstat.bootfail = false ∧ s.mbox.queue.head? = some a ∧ s.fwNumber a = n ∧
      s.fwVerdict a = none) ∧
    (∀ (u : State) (st : Nat), u.mbox.queue.length ≤ 1 →
      u.fwDone a st = ({ u with mbox := { u.mbox with queue := [], destroying := none } } : State).fwAnswer a st) ∧
    (∀ (n : Nat) (i : Instr) (name : String) (b w c : Nat) (v : Word) (p q : Bool) (routes : List (Nat × Nat)),
      (n, i, name) ∈ ([(3, .fwLog b, "FW_LOG"), (4, .fwAttest w b, "FW_ATTEST"), (5, .fwQcfg v, "FW_QCFG"),
        (6, .fwScrub w, "FW_SCRUB"), (7, .fwDebug c p q, "FW_DEBUG"), (8, .fwPeers routes, "FW_PEERS"),
        (9, .fwAper w, "FW_APER"), (10, .fwBound, "FW_BOUND")] : List (Nat × Instr × String)) →
      s.fwHead n = none → exec i s = .refused (.notEnabled name))

/-- R377, R378, R388 to R390, R392, R394, R396, R398, R399: the commands of the control processor. -/
def Obligations.FirmwareCommands : Prop := Claims.Mailbox ∧ Claims.ContextCommands ∧ Claims.FirmwareSettings

/-! ### Accesses from outside, and Quartz (R374 to R380, R392, R395, R396) -/

/-- R337, R379, R392, R395, R396, R398: a byte reached through the aperture or by a peer; MSTAT, and an offset that is not listed,
which reads zero; a debug readback of a launch that was taken with it enabled, which changes nothing but the CONFLICTS that a
read of QSTAT clears, and a write through the window, which reaches the TPC of a Faulted group alone. The model's own readings
and choices in it: log entries 9, 54 and 96. -/
def Sys2Proof.Claims.OutsideAccesses : Prop :=
  ∀ (s : State) (addr : Nat) (w : Option Byte),
    let makes := fun (i : Instr) (pa : Nat) => match w with
      | some b => ∃ t : State, exec i s = .next t ∧ t = { s.setByte pa b with versions := t.versions }
      | none => exec i s = .next { s with hostRead := if s.lostIn pa 1 then none else some ((s.byte pa).setWidth 64) }
    (s.mstat.ready = true → addr < 2 ^ 34 → makes (.apertureAccess addr w) (s.aperture + addr)) ∧
    (s.mstat.ready = false ∨ 2 ^ 34 ≤ addr →
      exec (.apertureAccess addr w) s = .refused (.notEnabled "APERTURE_ACCESS")) ∧
    (s.mstat.ready = true → (dramDie addr).isSome = true → makes (.peerAccess addr w) addr) ∧
    (s.mstat.ready = false ∨ dramDie addr = none → exec (.peerAccess addr w) s = .refused (.notEnabled "PEER_ACCESS")) ∧
    (∀ bar, (bar = 0 → (addr < 0x100 ∨ 0x108 ≤ addr) ∧ (addr < 0x1000 ∨ 0x2000 ≤ addr ∨ 4 ≤ addr % 8)) → (bar = 2 → 2 ^ 34 ≤ addr) →
      (∀ v, exec (.unlistedWindowWrite bar addr (some v)) s = .next s) ∧
      (bar ≠ 0 ∨ 8 ≤ addr → exec (.unlistedWindowWrite bar addr none) s = .next { s with hostRead := some 0 })) ∧
    (∃ v : Word, exec (.unlistedWindowWrite 0 0 none) s = .next { s with hostRead := some v } ∧ v.getLsbD 0 = s.mstat.ready ∧
      v.getLsbD 1 = s.mstat.link0 ∧ v.getLsbD 2 = s.mstat.link1 ∧ v.getLsbD 3 = s.mstat.fatal ∧
      v.toNat / 16 % 4 = s.mstat.therm.toNat ∧ v.getLsbD 6 = s.mstat.bootfail ∧
      ∀ d < 4, (v.getLsbD (8 + d) = true ↔ (s.die d).quartz.state = .locked ∨ (s.die d).quartz.state = .free)) ∧
    (∀ (c : Nat) (x : Ctx) (o : Readback) (v : Word), s.ctx? c = some x → (moduleObject o = false ∨ x.readback = true) →
      s.readObject c o = some v → (∀ d, o ≠ .qstat d) → exec (.debugReadback c (WindowRequest.mk o none)) s = .next { s with hostRead := some v }) ∧
    (∀ (c d : Nat) (x : Ctx), s.ctx? c = some x → x.readback = true → d < 4 →
      ∃ t : State, exec (.debugReadback c (WindowRequest.mk (.qstat d) none)) s = .next t ∧ exec (.qstatRead d) s = .next t) ∧
    (∀ (c : Nat) (o : Readback) (v : Option Word), (s.ctx? c = none ∨ ∃ x, s.ctx? c = some x ∧ moduleObject o = true ∧ x.readback = false) →
      exec (.debugReadback c (WindowRequest.mk o v)) s = .refused (.notEnabled "DEBUG_READBACK")) ∧
    (∀ (c g t : Nat) (x : Group) (y : Ctx) (v : Word), s.ctx? c = some y → s.group? g = some x → s.opened c x.launch = true →
      (∀ r q, x.status = .faulted r q → t < x.nthr → (x.thread t).st ≠ .retired → v.toNat < 5 * 2 ^ 50 →
        exec (.debugReadback c (WindowRequest.mk (.tpc g t) (some v))) s = .next (s.setGroup g (x.setThread t { x.thread t with tpc := v.setWidth 53 }))) ∧
      ((∀ r q, x.status ≠ .faulted r q) → exec (.debugReadback c (WindowRequest.mk (.tpc g t) (some v))) s = .next s) ∧
      (∀ i, exec (.debugReadback c (WindowRequest.mk (.vreg g t i) (some v))) s = .next s)) ∧
    (∀ (c h : Nat), s.opened c h = true ↔ ∃ l, s.launch? h = some l ∧ l.ctx = c ∧ l.readback = true) ∧
    (∀ (c g t i : Nat) (x : Group), s.group? g = some x → s.opened c x.launch = true →
      s.readObject c (.vreg g t i) = some (x.rv t i) ∧ s.readObject c (.sreg g i) = some (x.rs i) ∧
      s.readObject c (.preg g t i) = some ((x.rp t i).setWidth 64) ∧
      s.readObject c (.tpc g t) = some ((x.thread t).tpc.setWidth 64) ∧ s.readObject c (.flags g) = some (x.flags.setWidth 64) ∧
      s.readObject c (.fibreStatus g) = some (if x.fbst then 1 else 0) ∧
      (∀ r q, x.status = .faulted r q → s.readObject c (.groupState g 0) = some 2 ∧
        s.readObject c (.groupState g 1) = some (r.serial.setWidth 64) ∧
        s.readObject c (.groupState g 2) = some (if q.isSome then 1 else 0) ∧
        s.readObject c (.groupState g 3) = some (BitVec.ofNat 64 (q.getD 0))) ∧
      (∀ n, x.status = .ready → x.wait = some (.phase n) →
        s.readObject c (.groupState g 0) = some 1 ∧ s.readObject c (.groupState g 1) = some (BitVec.ofNat 64 n)))

/-- R376, R377: once in each PERIOD a die sends a probe to a party it has; the party inside the module reads its interval as
the probe arrives; a peer's probe is answered, but by an UNSET die; the bound in force is taken with a PTM reading. The
model's own readings and choices in it: log entries 49 and 58. -/
def Sys2Proof.Claims.QuartzProbes : Prop :=
  ∀ (s : State) (d : Nat) (p : Party),
    let q := (s.die d).quartz
    let due := ∀ r ∈ q.probes, r.party = p → r.sent + 800 * q.period.toNat ≤ s.clk
    (d < 4 → s.partyOk d p = true → due → ∃ t : State, exec (.quartzProbe d p) s = .next t ∧ t = { s with dies := t.dies } ∧
      (t.die d).quartz = { q with probes := (t.die d).quartz.probes } ∧
      (∀ r, r ∈ (t.die d).quartz.probes ↔ (r ∈ q.probes ∧ r.party ≠ p) ∨ r = Probe.mk p s.clk true (match p with
        | .die b => if (s.die b).quartz.state = .unset then none else some (s.earliest b, s.latest b)
        | .peer _ => none
        | .control => s.ptm.map (fun m => (m.1 + slowed ((s.clk - m.2.1) * 5) s.ctlDrift.toNat - m.2.2,
            m.1 + m.2.2 + quickened ((s.clk - m.2.1) * 5) s.ctlDrift.toNat))))) ∧
    (4 ≤ d ∨ s.partyOk d p = false ∨ ¬ due → exec (.quartzProbe d p) s = .refused (.notEnabled "QUARTZ_PROBE")) ∧
    (∀ b, d < 4 → b < 4 → (s.partyOk d (.die b) = true ↔ b ≠ d ∧ b + d ≠ 3)) ∧
    (d < 4 → exec (.peerProbe d) s =
      .next (if q.state = .unset then s else { s with told := some (s.earliest d, s.latest d) })) ∧
    (∀ host, exec (.ptmReading host) s = .next (match s.ptmBound with
      | some b => { s with ptm := some (host, s.clk, b) }
      | none => s))

/-- R376, R379, R380: an answer's interval, widened by the time since its probe, meets the die's own: the two intersect, which
starts a new interval and settles the state, or the sample counts as a conflict; while UNSET a die takes only the control
processor's. A conflict, and a move into or out of WIDE, interrupts the control processor. -/
def Sys2Proof.Claims.QuartzSamples : Prop :=
  ∀ (s : State) (d : Nat) (p : Party) (a : Answer) (r : Probe),
    let q := (s.die d).quartz
    let given : Option (Nat × Nat) := match a with
      | .own => r.answer
      | .peer lo hi unset => if unset then none else some (lo, hi)
    let fits := match p, a with
      | .peer _, .peer .. => True
      | .die _, .own => True
      | .control, .own => r.answer ≠ none
      | _, _ => False
    q.probes.find? (fun r => r.party == p && r.open_) = some r →
    (fits → ∃ t : State, exec (.quartzSample d p a) s = .next t ∧ t = { s with dies := t.dies, ctlIrqs := t.ctlIrqs } ∧
      let z := (t.die d).quartz
      z.probes = q.probes.map (fun o => if o.party = p then { o with open_ := false } else o) ∧
      ((given = none ∨ (q.state = .unset ∧ p ≠ .control)) → t.ctlIrqs = s.ctlIrqs ∧ z = { q with probes := z.probes }) ∧
      (∀ lo hi, given = some (lo, hi) → (q.state ≠ .unset ∨ p = .control) →
        let hi' := hi + quickened ((s.clk - r.sent) * 5) q.qdrift.toNat
        let e := max (s.earliest d) lo
        let l := min (s.latest d) hi'
        (lo ≤ s.latest d → s.earliest d ≤ hi' → t.earliest d = e ∧ t.latest d = l ∧
          t.ctlIrqs = s.ctlIrqs + (if (q.state = .wide) = (z.state = .wide) then 0 else 1) ∧
          z = { q with
            probes := z.probes
            e0 := e
            l0 := l
            base := s.clk
            sampled := s.clk
            state := if 2 * q.qlim.toNat < l - e then .wide else .locked }) ∧
        ((s.latest d < lo ∨ hi' < s.earliest d) → t.ctlIrqs = s.ctlIrqs + 1 ∧ z = { q with
          probes := z.probes
          conflicts := if q.conflicts = 0xFFFF then q.conflicts else q.conflicts + 1 }))) ∧
    (¬ fits → exec (.quartzSample d p a) s = .refused (.notEnabled "QUARTZ_SAMPLE"))

/-- R375, R378, R379: LOCKED becomes FREE by age, and LOCKED or FREE becomes WIDE by width, of which the control processor is told;
QSTAT's fields, and its read
clears CONFLICTS; the interval widens as time passes. -/
def Sys2Proof.Claims.QuartzStates : Prop :=
  ∀ (s : State) (d : Nat),
    let q := (s.die d).quartz
    let age := min (2 ^ 46 - 1) ((s.clk - q.sampled) / 800)
    let old := 1000 * q.period.toNat ≤ age
    let wide := 2 * q.qlim.toNat < s.latest d - s.earliest d
    let with_ := fun (u : State) (z : Quartz) => u.setDie d { s.die d with quartz := z }
    let told : State := { s with ctlIrqs := s.ctlIrqs + 1 }
    (q.state = .locked → old → exec (.quartzFree d) s = .next (with_ told { q with state := .free })) ∧
    (q.state ≠ .locked ∨ ¬ old → exec (.quartzFree d) s = .refused (.notEnabled "QUARTZ_FREE")) ∧
    (q.state = .locked ∨ q.state = .free → wide → exec (.quartzWide d) s = .next (with_ told { q with state := .wide })) ∧
    (q.state = .unset ∨ q.state = .wide ∨ ¬ wide → exec (.quartzWide d) s = .refused (.notEnabled "QUARTZ_WIDE")) ∧
    (d < 4 → ∃ v : Word, exec (.qstatRead d) s = .next (with_ { s with hostRead := some v } { q with conflicts := 0 }) ∧
      v.toNat / 2 ^ 48 = q.conflicts.toNat ∧ v.toNat / 4 % 2 ^ 46 = age ∧
      v.toNat % 4 = (match q.state with | .unset => 0 | .locked => 1 | .free => 2 | .wide => 3)) ∧
    (q.state ≠ .unset → s.earliest d = q.e0 + (s.clk - q.base) * 5 * (100000000 - q.qdrift.toNat) / 400000000 ∧
      ∃ up, s.latest d = q.l0 + up ∧ (s.clk - q.base) * 5 * (100000000 + q.qdrift.toNat) ≤ 400000000 * up ∧
        400000000 * up < (s.clk - q.base) * 5 * (100000000 + q.qdrift.toNat) + 400000000) ∧
    (q.state = .unset → s.earliest d = 0 ∧ s.latest d = 2 ^ 64 - 1)

/-- R375 to R380, R392, R395, R396: accesses from outside the module, and the Quartz units. -/
def Obligations.OutsideAndQuartz : Prop :=
  Claims.OutsideAccesses ∧ Claims.QuartzProbes ∧ Claims.QuartzSamples ∧ Claims.QuartzStates

/-! ### Errors (R382 to R390, R401) -/

/-- R382, R383, R389, R390: an event is logged, or counted with a like one of the same second; a corrected error of a DRAM
row counts towards its listing; a link retries a flit up to 16 times, and goes down at its 17th failure, between dies fatally. The
model's own readings and choices in it: log entries 18, 52 and 59. -/
def Sys2Proof.Claims.LoggedErrors : Prop :=
  ∀ (s : State) (w : BitVec 32) (addr : Nat) (kind : Nat) (l : Link),
    let now := s.earliest (w.toNat % 4)
    let like := fun (r : LogRec) => r.kind = kind ∧ r.where_ = w ∧ r.addr = addr ∧ now ≤ r.time + 1000000000
    let key := Config.rowOf addr * 4
    let count := fun (u : State) (k : Nat) => ((u.rowErrors.find? (fun p => p.1 == k)).map (·.2)).getD 0
    (∃ r, s.logError kind w addr = { s with log := r }) ∧
    ((∀ r ∈ s.log, ¬ like r) → (s.logError kind w addr).log = s.log ++ [LogRec.mk kind w addr now 1]) ∧
    ((∃ r ∈ s.log, like r) → (s.logError kind w addr).log.length = s.log.length ∧ ∀ (j : Nat) (r : LogRec), s.log[j]? = some r →
      (like r → (s.logError kind w addr).log[j]? = some { r with count := r.count + 1 }) ∧
      (¬ like r → (s.logError kind w addr).log[j]? = some r)) ∧
    (w.toNat / 4096 % 16 ≠ 4 ∨ dramDie addr = none → exec (.correctedError w addr) s = .next (s.logError 1 w addr)) ∧
    (∀ d, w.toNat / 4096 % 16 = 4 → dramDie addr = some d → ∃ t : State, exec (.correctedError w addr) s = .next t ∧
      t = { s.logError 1 w addr with rowErrors := t.rowErrors, listed := t.listed } ∧
      count t (key + d) = count s (key + d) + 1 ∧ (∀ k, k ≠ key + d → count t k = count s k) ∧
      (count s (key + d) + 1 < 16 → t.listed = s.listed) ∧
      (16 ≤ count s (key + d) + 1 → ∀ k, k ∈ t.listed ↔ k ∈ s.listed ∨ k = key + d)) ∧
    (∀ again : Bool,
      let fits := again = true → s.retries l ≠ 0 ∧ s.retries l ≠ 16
      (linkOk l = true → l ∉ s.downs → fits → ∃ t : State, exec (.linkRetry (Retry.mk l again)) s = .next t ∧
        t = { s.logError 3 (linkWhere l) 0 with linkErrs := t.linkErrs } ∧
        t.retries l = (if again then s.retries l + 1 else 1) ∧ ∀ m, m ≠ l → t.retries m = s.retries m) ∧
      (linkOk l = false ∨ l ∈ s.downs ∨ ¬ fits → exec (.linkRetry (Retry.mk l again)) s = .refused (.notEnabled "LINK_RETRY"))) ∧
    (linkOk l = true → l ∉ s.downs → s.retries l = 16 →
      let u : State := { s.logError 4 (linkWhere l) 0 with downs := s.downs ++ [l] }
      exec (.linkDown l) s = .next (match l with
        | .dieToDie .. => u.fatalError (linkWhere l) 0
        | .stolvin _ => u)) ∧
    (linkOk l = false ∨ l ∈ s.downs ∨ s.retries l ≠ 16 → exec (.linkDown l) s = .refused (.notEnabled "LINK_DOWN"))

/-- R386 to R388: a lost unit enters its die's table and lists its row, and a full table is fatal; a scrub pass at the end of each
period and an hourly sweep of L2; a fatal error ends placement and every launch that runs. The model's own readings and choices in
it: log entries 18 and 64. -/
def Sys2Proof.Claims.LostUnits : Prop :=
  ∀ (s : State) (d addr : Nat) (bad : List Nat) (w : BitVec 32),
    let whole := fun (n a : Nat) => a % n = 0 ∧ dramDie a = some d
    let known := (s.die d).lost
    let scrubEnds := (s.die d).scrubbed + (s.die d).scrubH * 2880000000000 ≤ s.clk
    let hourEnds := (s.die d).swept + 2880000000000 ≤ s.clk
    (d < 4 → whole 64 addr → ((addr, 64) ∈ known ∨ known.length < 64) →
      ∃ t : State, exec (.uncorrectableError (.unit d addr)) s = .next t ∧
        t = { s with dies := t.dies, log := t.log, listed := t.listed } ∧
        (t.die d).lost = (if (addr, 64) ∈ known then known else known ++ [(addr, 64)]) ∧
        ∀ k, k ∈ t.listed ↔ k ∈ s.listed ∨ k = Config.rowOf addr * 4 + d) ∧
    (d < 4 → whole 64 addr → (addr, 64) ∉ known → 64 ≤ known.length →
      ∃ t : State, exec (.uncorrectableError (.unit d addr)) s = .next t ∧ t.mstat.fatal = true) ∧
    (d < 4 → whole 128 addr → ((addr, 128) ∈ known ∨ known.length < 64) →
      ∃ t : State, exec (.uncorrectableError (.line d addr)) s = .next t ∧ t = { s with dies := t.dies, log := t.log } ∧
        (t.die d).lost = (if (addr, 128) ∈ known then known else known ++ [(addr, 128)])) ∧
    (4 ≤ d ∨ ¬ whole 64 addr →
      exec (.uncorrectableError (.unit d addr)) s = .refused (.notEnabled "UNCORRECTABLE_ERROR")) ∧
    (d < 4 → s.mstat.ready = true → scrubEnds → (∀ a ∈ bad, whole 64 a) → known.length + bad.length ≤ 64 →
      ∃ t : State, exec (.scrubPass d bad) s = .next t ∧ t.mem = s.mem ∧ t.groups = s.groups ∧ (t.die d).scrubbed = s.clk ∧
        t.rowErrors = s.rowErrors.filter (fun p => p.1 % 4 != d) ∧
        ∀ u, u ∈ (t.die d).lost ↔ u ∈ known ∨ ∃ a ∈ bad, u = (a, 64)) ∧
    (4 ≤ d ∨ s.mstat.ready = false ∨ ¬ scrubEnds ∨ ¬ (∀ a ∈ bad, whole 64 a) →
      exec (.scrubPass d bad) s = .refused (.notEnabled "SCRUB_PASS")) ∧
    (d < 4 → s.mstat.ready = true → hourEnds → (∀ a ∈ bad, whole 128 a) → known.length + bad.length ≤ 64 →
      ∃ t : State, exec (.l2Sweep d bad) s = .next t ∧ t = { s with dies := t.dies, log := t.log } ∧ (t.die d).swept = s.clk ∧
        ∀ u, u ∈ (t.die d).lost ↔ u ∈ known ∨ ∃ a ∈ bad, u = (a, 128)) ∧
    (4 ≤ d ∨ s.mstat.ready = false ∨ ¬ hourEnds ∨ ¬ (∀ a ∈ bad, whole 128 a) →
      exec (.l2Sweep d bad) s = .refused (.notEnabled "L2_SWEEP")) ∧
    (∃ t : State, exec (.fatalError w addr) s = .next t ∧ t.mstat = { s.mstat with fatal := true } ∧ t.irqs = s.irqs + 1 ∧
      t.log = (s.logError 5 w addr).log ∧ t.placing = false ∧
      ∀ (h b : Nat) (l : Launch) (k : Block), s.launch? h = some l → s.block? b = some k → k.launch = h → k.st = .running →
        l.outcome = none → l.doom = none → ∃ l', t.launch? h = some l' ∧ l'.doom = some (1, 0x0D))

/-- R384, R385, R390: a code that cannot be corrected stands in a register or a store of a core, which is counted; the latched
instruction that would read the register takes MACHINE_CHECK at its unit, before any effect; an engine operation stops, to retire
marked failed with the address. -/
def Sys2Proof.Claims.Consumers : Prop :=
  ∀ (s : State) (g : Nat),
    let counted := fun (t : State) (c : Nat) => (t.core c).errors = (s.core c).errors ++ [s.clk]
    (∀ (x : Group) (q : RegAt), s.group? g = some x → x.status ≠ .ended → x.resident = true → x.hasReg q = true → ∃ t : State,
      exec (.uncorrectableError (.group g q)) s = .next t ∧ t.mem = s.mem ∧ counted t x.core ∧
      t.group? g = some { x with bad := q :: x.bad.filter (· != q) }) ∧
    (∀ (x : Tile) (q : RegAt), s.tile? g = some x → x.status ≠ .ended → x.resident = true → tileReg? q = true → ∃ t : State,
      exec (.uncorrectableError (.tile g q)) s = .next t ∧ t.mem = s.mem ∧ counted t x.core ∧
      t.tile? g = some { x with bad := q :: x.bad.filter (· != q) }) ∧
    (∀ (c : Nat) (q : CoreAt), c < 128 → (s.core c).hasPlace q = true → ∃ t : State,
      exec (.uncorrectableError (.core c q)) s = .next t ∧ t.mem = s.mem ∧ t.groups = s.groups ∧ counted t c ∧
      (t.core c).bad = q :: (s.core c).bad.filter (· != q)) ∧
    (∀ (k : Issue) (x : Group) (q : RegAt), s.issue = some k → k.agent = .group g → s.group? g = some x →
      x.bad.find? (x.consumes k) = some q → step s = settled (.next (s.faultGroup g (k.mark (mkFault 0x0D 0 (regThread? q)))
        k.unit.toNat k.unit.toNat (x.onSet (guardOf k.instr) k.active)))) ∧
    (∀ (k : Issue) (x : Tile) (q : RegAt), s.issue = some k → k.agent = .tile g → s.tile? g = some x →
      x.bad.find? (consumedByTile k) = some q →
      step s = settled (.next (s.faultTile g (k.mark (mkFault 0x0D 0 none)) k.unit))) ∧
    (∀ (n addr : Nat) (x : Group) (o : Op), s.opAt? (OpRef.mk g n) = some (x, o) →
      (o.engine = true → ∃ (t : State) (y : Group), exec (.uncorrectableError (.op g n addr)) s = .next t ∧ t.mem = s.mem ∧
        t.opAt? (OpRef.mk g n) = some (y, { o with work := .idle, done := true, failed := some addr }) ∧
        y = { x with ops := y.ops }) ∧
      (o.engine = false →
        exec (.uncorrectableError (.op g n addr)) s = .refused (.notEnabled "UNCORRECTABLE_ERROR")))

/-- R390, R401: a core with two errors within 24 hours takes no block any more, and a request asks for each block on it;
MSTAT shows the thermal state, entered or left, and the control processor is interrupted; TRIP is fatal and powers every core down. -/
def Sys2Proof.Claims.RepairsAndHeat : Prop :=
  ∀ (s : State) (c : Nat) (th : BitVec 2),
    let x := s.core c
    let near := ∃ a b, List.Sublist [a, b] x.errors ∧ a ≤ b + 69120000000000 ∧ b ≤ a + 69120000000000
    (x.retired = false → near → c < 128 → ∃ t : State, exec (.coreRetire c) s = .next t ∧ t.retired = s.retired ++ [c] ∧
      t.core c = { x with retired := true } ∧ t.mem = s.mem ∧ t.groups = s.groups ∧
      ∀ (b : Nat) (k : Block), s.block? b = some k → k.st = .running → c ∈ k.cores →
        ∃ (k' : Block) (r : PreReq), t.block? b = some k' ∧ k'.pre = some r ∧ r.own = true ∧ r.deadline ≤ s.clk + 1600000) ∧
    (x.retired = true ∨ ¬ near ∨ 128 ≤ c → exec (.coreRetire c) s = .refused (.notEnabled "CORE_RETIRE")) ∧
    (s.mstat.therm ≠ th → th ≠ 3 →
      exec (.thermalStateChange th) s = .next { s with ctlIrqs := s.ctlIrqs + 1, mstat := { s.mstat with therm := th } }) ∧
    (s.mstat.therm ≠ 3 → th = 3 → ∃ t : State, exec (.thermalStateChange th) s = .next t ∧
      t.mstat = { s.mstat with therm := 3, fatal := true } ∧ t.irqs = s.irqs + 1 ∧ t.ctlIrqs = s.ctlIrqs + 1 ∧ ∀ n, (t.core n).powered = false) ∧
    (s.mstat.therm = th →
      exec (.thermalStateChange th) s = .refused (.notEnabled "THERMAL_STATE_CHANGE"))

/-- R382 to R390, R401: errors, from the event to its effect. -/
def Obligations.Errors : Prop := Claims.LoggedErrors ∧ Claims.LostUnits ∧ Claims.Consumers ∧ Claims.RepairsAndHeat

/-! ### The machine as a whole -/

/-- R108, R378 to R380, R402: what module reset leaves: clocks counted from 0, no core with power, every bank in CACHE mode, B0 to
B15 zero, every Quartz unit UNSET with its registers at their reset values, nothing of a context, no pending commit. `State.reset`
and the state after MODULE_RESET are such; the latter boots a flash bank whose images pass the ROM's checks, maps the listed rows
onto spare ones while there are any, keeps the rest of memory and what flash keeps, and its MSTAT tells how bring-up went. The
model's own readings and choices in it: log entries 4, 5, 9 and 51. -/
def Obligations.ResetState : Prop :=
  let fresh := fun (t : State) =>
    t.clk = 0 ∧ t.issue = none ∧ t.groups = [] ∧ t.tiles = [] ∧ t.blocks = [] ∧ t.launches = [] ∧ t.ctxs = [] ∧ t.stamps = [] ∧
    (∀ k, Sparse.get 0 t.bounds k = 0) ∧
    (∀ c, (t.core c).powered = false ∧ ∀ b, ((t.core c).bank b).mode = .cache ∧ ((t.core c).bank b).holder = none) ∧
    (∀ d, let q := (t.die d).quartz
      q.state = .unset ∧ q.qlim = 200000 ∧ q.qdrift = 2500 ∧ q.period = 10 ∧ q.conflicts = 0 ∧
        t.quartzAge q = 0 ∧ t.earliest d = 0 ∧ t.latest d = 2 ^ 64 - 1)
  fresh State.reset ∧ State.reset.mstat = MStat.mk false 0 false false false false ∧
  ∀ (s : State) (banks : List (List FlashImage)) (link0 link1 : Bool),
    let image := (bootBank banks).isSome
    (∀ b, bootBank banks = some b → b ∈ banks.take 2 ∧ b ≠ [] ∧ ∀ i ∈ b, i.signed = true ∧ Config.rollback ≤ i.version) ∧
    (image = false → ∀ b ∈ banks.take 2, b = [] ∨ ∃ i ∈ b, i.signed = false ∨ i.version < Config.rollback) ∧
    ∃ t : State, exec (.moduleReset banks link0 link1) s = .next t ∧ fresh t ∧ t.booted = (bootBank banks).getD [] ∧
    (∀ a, (∀ d, dramDie a = some d → rowKey d a ∈ t.spared → rowKey d a ∈ s.spared) → t.byte a = s.byte a) ∧ (∀ d < 4, (t.die d).lost = (s.die d).lost) ∧ t.retired = s.retired ∧
    (∀ c, (t.core c).retired = decide (c ∈ s.retired)) ∧
    t.mstat.ready = image ∧ t.mstat.bootfail = !image ∧ t.mstat.link0 = link0 ∧ t.mstat.link1 = link1 ∧
    t.mstat.fatal = false ∧ t.mstat.therm = 0 ∧
    (∀ r, r ∈ s.spared → r ∈ t.spared) ∧ (∀ r, r ∈ t.spared → r ∈ s.spared ∨ (image = true ∧ r ∈ s.listed)) ∧
    (image = true → ∀ r ∈ s.listed, r ∈ t.spared ∨ 64 ≤ (t.spared.filter (fun q => Config.bankOf q == Config.bankOf r)).length) ∧
    (∀ r, r ∈ t.listed ↔ r ∈ s.listed ∧ r ∉ t.spared)

/-- R402: the memory of the state after reset has the canonical form, nothing listed (log entry 4: what an unlisted byte
reads as is the model's choice). -/
def Obligations.ResetMemoryCanonical : Prop := Memory.wf State.reset.mem = true

/-- R321: every step keeps the canonical form of memory, which is the model's own (log entry 4): addresses strictly rising, no entry
that an unlisted address reads as, so that equal memories are equal data. -/
def Obligations.StepKeepsMemoryCanonical : Prop := Keeps (fun s => Memory.wf s.mem = true)

/-- R43, R44, R53, R54: the word of every well-formed instruction decodes to that instruction, every field at every value; and
a word that decodes is the word of what it decodes to, so that no bit is dropped. -/
def Obligations.DecodeEncode : Prop :=
  (∀ i : Instr, i.opcode? ≠ none → i.wf = true → decode (encode i) = .ok i) ∧
  (∀ (w : IWord) (i : Instr), decode w = .ok i → encode i = w ∧ i.opcode? = some (w.extractLsb' 87 9).toNat)

/-- R32, R36: a slot of a fetch line and its line word, bit by bit, and the line and slot of a unit. -/
def Obligations.FetchLineLayout : Prop :=
  (∀ (l : List Byte) (k i : Nat), l.length = 64 → k < 5 → i < 96 →
    (slotWord l k).getLsbD i = (l.getD (4 + 12 * k + i / 8) 0).getLsbD (i % 8)) ∧
  (∀ (l : List Byte) (i : Nat), l.length = 64 → i < 32 → bitAt (ofLe (l.take 4)) i = (l.getD (i / 8) 0).getLsbD (i % 8)) ∧
  (∀ u : Nat, lineOf u % 64 = 0 ∧ u = 5 * (lineOf u / 64) + u % 5 ∧ (u < 5 * 2 ^ 50 → lineOf u < 2 ^ 56 ∧ u < 2 ^ 53)) ∧
  (∀ u : Nat, u % 5 = 4 → lineOf (u + 1) = lineOf u + 64 ∧ (u + 1) % 5 = 0)

/-- R55, R56: an unassigned opcode is ILLEGAL_OPCODE in either stream, and so is an opcode of the other stream; a word that
decodes is accepted in the streams that its opcode belongs to. -/
def Obligations.OpcodesAndStreams : Prop :=
  ∀ (w : IWord) (tile : Bool) (vregs : Option Nat),
    let o := (w.extractLsb' 87 9).toNat
    let own := 0x180 ≤ o ∧ o ≤ 0x190
    let illegal := ∃ f, checkOne tile vregs w = .error f ∧ f.info.cause = 0x01 ∧ f.word = some w
    ((∃ r ∈ ([(0x012, 0x03F), (0x058, 0x07F), (0x0A1, 0x0BF), (0x0D4, 0x0FF), (0x110, 0x11F), (0x135, 0x15F), (0x171, 0x17F),
      (0x191, 0x19F), (0x1A2, 0x1BF), (0x1CB, 0x1DF), (0x1E0, 0x1FF)] : List (Nat × Nat)), r.1 ≤ o ∧ o ≤ r.2) → illegal) ∧
    (tile = true → ¬ own → o ≠ 0 → illegal) ∧
    (tile = false → own → illegal) ∧
    (∀ i, decode w = .ok i → (tile = true ↔ own) → decodeIn tile w = .ok i) ∧
    (∀ f, decode w = .ok (.nop f) → f.g = Guard.mk false 15 false → decodeIn tile w = .ok (.nop f))

/-- R43 to R55: words written out from the tables of encodings; the FMUL and the XGET are the spec's own examples. -/
def Obligations.DecodedWords : Prop :=
  let on := Guard.mk false 15 false
  decode 0x003C00000000000000000000 = .ok (.nop (VFmt.mk on 0 0 (.regs 0 0 0 0) 0 0 0 0 false 0 0 0)) ∧
  decode 0x613C02402009000000000154 = .ok (.fmul (VFmt.mk on 9 4 (.regs 9 0 0 0) 0 0 0 0 false 0 10 10)) ∧
  decode 0x853C028048000001800000CC = .ok (.xget (VFmt.mk on 10 9 (.regs 0 0 3 0) 0 0 0 0 false 0 6 6)) ∧
  decode 0x00BDFFFFFFFA000000000000 = .ok (.bra (BFmt.mk on 0xFFFFFFFD 0 0 0 0 0)) ∧
  decode 0x20BE14000000000070000006 = .ok (.smovi (SFmt.mk (Guard.mk false 15 true) 5 0 0 7 0 0 false false 0 6)) ∧
  decode 0x903C00C04000008000000006 = .ok (.ld (MFmt.mk on 3 8 16 0 false 0 0 0 false 0 0 0 6)) ∧
  decode 0xC0BC20000000000000900000 = .ok (.tsmovi (TFmt.mk on 2 0 0 0 0 0 0 9 0 0)) ∧
  decode 0x093C00000000000000000000 = .error .unassigned

/-- R32, R39, R53, R228: a step runs the decoded instruction (the order of what is due is the model's choice, log entries 2 and
3): what is latched executes; the head of the agenda executes when its time has come; and
where nothing else is due, the group whose turn it is reads its line, and the instruction that the bytes of its slot decode
to executes for the active set; a register that cannot be corrected stops it (R384). What a step adds is the end of the step: with no
lost-unit table overfull and no bank of an ended block left, it changes no memory, no register and no latch. -/
def Obligations.StepRunsDecoded : Prop :=
  ∀ (s : State),
    (∀ k, s.issue = some k → s.regFault k = none → step s = settled (exec k.instr s)) ∧
    (∀ a rest, s.issue = none → s.agenda = a :: rest → a.after = 0 →
      step s = settled (exec a.ev { s with agenda := rest })) ∧
    (∀ (g : Nat) (x : Group) (u : Nat) (rot : Rotation) (i : Instr),
      let y := x.undefer
      let m := y.activeAt u
      let c := s.ctxOf y.launch
      let l := s.vread c (lineOf u) 64
      s.issue = none → s.agenda = [] → s.promisedFetch = none → s.upkeep = none → s.firstOf s.ownSteps = none →
      s.someFetch = s.fetchGroup g → s.fetchTurn g x = true → x.bad = [] →
      s.group? g = some x → x.active = true → s.groupReady g x = true → s.blockRuns x.block = true → s.holds x = true →
      x.placedAt ≤ s.clk → s.issueFree x = true → y.selectFetch = some (u, rot) →
      s.spanFailures c (lineOf u) 64 .fetch none none = [] → lineOk l = true →
      (y.entered = true ∨ bitAt (ofLe (l.take 4)) (u % 5) = true) → u % 5 ∉ linePairs (ofLe (l.take 4)) →
      decodeIn false (slotWord l (u % 5)) = .ok i → (∀ r ∈ vNamed i, r < y.vregs) → y.mayIssue m i = true →
      ∃ t : State, s.fetchGroup g = some t ∧ t.issue = some (Issue.mk (.group g) (BitVec.ofNat 53 u) m i none false) ∧
        t.mem = s.mem ∧ step s = settled (exec i t)) ∧
    (∀ r, settled (.refused r) = .refused r) ∧
    settled (.next s) = .next s.settle ∧
    ((∀ e ∈ s.dies, e.2.lost.length ≤ 64) → (∀ e ∈ s.cores, ∀ b ∈ e.2.banks, b.2.ending = false) →
      s.settle.mem = s.mem ∧ s.settle.issue = s.issue ∧ s.settle.stepNo = s.stepNo + 1 ∧ s.clk ≤ s.settle.clk ∧ ∀ g x, s.group? g = some x → ∃ y, s.settle.group? g = some y ∧ SameRegs x y ∧
        y.threads = x.threads ∧ y.ops = x.ops ∧ y.status = x.status)

/-- R21, R26, R88, R152: what an instruction of a group that has not ended leaves: every V, P and S register that it neither names
as written nor holds for an older operation, and, for an instruction of registers or of control other than EXIT, every byte of
memory. -/
def Obligations.RegisterAndMemoryFrame : Prop :=
  ∀ (s t : State) (k : Issue) (g : Nat) (x y : Group) (i : Instr),
    let spared := fun (r : Reg) => r ∉ (regUse i).writes ∧ ∀ o ∈ x.ops, r ∉ o.holds
    i.wf = true → Issued s k g x i → exec i s = .next t → t.group? g = some y → y.status ≠ .ended →
    (∀ n, spared (.v n) → ∀ q < 32, y.rv q n = x.rv q n) ∧
    (∀ n, spared (.p n) → ∀ q < 32, y.rp q n = x.rp q n) ∧
    (∀ n, spared (.s n) → y.rs n = x.rs n) ∧
    ((match i.view with | .v o _ => o ≠ 0x008 | .s .. => True | .b .. => True | _ => False) → t.mem = s.mem)

end Statements
end

