-- ==== Sys2Proof/Laws/Bits.lean ====
section
/-!
SUPPORT. Laws of elements of a register, of byte order and of masks.
-/
namespace Sys2Proof.Machine

/-! ### Elements -/

theorem elem_testBit (v : Word) (e w i : Nat) :
    (elem v e w).testBit i = (decide (i < w) && v.getLsbD (8 * e + i)) := by
  simp [elem, Nat.testBit_mod_two_pow, Nat.testBit_shiftRight, BitVec.getLsbD]

theorem lowMask_getLsbD (w i : Nat) : (lowMask w).getLsbD i = (decide (i < 64) && decide (i < w)) := by
  simp [lowMask, BitVec.getLsbD_ofNat, Nat.testBit_two_pow_sub_one]

theorem setElem_getLsbD (v : Word) (e w x i : Nat) (h : 8 * e + w ≤ 64) :
    (setElem v e w x).getLsbD i =
      if 8 * e ≤ i ∧ i < 8 * e + w then x.testBit (i - 8 * e) else v.getLsbD i := by
  unfold setElem
  simp only [BitVec.getLsbD_or, BitVec.getLsbD_and, BitVec.getLsbD_not, BitVec.getLsbD_shiftLeft, lowMask_getLsbD,
    BitVec.getLsbD_ofNat]
  by_cases h64 : i < 64
  · by_cases h1 : 8 * e ≤ i
    · have h2 : i - 8 * e < 64 := by omega
      by_cases h3 : i < 8 * e + w
      · have h4 : i - 8 * e < w := by omega
        have h5 : ¬ i < 8 * e := by omega
        simp [h64, h1, h2, h3, h4, h5]
      · have h4 : ¬ i - 8 * e < w := by omega
        simp [h64, h3, h4]
    · have h5 : i < 8 * e := by omega
      simp [h64, h1, h5]
  · have h1 : ¬ (8 * e ≤ i ∧ i < 8 * e + w) := by omega
    have h2 : v.getLsbD i = false := BitVec.getLsbD_of_ge v i (by omega)
    simp [h64, h1, h2]

/-- An element just written reads as written. -/
theorem elem_setElem_self (v : Word) (e w x : Nat) (h : 8 * e + w ≤ 64) : elem (setElem v e w x) e w = x % 2 ^ w := by
  apply Nat.eq_of_testBit_eq
  intro i
  rw [elem_testBit, setElem_getLsbD v e w x _ h, Nat.testBit_mod_two_pow]
  by_cases hi : i < w
  · simp [hi, show 8 * e + i < 8 * e + w from by omega]
  · simp [hi]

/-- Writing an element leaves elements apart from it. -/
theorem elem_setElem_other (v : Word) (e w x e2 w2 : Nat) (h : 8 * e + w ≤ 64) (ha : 8 * e2 + w2 ≤ 8 * e ∨ 8 * e + w ≤ 8 * e2) :
    elem (setElem v e w x) e2 w2 = elem v e2 w2 := by
  apply Nat.eq_of_testBit_eq
  intro i
  rw [elem_testBit, elem_testBit, setElem_getLsbD v e w x _ h]
  by_cases hi : i < w2
  · have : ¬ (8 * e ≤ 8 * e2 + i ∧ 8 * e2 + i < 8 * e + w) := by omega
    simp [hi, this]
  · simp [hi]

theorem elem_lt (v : Word) (e w : Nat) : elem v e w < 2 ^ w := Nat.mod_lt _ (Nat.two_pow_pos w)

/-! ### Threads of a mask -/

theorem mem_threadsOf {m : Mask} {t : Nat} : t ∈ threadsOf m ↔ t < 32 ∧ m.getLsbD t = true := by
  simp [threadsOf]

theorem threadsOf_nodup (m : Mask) : (threadsOf m).Nodup := List.Nodup.sublist List.filter_sublist List.nodup_range

/-! ### Byte order -/

theorem length_leBytes (n x : Nat) : (leBytes n x).length = n := by
  induction n generalizing x with
  | zero => rfl
  | succ k ih => simp [leBytes, ih]

/-- The bytes of a number give the number back, modulo their count. -/
theorem ofLe_leBytes (n x : Nat) : ofLe (leBytes n x) = x % 256 ^ n := by
  induction n generalizing x with
  | zero => simp [leBytes, ofLe, Nat.mod_one]
  | succ k ih =>
    simp only [leBytes, ofLe, BitVec.toNat_ofNat, ih]
    rw [show 256 ^ (k + 1) = 256 * 256 ^ k from by rw [Nat.pow_succ, Nat.mul_comm], Nat.mod_mul]

theorem ofLe_lt (l : List Byte) : ofLe l < 256 ^ l.length := by
  induction l with
  | nil => simp [ofLe]
  | cons b r ih =>
    have := b.isLt
    simp only [ofLe, List.length_cons, Nat.pow_succ]
    omega

end Sys2Proof.Machine
end

