-- ==== Sys2Proof/Laws/Sparse.lean ====
section
/-!
SUPPORT. Laws of sparse tables: reading after writing, and the canonical form.
-/
namespace Sys2Proof.Machine

variable {α : Type}

theorem Sparse.get_erase_self (d : α) (m : Sparse α) (k : Nat) : Sparse.get d (Sparse.erase m k) k = d := by
  induction m with
  | nil => rfl
  | cons p r ih =>
    obtain ⟨j, v⟩ := p
    by_cases h : j = k
    · simpa [Sparse.erase, h] using ih
    · simpa [Sparse.erase, h, Sparse.get] using ih

theorem Sparse.get_erase_ne (d : α) (m : Sparse α) {k j : Nat} (h : j ≠ k) :
    Sparse.get d (Sparse.erase m k) j = Sparse.get d m j := by
  induction m with
  | nil => rfl
  | cons p r ih =>
    obtain ⟨i, v⟩ := p
    by_cases hi : i = k
    · have hij : i ≠ j := fun e => h (e.symm.trans hi)
      have ih' := ih
      simp only [Sparse.erase] at ih' ⊢
      simp only [List.filter, hi, ne_eq, not_true_eq_false, decide_false]
      rw [ih']
      simp [Sparse.get, hij]
      intro e
      exact absurd (hi.trans e) hij
    · by_cases hj : i = j
      · simp [Sparse.erase, hi, Sparse.get, hj, h]
      · simpa [Sparse.erase, hi, Sparse.get, hj] using ih

theorem Sparse.get_insert_ne (d : α) (m : Sparse α) {k j : Nat} (v : α) (h : j ≠ k) :
    Sparse.get d (Sparse.insert m k v) j = Sparse.get d m j := by
  induction m with
  | nil => simp [Sparse.insert, Sparse.get, Ne.symm h]
  | cons p r ih =>
    obtain ⟨i, w⟩ := p
    by_cases hi : k < i
    · simp [Sparse.insert, hi, Sparse.get, Ne.symm h]
    · simp [Sparse.insert, hi, Sparse.get, ih]

theorem Sparse.get_insert_self (d : α) (m : Sparse α) (k : Nat) (v : α) (h : ∀ p ∈ m, p.1 ≠ k) :
    Sparse.get d (Sparse.insert m k v) k = v := by
  induction m with
  | nil => simp [Sparse.insert, Sparse.get]
  | cons p r ih =>
    obtain ⟨i, w⟩ := p
    have hi : i ≠ k := h (i, w) (by simp)
    by_cases hk : k < i
    · simp [Sparse.insert, hk, Sparse.get]
    · simp only [Sparse.insert, hk, if_false, Sparse.get, hi]
      exact ih (fun p hp => h p (by simp [hp]))

theorem Sparse.mem_erase {m : Sparse α} {k : Nat} {p : Nat × α} (h : p ∈ Sparse.erase m k) : p.1 ≠ k := by
  simpa using (List.mem_filter.mp h).2

theorem Sparse.get_put_self [DecidableEq α] (d : α) (m : Sparse α) (k : Nat) (v : α) :
    Sparse.get d (Sparse.put d m k v) k = v := by
  unfold Sparse.put
  split
  · next h => rw [Sparse.get_erase_self, h]
  · exact Sparse.get_insert_self d _ k v (fun p hp => Sparse.mem_erase hp)

theorem Sparse.get_put_ne [DecidableEq α] (d : α) (m : Sparse α) {k j : Nat} (v : α) (h : j ≠ k) :
    Sparse.get d (Sparse.put d m k v) j = Sparse.get d m j := by
  unfold Sparse.put
  split
  · exact Sparse.get_erase_ne d m h
  · rw [Sparse.get_insert_ne d _ v h, Sparse.get_erase_ne d m h]

theorem Sparse.get_put [DecidableEq α] (d : α) (m : Sparse α) (k j : Nat) (v : α) :
    Sparse.get d (Sparse.put d m k v) j = if j = k then v else Sparse.get d m j := by
  split
  · next h => rw [h, Sparse.get_put_self]
  · next h => exact Sparse.get_put_ne d m v h

theorem Sparse.find?_erase_ne (m : Sparse α) {k j : Nat} (h : j ≠ k) :
    Sparse.find? (Sparse.erase m k) j = Sparse.find? m j := by
  induction m with
  | nil => rfl
  | cons p r ih =>
    obtain ⟨i, v⟩ := p
    by_cases hi : i = k
    · have hij : i ≠ j := fun e => h (e.symm.trans hi)
      have e1 : Sparse.erase ((i, v) :: r) k = Sparse.erase r k := by simp [Sparse.erase, hi]
      rw [e1, ih]
      simp [Sparse.find?, hij]
    · have e1 : Sparse.erase ((i, v) :: r) k = (i, v) :: Sparse.erase r k := by simp [Sparse.erase, hi]
      rw [e1]
      simp only [Sparse.find?, ih]

theorem Sparse.find?_insert_ne (m : Sparse α) {k j : Nat} (v : α) (h : j ≠ k) :
    Sparse.find? (Sparse.insert m k v) j = Sparse.find? m j := by
  induction m with
  | nil => simp [Sparse.insert, Sparse.find?, Ne.symm h]
  | cons p r ih =>
    obtain ⟨i, w⟩ := p
    by_cases hi : k < i
    · simp [Sparse.insert, hi, Sparse.find?, Ne.symm h]
    · simp [Sparse.insert, hi, Sparse.find?, ih]

theorem Sparse.find?_insert_self (m : Sparse α) (k : Nat) (v : α) (h : ∀ p ∈ m, p.1 ≠ k) :
    Sparse.find? (Sparse.insert m k v) k = some v := by
  induction m with
  | nil => simp [Sparse.insert, Sparse.find?]
  | cons p r ih =>
    obtain ⟨i, w⟩ := p
    have hi : i ≠ k := h (i, w) (by simp)
    by_cases hk : k < i
    · simp [Sparse.insert, hk, Sparse.find?]
    · simp only [Sparse.insert, hk, if_false, Sparse.find?, hi]
      exact ih (fun p hp => h p (by simp [hp]))

theorem Sparse.find?_set_self (m : Sparse α) (k : Nat) (v : α) : Sparse.find? (Sparse.set m k v) k = some v :=
  Sparse.find?_insert_self _ k v (fun _ hp => Sparse.mem_erase hp)

theorem Sparse.find?_set_ne (m : Sparse α) {k j : Nat} (v : α) (h : j ≠ k) :
    Sparse.find? (Sparse.set m k v) j = Sparse.find? m j := by
  unfold Sparse.set
  rw [Sparse.find?_insert_ne _ v h, Sparse.find?_erase_ne m h]

theorem Sparse.find?_set (m : Sparse α) (k j : Nat) (v : α) :
    Sparse.find? (Sparse.set m k v) j = if j = k then some v else Sparse.find? m j := by
  split
  · next h => rw [h, Sparse.find?_set_self]
  · next h => exact Sparse.find?_set_ne m v h

/-! ### The canonical form -/

theorem Sparse.wf_cons [DecidableEq α] {d : α} {p : Nat × α} {r : Sparse α} :
    Sparse.wf d (p :: r) = true ↔ p.2 ≠ d ∧ (∀ q ∈ r, p.1 < q.1) ∧ Sparse.wf d r = true := by
  obtain ⟨k, v⟩ := p
  simp [Sparse.wf, and_assoc]

theorem Sparse.wf_erase [DecidableEq α] {d : α} {m : Sparse α} (k : Nat) (h : Sparse.wf d m = true) :
    Sparse.wf d (Sparse.erase m k) = true := by
  induction m with
  | nil => rfl
  | cons p r ih =>
    rw [Sparse.wf_cons] at h
    by_cases hk : p.1 = k
    · have : Sparse.erase (p :: r) k = Sparse.erase r k := by simp [Sparse.erase, hk]
      rw [this]; exact ih h.2.2
    · have : Sparse.erase (p :: r) k = p :: Sparse.erase r k := by simp [Sparse.erase, hk]
      rw [this, Sparse.wf_cons]
      exact ⟨h.1, fun q hq => h.2.1 q (List.mem_filter.mp hq).1, ih h.2.2⟩

theorem Sparse.mem_insert {m : Sparse α} {k : Nat} {v : α} {q : Nat × α} (h : q ∈ Sparse.insert m k v) :
    q = (k, v) ∨ q ∈ m := by
  induction m with
  | nil => simpa [Sparse.insert] using h
  | cons p r ih =>
    obtain ⟨i, w⟩ := p
    by_cases hk : k < i
    · simpa [Sparse.insert, hk] using h
    · simp only [Sparse.insert, hk, if_false, List.mem_cons] at h
      rcases h with h | h
      · exact .inr (by simp [h])
      · rcases ih h with h | h
        · exact .inl h
        · exact .inr (by simp [h])

theorem Sparse.wf_insert [DecidableEq α] {d : α} {m : Sparse α} {k : Nat} {v : α} (hv : v ≠ d) (hk : ∀ p ∈ m, p.1 ≠ k)
    (h : Sparse.wf d m = true) : Sparse.wf d (Sparse.insert m k v) = true := by
  induction m with
  | nil => simp [Sparse.insert, Sparse.wf, hv]
  | cons p r ih =>
    obtain ⟨i, w⟩ := p
    have hw := Sparse.wf_cons.mp h
    by_cases hi : k < i
    · simp only [Sparse.insert, hi, if_true]
      refine Sparse.wf_cons.mpr ⟨hv, fun q hq => ?_, h⟩
      rcases List.mem_cons.mp hq with e | e
      · simpa [e] using hi
      · exact Nat.lt_trans hi (hw.2.1 q e)
    · simp only [Sparse.insert, hi, if_false]
      have hki : i ≠ k := hk (i, w) (by simp)
      refine Sparse.wf_cons.mpr ⟨hw.1, fun q hq => ?_, ih (fun p hp => hk p (by simp [hp])) hw.2.2⟩
      rcases Sparse.mem_insert hq with e | e
      · rw [e]; exact Nat.lt_of_le_of_ne (Nat.le_of_not_lt hi) hki
      · exact hw.2.1 q e

theorem Sparse.wf_put [DecidableEq α] {d : α} {m : Sparse α} (k : Nat) (v : α) (h : Sparse.wf d m = true) :
    Sparse.wf d (Sparse.put d m k v) = true := by
  unfold Sparse.put
  split
  · exact Sparse.wf_erase k h
  · next hv => exact Sparse.wf_insert hv (fun _ hp => Sparse.mem_erase hp) (Sparse.wf_erase k h)

end Sys2Proof.Machine
end

