-- ==== Sys2Proof/Laws/State.lean ====
section
/-!
SUPPORT. One law for each field of the state under each of its updates, and of a group under the writing of its registers:
no later proof unfolds a record update.
-/
namespace Sys2Proof.Machine

/-! ### `State.setByte` -/

@[simp] theorem State.setByte_clk (s : State) (pa : Nat) (b : Byte) : (s.setByte pa b).clk = s.clk := rfl
@[simp] theorem State.setByte_stepNo (s : State) (pa : Nat) (b : Byte) : (s.setByte pa b).stepNo = s.stepNo := rfl
@[simp] theorem State.setByte_agenda (s : State) (pa : Nat) (b : Byte) : (s.setByte pa b).agenda = s.agenda := rfl
@[simp] theorem State.setByte_issue (s : State) (pa : Nat) (b : Byte) : (s.setByte pa b).issue = s.issue := rfl
@[simp] theorem State.setByte_mem (s : State) (pa : Nat) (b : Byte) : (s.setByte pa b).mem = Sparse.put Memory.blank s.mem pa b := rfl
@[simp] theorem State.setByte_groups (s : State) (pa : Nat) (b : Byte) : (s.setByte pa b).groups = s.groups := rfl
@[simp] theorem State.setByte_tiles (s : State) (pa : Nat) (b : Byte) : (s.setByte pa b).tiles = s.tiles := rfl
@[simp] theorem State.setByte_blocks (s : State) (pa : Nat) (b : Byte) : (s.setByte pa b).blocks = s.blocks := rfl
@[simp] theorem State.setByte_launches (s : State) (pa : Nat) (b : Byte) : (s.setByte pa b).launches = s.launches := rfl
@[simp] theorem State.setByte_ctxs (s : State) (pa : Nat) (b : Byte) : (s.setByte pa b).ctxs = s.ctxs := rfl
@[simp] theorem State.setByte_cores (s : State) (pa : Nat) (b : Byte) : (s.setByte pa b).cores = s.cores := rfl
@[simp] theorem State.setByte_dies (s : State) (pa : Nat) (b : Byte) : (s.setByte pa b).dies = s.dies := rfl
@[simp] theorem State.setByte_bounds (s : State) (pa : Nat) (b : Byte) : (s.setByte pa b).bounds = s.bounds := rfl
@[simp] theorem State.setByte_stamps (s : State) (pa : Nat) (b : Byte) : (s.setByte pa b).stamps = s.stamps := rfl
@[simp] theorem State.setByte_history (s : State) (pa : Nat) (b : Byte) : (s.setByte pa b).history = s.history := rfl
@[simp] theorem State.setByte_moves (s : State) (pa : Nat) (b : Byte) : (s.setByte pa b).moves = s.moves := rfl
@[simp] theorem State.setByte_shards (s : State) (pa : Nat) (b : Byte) : (s.setByte pa b).shards = s.shards := rfl
@[simp] theorem State.setByte_nextId (s : State) (pa : Nat) (b : Byte) : (s.setByte pa b).nextId = s.nextId := rfl
@[simp] theorem State.setByte_turn (s : State) (pa : Nat) (b : Byte) : (s.setByte pa b).turn = s.turn := rfl
@[simp] theorem State.setByte_mstat (s : State) (pa : Nat) (b : Byte) : (s.setByte pa b).mstat = s.mstat := rfl
@[simp] theorem State.setByte_mbox (s : State) (pa : Nat) (b : Byte) : (s.setByte pa b).mbox = s.mbox := rfl
@[simp] theorem State.setByte_aperture (s : State) (pa : Nat) (b : Byte) : (s.setByte pa b).aperture = s.aperture := rfl
@[simp] theorem State.setByte_peers (s : State) (pa : Nat) (b : Byte) : (s.setByte pa b).peers = s.peers := rfl
@[simp] theorem State.setByte_ptmBound (s : State) (pa : Nat) (b : Byte) : (s.setByte pa b).ptmBound = s.ptmBound := rfl
@[simp] theorem State.setByte_ptm (s : State) (pa : Nat) (b : Byte) : (s.setByte pa b).ptm = s.ptm := rfl
@[simp] theorem State.setByte_ctlDrift (s : State) (pa : Nat) (b : Byte) : (s.setByte pa b).ctlDrift = s.ctlDrift := rfl
@[simp] theorem State.setByte_log (s : State) (pa : Nat) (b : Byte) : (s.setByte pa b).log = s.log := rfl
@[simp] theorem State.setByte_listed (s : State) (pa : Nat) (b : Byte) : (s.setByte pa b).listed = s.listed := rfl
@[simp] theorem State.setByte_spared (s : State) (pa : Nat) (b : Byte) : (s.setByte pa b).spared = s.spared := rfl
@[simp] theorem State.setByte_retired (s : State) (pa : Nat) (b : Byte) : (s.setByte pa b).retired = s.retired := rfl
@[simp] theorem State.setByte_rowErrors (s : State) (pa : Nat) (b : Byte) : (s.setByte pa b).rowErrors = s.rowErrors := rfl
@[simp] theorem State.setByte_debugged (s : State) (pa : Nat) (b : Byte) : (s.setByte pa b).debugged = s.debugged := rfl
@[simp] theorem State.setByte_linkErrs (s : State) (pa : Nat) (b : Byte) : (s.setByte pa b).linkErrs = s.linkErrs := rfl
@[simp] theorem State.setByte_downs (s : State) (pa : Nat) (b : Byte) : (s.setByte pa b).downs = s.downs := rfl
@[simp] theorem State.setByte_hostRead (s : State) (pa : Nat) (b : Byte) : (s.setByte pa b).hostRead = s.hostRead := rfl
@[simp] theorem State.setByte_told (s : State) (pa : Nat) (b : Byte) : (s.setByte pa b).told = s.told := rfl
@[simp] theorem State.setByte_report (s : State) (pa : Nat) (b : Byte) : (s.setByte pa b).report = s.report := rfl
@[simp] theorem State.setByte_irqs (s : State) (pa : Nat) (b : Byte) : (s.setByte pa b).irqs = s.irqs := rfl
@[simp] theorem State.setByte_versions (s : State) (pa : Nat) (b : Byte) : (s.setByte pa b).versions = s.versions := rfl
@[simp] theorem State.setByte_trans (s : State) (pa : Nat) (b : Byte) : (s.setByte pa b).trans = s.trans := rfl
@[simp] theorem State.setByte_users (s : State) (pa : Nat) (b : Byte) : (s.setByte pa b).users = s.users := rfl
@[simp] theorem State.setByte_ctlIrqs (s : State) (pa : Nat) (b : Byte) : (s.setByte pa b).ctlIrqs = s.ctlIrqs := rfl
@[simp] theorem State.setByte_booted (s : State) (pa : Nat) (b : Byte) : (s.setByte pa b).booted = s.booted := rfl

/-! ### `State.setCore` -/

@[simp] theorem State.setCore_clk (s : State) (c : Nat) (x : Core) : (s.setCore c x).clk = s.clk := rfl
@[simp] theorem State.setCore_stepNo (s : State) (c : Nat) (x : Core) : (s.setCore c x).stepNo = s.stepNo := rfl
@[simp] theorem State.setCore_agenda (s : State) (c : Nat) (x : Core) : (s.setCore c x).agenda = s.agenda := rfl
@[simp] theorem State.setCore_issue (s : State) (c : Nat) (x : Core) : (s.setCore c x).issue = s.issue := rfl
@[simp] theorem State.setCore_mem (s : State) (c : Nat) (x : Core) : (s.setCore c x).mem = s.mem := rfl
@[simp] theorem State.setCore_groups (s : State) (c : Nat) (x : Core) : (s.setCore c x).groups = s.groups := rfl
@[simp] theorem State.setCore_tiles (s : State) (c : Nat) (x : Core) : (s.setCore c x).tiles = s.tiles := rfl
@[simp] theorem State.setCore_blocks (s : State) (c : Nat) (x : Core) : (s.setCore c x).blocks = s.blocks := rfl
@[simp] theorem State.setCore_launches (s : State) (c : Nat) (x : Core) : (s.setCore c x).launches = s.launches := rfl
@[simp] theorem State.setCore_ctxs (s : State) (c : Nat) (x : Core) : (s.setCore c x).ctxs = s.ctxs := rfl
@[simp] theorem State.setCore_cores (s : State) (c : Nat) (x : Core) : (s.setCore c x).cores = Sparse.put Core.idle s.cores c x := rfl
@[simp] theorem State.setCore_dies (s : State) (c : Nat) (x : Core) : (s.setCore c x).dies = s.dies := rfl
@[simp] theorem State.setCore_bounds (s : State) (c : Nat) (x : Core) : (s.setCore c x).bounds = s.bounds := rfl
@[simp] theorem State.setCore_stamps (s : State) (c : Nat) (x : Core) : (s.setCore c x).stamps = s.stamps := rfl
@[simp] theorem State.setCore_history (s : State) (c : Nat) (x : Core) : (s.setCore c x).history = s.history := rfl
@[simp] theorem State.setCore_moves (s : State) (c : Nat) (x : Core) : (s.setCore c x).moves = s.moves := rfl
@[simp] theorem State.setCore_shards (s : State) (c : Nat) (x : Core) : (s.setCore c x).shards = s.shards := rfl
@[simp] theorem State.setCore_nextId (s : State) (c : Nat) (x : Core) : (s.setCore c x).nextId = s.nextId := rfl
@[simp] theorem State.setCore_turn (s : State) (c : Nat) (x : Core) : (s.setCore c x).turn = s.turn := rfl
@[simp] theorem State.setCore_mstat (s : State) (c : Nat) (x : Core) : (s.setCore c x).mstat = s.mstat := rfl
@[simp] theorem State.setCore_mbox (s : State) (c : Nat) (x : Core) : (s.setCore c x).mbox = s.mbox := rfl
@[simp] theorem State.setCore_aperture (s : State) (c : Nat) (x : Core) : (s.setCore c x).aperture = s.aperture := rfl
@[simp] theorem State.setCore_peers (s : State) (c : Nat) (x : Core) : (s.setCore c x).peers = s.peers := rfl
@[simp] theorem State.setCore_ptmBound (s : State) (c : Nat) (x : Core) : (s.setCore c x).ptmBound = s.ptmBound := rfl
@[simp] theorem State.setCore_ptm (s : State) (c : Nat) (x : Core) : (s.setCore c x).ptm = s.ptm := rfl
@[simp] theorem State.setCore_ctlDrift (s : State) (c : Nat) (x : Core) : (s.setCore c x).ctlDrift = s.ctlDrift := rfl
@[simp] theorem State.setCore_log (s : State) (c : Nat) (x : Core) : (s.setCore c x).log = s.log := rfl
@[simp] theorem State.setCore_listed (s : State) (c : Nat) (x : Core) : (s.setCore c x).listed = s.listed := rfl
@[simp] theorem State.setCore_spared (s : State) (c : Nat) (x : Core) : (s.setCore c x).spared = s.spared := rfl
@[simp] theorem State.setCore_retired (s : State) (c : Nat) (x : Core) : (s.setCore c x).retired = s.retired := rfl
@[simp] theorem State.setCore_rowErrors (s : State) (c : Nat) (x : Core) : (s.setCore c x).rowErrors = s.rowErrors := rfl
@[simp] theorem State.setCore_debugged (s : State) (c : Nat) (x : Core) : (s.setCore c x).debugged = s.debugged := rfl
@[simp] theorem State.setCore_linkErrs (s : State) (c : Nat) (x : Core) : (s.setCore c x).linkErrs = s.linkErrs := rfl
@[simp] theorem State.setCore_downs (s : State) (c : Nat) (x : Core) : (s.setCore c x).downs = s.downs := rfl
@[simp] theorem State.setCore_hostRead (s : State) (c : Nat) (x : Core) : (s.setCore c x).hostRead = s.hostRead := rfl
@[simp] theorem State.setCore_told (s : State) (c : Nat) (x : Core) : (s.setCore c x).told = s.told := rfl
@[simp] theorem State.setCore_report (s : State) (c : Nat) (x : Core) : (s.setCore c x).report = s.report := rfl
@[simp] theorem State.setCore_irqs (s : State) (c : Nat) (x : Core) : (s.setCore c x).irqs = s.irqs := rfl
@[simp] theorem State.setCore_versions (s : State) (c : Nat) (x : Core) : (s.setCore c x).versions = s.versions := rfl
@[simp] theorem State.setCore_trans (s : State) (c : Nat) (x : Core) : (s.setCore c x).trans = s.trans := rfl
@[simp] theorem State.setCore_users (s : State) (c : Nat) (x : Core) : (s.setCore c x).users = s.users := rfl
@[simp] theorem State.setCore_ctlIrqs (s : State) (c : Nat) (x : Core) : (s.setCore c x).ctlIrqs = s.ctlIrqs := rfl
@[simp] theorem State.setCore_booted (s : State) (c : Nat) (x : Core) : (s.setCore c x).booted = s.booted := rfl

/-! ### `State.setDie` -/

@[simp] theorem State.setDie_clk (s : State) (d : Nat) (x : Die) : (s.setDie d x).clk = s.clk := rfl
@[simp] theorem State.setDie_stepNo (s : State) (d : Nat) (x : Die) : (s.setDie d x).stepNo = s.stepNo := rfl
@[simp] theorem State.setDie_agenda (s : State) (d : Nat) (x : Die) : (s.setDie d x).agenda = s.agenda := rfl
@[simp] theorem State.setDie_issue (s : State) (d : Nat) (x : Die) : (s.setDie d x).issue = s.issue := rfl
@[simp] theorem State.setDie_mem (s : State) (d : Nat) (x : Die) : (s.setDie d x).mem = s.mem := rfl
@[simp] theorem State.setDie_groups (s : State) (d : Nat) (x : Die) : (s.setDie d x).groups = s.groups := rfl
@[simp] theorem State.setDie_tiles (s : State) (d : Nat) (x : Die) : (s.setDie d x).tiles = s.tiles := rfl
@[simp] theorem State.setDie_blocks (s : State) (d : Nat) (x : Die) : (s.setDie d x).blocks = s.blocks := rfl
@[simp] theorem State.setDie_launches (s : State) (d : Nat) (x : Die) : (s.setDie d x).launches = s.launches := rfl
@[simp] theorem State.setDie_ctxs (s : State) (d : Nat) (x : Die) : (s.setDie d x).ctxs = s.ctxs := rfl
@[simp] theorem State.setDie_cores (s : State) (d : Nat) (x : Die) : (s.setDie d x).cores = s.cores := rfl
@[simp] theorem State.setDie_dies (s : State) (d : Nat) (x : Die) : (s.setDie d x).dies = Sparse.put Die.reset s.dies d x := rfl
@[simp] theorem State.setDie_bounds (s : State) (d : Nat) (x : Die) : (s.setDie d x).bounds = s.bounds := rfl
@[simp] theorem State.setDie_stamps (s : State) (d : Nat) (x : Die) : (s.setDie d x).stamps = s.stamps := rfl
@[simp] theorem State.setDie_history (s : State) (d : Nat) (x : Die) : (s.setDie d x).history = s.history := rfl
@[simp] theorem State.setDie_moves (s : State) (d : Nat) (x : Die) : (s.setDie d x).moves = s.moves := rfl
@[simp] theorem State.setDie_shards (s : State) (d : Nat) (x : Die) : (s.setDie d x).shards = s.shards := rfl
@[simp] theorem State.setDie_nextId (s : State) (d : Nat) (x : Die) : (s.setDie d x).nextId = s.nextId := rfl
@[simp] theorem State.setDie_turn (s : State) (d : Nat) (x : Die) : (s.setDie d x).turn = s.turn := rfl
@[simp] theorem State.setDie_mstat (s : State) (d : Nat) (x : Die) : (s.setDie d x).mstat = s.mstat := rfl
@[simp] theorem State.setDie_mbox (s : State) (d : Nat) (x : Die) : (s.setDie d x).mbox = s.mbox := rfl
@[simp] theorem State.setDie_aperture (s : State) (d : Nat) (x : Die) : (s.setDie d x).aperture = s.aperture := rfl
@[simp] theorem State.setDie_peers (s : State) (d : Nat) (x : Die) : (s.setDie d x).peers = s.peers := rfl
@[simp] theorem State.setDie_ptmBound (s : State) (d : Nat) (x : Die) : (s.setDie d x).ptmBound = s.ptmBound := rfl
@[simp] theorem State.setDie_ptm (s : State) (d : Nat) (x : Die) : (s.setDie d x).ptm = s.ptm := rfl
@[simp] theorem State.setDie_ctlDrift (s : State) (d : Nat) (x : Die) : (s.setDie d x).ctlDrift = s.ctlDrift := rfl
@[simp] theorem State.setDie_log (s : State) (d : Nat) (x : Die) : (s.setDie d x).log = s.log := rfl
@[simp] theorem State.setDie_listed (s : State) (d : Nat) (x : Die) : (s.setDie d x).listed = s.listed := rfl
@[simp] theorem State.setDie_spared (s : State) (d : Nat) (x : Die) : (s.setDie d x).spared = s.spared := rfl
@[simp] theorem State.setDie_retired (s : State) (d : Nat) (x : Die) : (s.setDie d x).retired = s.retired := rfl
@[simp] theorem State.setDie_rowErrors (s : State) (d : Nat) (x : Die) : (s.setDie d x).rowErrors = s.rowErrors := rfl
@[simp] theorem State.setDie_debugged (s : State) (d : Nat) (x : Die) : (s.setDie d x).debugged = s.debugged := rfl
@[simp] theorem State.setDie_linkErrs (s : State) (d : Nat) (x : Die) : (s.setDie d x).linkErrs = s.linkErrs := rfl
@[simp] theorem State.setDie_downs (s : State) (d : Nat) (x : Die) : (s.setDie d x).downs = s.downs := rfl
@[simp] theorem State.setDie_hostRead (s : State) (d : Nat) (x : Die) : (s.setDie d x).hostRead = s.hostRead := rfl
@[simp] theorem State.setDie_told (s : State) (d : Nat) (x : Die) : (s.setDie d x).told = s.told := rfl
@[simp] theorem State.setDie_report (s : State) (d : Nat) (x : Die) : (s.setDie d x).report = s.report := rfl
@[simp] theorem State.setDie_irqs (s : State) (d : Nat) (x : Die) : (s.setDie d x).irqs = s.irqs := rfl
@[simp] theorem State.setDie_versions (s : State) (d : Nat) (x : Die) : (s.setDie d x).versions = s.versions := rfl
@[simp] theorem State.setDie_trans (s : State) (d : Nat) (x : Die) : (s.setDie d x).trans = s.trans := rfl
@[simp] theorem State.setDie_users (s : State) (d : Nat) (x : Die) : (s.setDie d x).users = s.users := rfl
@[simp] theorem State.setDie_ctlIrqs (s : State) (d : Nat) (x : Die) : (s.setDie d x).ctlIrqs = s.ctlIrqs := rfl
@[simp] theorem State.setDie_booted (s : State) (d : Nat) (x : Die) : (s.setDie d x).booted = s.booted := rfl

/-! ### `State.setGroup` -/

@[simp] theorem State.setGroup_clk (s : State) (g : Nat) (x : Group) : (s.setGroup g x).clk = s.clk := rfl
@[simp] theorem State.setGroup_stepNo (s : State) (g : Nat) (x : Group) : (s.setGroup g x).stepNo = s.stepNo := rfl
@[simp] theorem State.setGroup_agenda (s : State) (g : Nat) (x : Group) : (s.setGroup g x).agenda = s.agenda := rfl
@[simp] theorem State.setGroup_issue (s : State) (g : Nat) (x : Group) : (s.setGroup g x).issue = s.issue := rfl
@[simp] theorem State.setGroup_mem (s : State) (g : Nat) (x : Group) : (s.setGroup g x).mem = s.mem := rfl
@[simp] theorem State.setGroup_groups (s : State) (g : Nat) (x : Group) : (s.setGroup g x).groups = Sparse.set s.groups g x := rfl
@[simp] theorem State.setGroup_tiles (s : State) (g : Nat) (x : Group) : (s.setGroup g x).tiles = s.tiles := rfl
@[simp] theorem State.setGroup_blocks (s : State) (g : Nat) (x : Group) : (s.setGroup g x).blocks = s.blocks := rfl
@[simp] theorem State.setGroup_launches (s : State) (g : Nat) (x : Group) : (s.setGroup g x).launches = s.launches := rfl
@[simp] theorem State.setGroup_ctxs (s : State) (g : Nat) (x : Group) : (s.setGroup g x).ctxs = s.ctxs := rfl
@[simp] theorem State.setGroup_cores (s : State) (g : Nat) (x : Group) : (s.setGroup g x).cores = s.cores := rfl
@[simp] theorem State.setGroup_dies (s : State) (g : Nat) (x : Group) : (s.setGroup g x).dies = s.dies := rfl
@[simp] theorem State.setGroup_bounds (s : State) (g : Nat) (x : Group) : (s.setGroup g x).bounds = s.bounds := rfl
@[simp] theorem State.setGroup_stamps (s : State) (g : Nat) (x : Group) : (s.setGroup g x).stamps = s.stamps := rfl
@[simp] theorem State.setGroup_history (s : State) (g : Nat) (x : Group) : (s.setGroup g x).history = s.history := rfl
@[simp] theorem State.setGroup_moves (s : State) (g : Nat) (x : Group) : (s.setGroup g x).moves = s.moves := rfl
@[simp] theorem State.setGroup_shards (s : State) (g : Nat) (x : Group) : (s.setGroup g x).shards = s.shards := rfl
@[simp] theorem State.setGroup_nextId (s : State) (g : Nat) (x : Group) : (s.setGroup g x).nextId = s.nextId := rfl
@[simp] theorem State.setGroup_turn (s : State) (g : Nat) (x : Group) : (s.setGroup g x).turn = s.turn := rfl
@[simp] theorem State.setGroup_mstat (s : State) (g : Nat) (x : Group) : (s.setGroup g x).mstat = s.mstat := rfl
@[simp] theorem State.setGroup_mbox (s : State) (g : Nat) (x : Group) : (s.setGroup g x).mbox = s.mbox := rfl
@[simp] theorem State.setGroup_aperture (s : State) (g : Nat) (x : Group) : (s.setGroup g x).aperture = s.aperture := rfl
@[simp] theorem State.setGroup_peers (s : State) (g : Nat) (x : Group) : (s.setGroup g x).peers = s.peers := rfl
@[simp] theorem State.setGroup_ptmBound (s : State) (g : Nat) (x : Group) : (s.setGroup g x).ptmBound = s.ptmBound := rfl
@[simp] theorem State.setGroup_ptm (s : State) (g : Nat) (x : Group) : (s.setGroup g x).ptm = s.ptm := rfl
@[simp] theorem State.setGroup_ctlDrift (s : State) (g : Nat) (x : Group) : (s.setGroup g x).ctlDrift = s.ctlDrift := rfl
@[simp] theorem State.setGroup_log (s : State) (g : Nat) (x : Group) : (s.setGroup g x).log = s.log := rfl
@[simp] theorem State.setGroup_listed (s : State) (g : Nat) (x : Group) : (s.setGroup g x).listed = s.listed := rfl
@[simp] theorem State.setGroup_spared (s : State) (g : Nat) (x : Group) : (s.setGroup g x).spared = s.spared := rfl
@[simp] theorem State.setGroup_retired (s : State) (g : Nat) (x : Group) : (s.setGroup g x).retired = s.retired := rfl
@[simp] theorem State.setGroup_rowErrors (s : State) (g : Nat) (x : Group) : (s.setGroup g x).rowErrors = s.rowErrors := rfl
@[simp] theorem State.setGroup_debugged (s : State) (g : Nat) (x : Group) : (s.setGroup g x).debugged = s.debugged := rfl
@[simp] theorem State.setGroup_linkErrs (s : State) (g : Nat) (x : Group) : (s.setGroup g x).linkErrs = s.linkErrs := rfl
@[simp] theorem State.setGroup_downs (s : State) (g : Nat) (x : Group) : (s.setGroup g x).downs = s.downs := rfl
@[simp] theorem State.setGroup_hostRead (s : State) (g : Nat) (x : Group) : (s.setGroup g x).hostRead = s.hostRead := rfl
@[simp] theorem State.setGroup_told (s : State) (g : Nat) (x : Group) : (s.setGroup g x).told = s.told := rfl
@[simp] theorem State.setGroup_report (s : State) (g : Nat) (x : Group) : (s.setGroup g x).report = s.report := rfl
@[simp] theorem State.setGroup_irqs (s : State) (g : Nat) (x : Group) : (s.setGroup g x).irqs = s.irqs := rfl
@[simp] theorem State.setGroup_versions (s : State) (g : Nat) (x : Group) : (s.setGroup g x).versions = s.versions := rfl
@[simp] theorem State.setGroup_trans (s : State) (g : Nat) (x : Group) : (s.setGroup g x).trans = s.trans := rfl
@[simp] theorem State.setGroup_users (s : State) (g : Nat) (x : Group) : (s.setGroup g x).users = s.users := rfl
@[simp] theorem State.setGroup_ctlIrqs (s : State) (g : Nat) (x : Group) : (s.setGroup g x).ctlIrqs = s.ctlIrqs := rfl
@[simp] theorem State.setGroup_booted (s : State) (g : Nat) (x : Group) : (s.setGroup g x).booted = s.booted := rfl

/-! ### `State.setTile` -/

@[simp] theorem State.setTile_clk (s : State) (t : Nat) (x : Tile) : (s.setTile t x).clk = s.clk := rfl
@[simp] theorem State.setTile_stepNo (s : State) (t : Nat) (x : Tile) : (s.setTile t x).stepNo = s.stepNo := rfl
@[simp] theorem State.setTile_agenda (s : State) (t : Nat) (x : Tile) : (s.setTile t x).agenda = s.agenda := rfl
@[simp] theorem State.setTile_issue (s : State) (t : Nat) (x : Tile) : (s.setTile t x).issue = s.issue := rfl
@[simp] theorem State.setTile_mem (s : State) (t : Nat) (x : Tile) : (s.setTile t x).mem = s.mem := rfl
@[simp] theorem State.setTile_groups (s : State) (t : Nat) (x : Tile) : (s.setTile t x).groups = s.groups := rfl
@[simp] theorem State.setTile_tiles (s : State) (t : Nat) (x : Tile) : (s.setTile t x).tiles = Sparse.set s.tiles t x := rfl
@[simp] theorem State.setTile_blocks (s : State) (t : Nat) (x : Tile) : (s.setTile t x).blocks = s.blocks := rfl
@[simp] theorem State.setTile_launches (s : State) (t : Nat) (x : Tile) : (s.setTile t x).launches = s.launches := rfl
@[simp] theorem State.setTile_ctxs (s : State) (t : Nat) (x : Tile) : (s.setTile t x).ctxs = s.ctxs := rfl
@[simp] theorem State.setTile_cores (s : State) (t : Nat) (x : Tile) : (s.setTile t x).cores = s.cores := rfl
@[simp] theorem State.setTile_dies (s : State) (t : Nat) (x : Tile) : (s.setTile t x).dies = s.dies := rfl
@[simp] theorem State.setTile_bounds (s : State) (t : Nat) (x : Tile) : (s.setTile t x).bounds = s.bounds := rfl
@[simp] theorem State.setTile_stamps (s : State) (t : Nat) (x : Tile) : (s.setTile t x).stamps = s.stamps := rfl
@[simp] theorem State.setTile_history (s : State) (t : Nat) (x : Tile) : (s.setTile t x).history = s.history := rfl
@[simp] theorem State.setTile_moves (s : State) (t : Nat) (x : Tile) : (s.setTile t x).moves = s.moves := rfl
@[simp] theorem State.setTile_shards (s : State) (t : Nat) (x : Tile) : (s.setTile t x).shards = s.shards := rfl
@[simp] theorem State.setTile_nextId (s : State) (t : Nat) (x : Tile) : (s.setTile t x).nextId = s.nextId := rfl
@[simp] theorem State.setTile_turn (s : State) (t : Nat) (x : Tile) : (s.setTile t x).turn = s.turn := rfl
@[simp] theorem State.setTile_mstat (s : State) (t : Nat) (x : Tile) : (s.setTile t x).mstat = s.mstat := rfl
@[simp] theorem State.setTile_mbox (s : State) (t : Nat) (x : Tile) : (s.setTile t x).mbox = s.mbox := rfl
@[simp] theorem State.setTile_aperture (s : State) (t : Nat) (x : Tile) : (s.setTile t x).aperture = s.aperture := rfl
@[simp] theorem State.setTile_peers (s : State) (t : Nat) (x : Tile) : (s.setTile t x).peers = s.peers := rfl
@[simp] theorem State.setTile_ptmBound (s : State) (t : Nat) (x : Tile) : (s.setTile t x).ptmBound = s.ptmBound := rfl
@[simp] theorem State.setTile_ptm (s : State) (t : Nat) (x : Tile) : (s.setTile t x).ptm = s.ptm := rfl
@[simp] theorem State.setTile_ctlDrift (s : State) (t : Nat) (x : Tile) : (s.setTile t x).ctlDrift = s.ctlDrift := rfl
@[simp] theorem State.setTile_log (s : State) (t : Nat) (x : Tile) : (s.setTile t x).log = s.log := rfl
@[simp] theorem State.setTile_listed (s : State) (t : Nat) (x : Tile) : (s.setTile t x).listed = s.listed := rfl
@[simp] theorem State.setTile_spared (s : State) (t : Nat) (x : Tile) : (s.setTile t x).spared = s.spared := rfl
@[simp] theorem State.setTile_retired (s : State) (t : Nat) (x : Tile) : (s.setTile t x).retired = s.retired := rfl
@[simp] theorem State.setTile_rowErrors (s : State) (t : Nat) (x : Tile) : (s.setTile t x).rowErrors = s.rowErrors := rfl
@[simp] theorem State.setTile_debugged (s : State) (t : Nat) (x : Tile) : (s.setTile t x).debugged = s.debugged := rfl
@[simp] theorem State.setTile_linkErrs (s : State) (t : Nat) (x : Tile) : (s.setTile t x).linkErrs = s.linkErrs := rfl
@[simp] theorem State.setTile_downs (s : State) (t : Nat) (x : Tile) : (s.setTile t x).downs = s.downs := rfl
@[simp] theorem State.setTile_hostRead (s : State) (t : Nat) (x : Tile) : (s.setTile t x).hostRead = s.hostRead := rfl
@[simp] theorem State.setTile_told (s : State) (t : Nat) (x : Tile) : (s.setTile t x).told = s.told := rfl
@[simp] theorem State.setTile_report (s : State) (t : Nat) (x : Tile) : (s.setTile t x).report = s.report := rfl
@[simp] theorem State.setTile_irqs (s : State) (t : Nat) (x : Tile) : (s.setTile t x).irqs = s.irqs := rfl
@[simp] theorem State.setTile_versions (s : State) (t : Nat) (x : Tile) : (s.setTile t x).versions = s.versions := rfl
@[simp] theorem State.setTile_trans (s : State) (t : Nat) (x : Tile) : (s.setTile t x).trans = s.trans := rfl
@[simp] theorem State.setTile_users (s : State) (t : Nat) (x : Tile) : (s.setTile t x).users = s.users := rfl
@[simp] theorem State.setTile_ctlIrqs (s : State) (t : Nat) (x : Tile) : (s.setTile t x).ctlIrqs = s.ctlIrqs := rfl
@[simp] theorem State.setTile_booted (s : State) (t : Nat) (x : Tile) : (s.setTile t x).booted = s.booted := rfl

/-! ### `State.setBlock` -/

@[simp] theorem State.setBlock_clk (s : State) (b : Nat) (x : Block) : (s.setBlock b x).clk = s.clk := rfl
@[simp] theorem State.setBlock_stepNo (s : State) (b : Nat) (x : Block) : (s.setBlock b x).stepNo = s.stepNo := rfl
@[simp] theorem State.setBlock_agenda (s : State) (b : Nat) (x : Block) : (s.setBlock b x).agenda = s.agenda := rfl
@[simp] theorem State.setBlock_issue (s : State) (b : Nat) (x : Block) : (s.setBlock b x).issue = s.issue := rfl
@[simp] theorem State.setBlock_mem (s : State) (b : Nat) (x : Block) : (s.setBlock b x).mem = s.mem := rfl
@[simp] theorem State.setBlock_groups (s : State) (b : Nat) (x : Block) : (s.setBlock b x).groups = s.groups := rfl
@[simp] theorem State.setBlock_tiles (s : State) (b : Nat) (x : Block) : (s.setBlock b x).tiles = s.tiles := rfl
@[simp] theorem State.setBlock_blocks (s : State) (b : Nat) (x : Block) : (s.setBlock b x).blocks = Sparse.set s.blocks b x := rfl
@[simp] theorem State.setBlock_launches (s : State) (b : Nat) (x : Block) : (s.setBlock b x).launches = s.launches := rfl
@[simp] theorem State.setBlock_ctxs (s : State) (b : Nat) (x : Block) : (s.setBlock b x).ctxs = s.ctxs := rfl
@[simp] theorem State.setBlock_cores (s : State) (b : Nat) (x : Block) : (s.setBlock b x).cores = s.cores := rfl
@[simp] theorem State.setBlock_dies (s : State) (b : Nat) (x : Block) : (s.setBlock b x).dies = s.dies := rfl
@[simp] theorem State.setBlock_bounds (s : State) (b : Nat) (x : Block) : (s.setBlock b x).bounds = s.bounds := rfl
@[simp] theorem State.setBlock_stamps (s : State) (b : Nat) (x : Block) : (s.setBlock b x).stamps = s.stamps := rfl
@[simp] theorem State.setBlock_history (s : State) (b : Nat) (x : Block) : (s.setBlock b x).history = s.history := rfl
@[simp] theorem State.setBlock_moves (s : State) (b : Nat) (x : Block) : (s.setBlock b x).moves = s.moves := rfl
@[simp] theorem State.setBlock_shards (s : State) (b : Nat) (x : Block) : (s.setBlock b x).shards = s.shards := rfl
@[simp] theorem State.setBlock_nextId (s : State) (b : Nat) (x : Block) : (s.setBlock b x).nextId = s.nextId := rfl
@[simp] theorem State.setBlock_turn (s : State) (b : Nat) (x : Block) : (s.setBlock b x).turn = s.turn := rfl
@[simp] theorem State.setBlock_mstat (s : State) (b : Nat) (x : Block) : (s.setBlock b x).mstat = s.mstat := rfl
@[simp] theorem State.setBlock_mbox (s : State) (b : Nat) (x : Block) : (s.setBlock b x).mbox = s.mbox := rfl
@[simp] theorem State.setBlock_aperture (s : State) (b : Nat) (x : Block) : (s.setBlock b x).aperture = s.aperture := rfl
@[simp] theorem State.setBlock_peers (s : State) (b : Nat) (x : Block) : (s.setBlock b x).peers = s.peers := rfl
@[simp] theorem State.setBlock_ptmBound (s : State) (b : Nat) (x : Block) : (s.setBlock b x).ptmBound = s.ptmBound := rfl
@[simp] theorem State.setBlock_ptm (s : State) (b : Nat) (x : Block) : (s.setBlock b x).ptm = s.ptm := rfl
@[simp] theorem State.setBlock_ctlDrift (s : State) (b : Nat) (x : Block) : (s.setBlock b x).ctlDrift = s.ctlDrift := rfl
@[simp] theorem State.setBlock_log (s : State) (b : Nat) (x : Block) : (s.setBlock b x).log = s.log := rfl
@[simp] theorem State.setBlock_listed (s : State) (b : Nat) (x : Block) : (s.setBlock b x).listed = s.listed := rfl
@[simp] theorem State.setBlock_spared (s : State) (b : Nat) (x : Block) : (s.setBlock b x).spared = s.spared := rfl
@[simp] theorem State.setBlock_retired (s : State) (b : Nat) (x : Block) : (s.setBlock b x).retired = s.retired := rfl
@[simp] theorem State.setBlock_rowErrors (s : State) (b : Nat) (x : Block) : (s.setBlock b x).rowErrors = s.rowErrors := rfl
@[simp] theorem State.setBlock_debugged (s : State) (b : Nat) (x : Block) : (s.setBlock b x).debugged = s.debugged := rfl
@[simp] theorem State.setBlock_linkErrs (s : State) (b : Nat) (x : Block) : (s.setBlock b x).linkErrs = s.linkErrs := rfl
@[simp] theorem State.setBlock_downs (s : State) (b : Nat) (x : Block) : (s.setBlock b x).downs = s.downs := rfl
@[simp] theorem State.setBlock_hostRead (s : State) (b : Nat) (x : Block) : (s.setBlock b x).hostRead = s.hostRead := rfl
@[simp] theorem State.setBlock_told (s : State) (b : Nat) (x : Block) : (s.setBlock b x).told = s.told := rfl
@[simp] theorem State.setBlock_report (s : State) (b : Nat) (x : Block) : (s.setBlock b x).report = s.report := rfl
@[simp] theorem State.setBlock_irqs (s : State) (b : Nat) (x : Block) : (s.setBlock b x).irqs = s.irqs := rfl
@[simp] theorem State.setBlock_versions (s : State) (b : Nat) (x : Block) : (s.setBlock b x).versions = s.versions := rfl
@[simp] theorem State.setBlock_trans (s : State) (b : Nat) (x : Block) : (s.setBlock b x).trans = s.trans := rfl
@[simp] theorem State.setBlock_users (s : State) (b : Nat) (x : Block) : (s.setBlock b x).users = s.users := rfl
@[simp] theorem State.setBlock_ctlIrqs (s : State) (b : Nat) (x : Block) : (s.setBlock b x).ctlIrqs = s.ctlIrqs := rfl
@[simp] theorem State.setBlock_booted (s : State) (b : Nat) (x : Block) : (s.setBlock b x).booted = s.booted := rfl

/-! ### `State.setLaunch` -/

@[simp] theorem State.setLaunch_clk (s : State) (l : Nat) (x : Launch) : (s.setLaunch l x).clk = s.clk := rfl
@[simp] theorem State.setLaunch_stepNo (s : State) (l : Nat) (x : Launch) : (s.setLaunch l x).stepNo = s.stepNo := rfl
@[simp] theorem State.setLaunch_agenda (s : State) (l : Nat) (x : Launch) : (s.setLaunch l x).agenda = s.agenda := rfl
@[simp] theorem State.setLaunch_issue (s : State) (l : Nat) (x : Launch) : (s.setLaunch l x).issue = s.issue := rfl
@[simp] theorem State.setLaunch_mem (s : State) (l : Nat) (x : Launch) : (s.setLaunch l x).mem = s.mem := rfl
@[simp] theorem State.setLaunch_groups (s : State) (l : Nat) (x : Launch) : (s.setLaunch l x).groups = s.groups := rfl
@[simp] theorem State.setLaunch_tiles (s : State) (l : Nat) (x : Launch) : (s.setLaunch l x).tiles = s.tiles := rfl
@[simp] theorem State.setLaunch_blocks (s : State) (l : Nat) (x : Launch) : (s.setLaunch l x).blocks = s.blocks := rfl
@[simp] theorem State.setLaunch_launches (s : State) (l : Nat) (x : Launch) : (s.setLaunch l x).launches = Sparse.set s.launches l x := rfl
@[simp] theorem State.setLaunch_ctxs (s : State) (l : Nat) (x : Launch) : (s.setLaunch l x).ctxs = s.ctxs := rfl
@[simp] theorem State.setLaunch_cores (s : State) (l : Nat) (x : Launch) : (s.setLaunch l x).cores = s.cores := rfl
@[simp] theorem State.setLaunch_dies (s : State) (l : Nat) (x : Launch) : (s.setLaunch l x).dies = s.dies := rfl
@[simp] theorem State.setLaunch_bounds (s : State) (l : Nat) (x : Launch) : (s.setLaunch l x).bounds = s.bounds := rfl
@[simp] theorem State.setLaunch_stamps (s : State) (l : Nat) (x : Launch) : (s.setLaunch l x).stamps = s.stamps := rfl
@[simp] theorem State.setLaunch_history (s : State) (l : Nat) (x : Launch) : (s.setLaunch l x).history = s.history := rfl
@[simp] theorem State.setLaunch_moves (s : State) (l : Nat) (x : Launch) : (s.setLaunch l x).moves = s.moves := rfl
@[simp] theorem State.setLaunch_shards (s : State) (l : Nat) (x : Launch) : (s.setLaunch l x).shards = s.shards := rfl
@[simp] theorem State.setLaunch_nextId (s : State) (l : Nat) (x : Launch) : (s.setLaunch l x).nextId = s.nextId := rfl
@[simp] theorem State.setLaunch_turn (s : State) (l : Nat) (x : Launch) : (s.setLaunch l x).turn = s.turn := rfl
@[simp] theorem State.setLaunch_mstat (s : State) (l : Nat) (x : Launch) : (s.setLaunch l x).mstat = s.mstat := rfl
@[simp] theorem State.setLaunch_mbox (s : State) (l : Nat) (x : Launch) : (s.setLaunch l x).mbox = s.mbox := rfl
@[simp] theorem State.setLaunch_aperture (s : State) (l : Nat) (x : Launch) : (s.setLaunch l x).aperture = s.aperture := rfl
@[simp] theorem State.setLaunch_peers (s : State) (l : Nat) (x : Launch) : (s.setLaunch l x).peers = s.peers := rfl
@[simp] theorem State.setLaunch_ptmBound (s : State) (l : Nat) (x : Launch) : (s.setLaunch l x).ptmBound = s.ptmBound := rfl
@[simp] theorem State.setLaunch_ptm (s : State) (l : Nat) (x : Launch) : (s.setLaunch l x).ptm = s.ptm := rfl
@[simp] theorem State.setLaunch_ctlDrift (s : State) (l : Nat) (x : Launch) : (s.setLaunch l x).ctlDrift = s.ctlDrift := rfl
@[simp] theorem State.setLaunch_log (s : State) (l : Nat) (x : Launch) : (s.setLaunch l x).log = s.log := rfl
@[simp] theorem State.setLaunch_listed (s : State) (l : Nat) (x : Launch) : (s.setLaunch l x).listed = s.listed := rfl
@[simp] theorem State.setLaunch_spared (s : State) (l : Nat) (x : Launch) : (s.setLaunch l x).spared = s.spared := rfl
@[simp] theorem State.setLaunch_retired (s : State) (l : Nat) (x : Launch) : (s.setLaunch l x).retired = s.retired := rfl
@[simp] theorem State.setLaunch_rowErrors (s : State) (l : Nat) (x : Launch) : (s.setLaunch l x).rowErrors = s.rowErrors := rfl
@[simp] theorem State.setLaunch_debugged (s : State) (l : Nat) (x : Launch) : (s.setLaunch l x).debugged = s.debugged := rfl
@[simp] theorem State.setLaunch_linkErrs (s : State) (l : Nat) (x : Launch) : (s.setLaunch l x).linkErrs = s.linkErrs := rfl
@[simp] theorem State.setLaunch_downs (s : State) (l : Nat) (x : Launch) : (s.setLaunch l x).downs = s.downs := rfl
@[simp] theorem State.setLaunch_hostRead (s : State) (l : Nat) (x : Launch) : (s.setLaunch l x).hostRead = s.hostRead := rfl
@[simp] theorem State.setLaunch_told (s : State) (l : Nat) (x : Launch) : (s.setLaunch l x).told = s.told := rfl
@[simp] theorem State.setLaunch_report (s : State) (l : Nat) (x : Launch) : (s.setLaunch l x).report = s.report := rfl
@[simp] theorem State.setLaunch_irqs (s : State) (l : Nat) (x : Launch) : (s.setLaunch l x).irqs = s.irqs := rfl
@[simp] theorem State.setLaunch_versions (s : State) (l : Nat) (x : Launch) : (s.setLaunch l x).versions = s.versions := rfl
@[simp] theorem State.setLaunch_trans (s : State) (l : Nat) (x : Launch) : (s.setLaunch l x).trans = s.trans := rfl
@[simp] theorem State.setLaunch_users (s : State) (l : Nat) (x : Launch) : (s.setLaunch l x).users = s.users := rfl
@[simp] theorem State.setLaunch_ctlIrqs (s : State) (l : Nat) (x : Launch) : (s.setLaunch l x).ctlIrqs = s.ctlIrqs := rfl
@[simp] theorem State.setLaunch_booted (s : State) (l : Nat) (x : Launch) : (s.setLaunch l x).booted = s.booted := rfl

/-! ### `State.setCtx` -/

@[simp] theorem State.setCtx_clk (s : State) (c : Nat) (x : Ctx) : (s.setCtx c x).clk = s.clk := rfl
@[simp] theorem State.setCtx_stepNo (s : State) (c : Nat) (x : Ctx) : (s.setCtx c x).stepNo = s.stepNo := rfl
@[simp] theorem State.setCtx_agenda (s : State) (c : Nat) (x : Ctx) : (s.setCtx c x).agenda = s.agenda := rfl
@[simp] theorem State.setCtx_issue (s : State) (c : Nat) (x : Ctx) : (s.setCtx c x).issue = s.issue := rfl
@[simp] theorem State.setCtx_mem (s : State) (c : Nat) (x : Ctx) : (s.setCtx c x).mem = s.mem := rfl
@[simp] theorem State.setCtx_groups (s : State) (c : Nat) (x : Ctx) : (s.setCtx c x).groups = s.groups := rfl
@[simp] theorem State.setCtx_tiles (s : State) (c : Nat) (x : Ctx) : (s.setCtx c x).tiles = s.tiles := rfl
@[simp] theorem State.setCtx_blocks (s : State) (c : Nat) (x : Ctx) : (s.setCtx c x).blocks = s.blocks := rfl
@[simp] theorem State.setCtx_launches (s : State) (c : Nat) (x : Ctx) : (s.setCtx c x).launches = s.launches := rfl
@[simp] theorem State.setCtx_ctxs (s : State) (c : Nat) (x : Ctx) : (s.setCtx c x).ctxs = Sparse.set s.ctxs c x := rfl
@[simp] theorem State.setCtx_cores (s : State) (c : Nat) (x : Ctx) : (s.setCtx c x).cores = s.cores := rfl
@[simp] theorem State.setCtx_dies (s : State) (c : Nat) (x : Ctx) : (s.setCtx c x).dies = s.dies := rfl
@[simp] theorem State.setCtx_bounds (s : State) (c : Nat) (x : Ctx) : (s.setCtx c x).bounds = s.bounds := rfl
@[simp] theorem State.setCtx_stamps (s : State) (c : Nat) (x : Ctx) : (s.setCtx c x).stamps = s.stamps := rfl
@[simp] theorem State.setCtx_history (s : State) (c : Nat) (x : Ctx) : (s.setCtx c x).history = s.history := rfl
@[simp] theorem State.setCtx_moves (s : State) (c : Nat) (x : Ctx) : (s.setCtx c x).moves = s.moves := rfl
@[simp] theorem State.setCtx_shards (s : State) (c : Nat) (x : Ctx) : (s.setCtx c x).shards = s.shards := rfl
@[simp] theorem State.setCtx_nextId (s : State) (c : Nat) (x : Ctx) : (s.setCtx c x).nextId = s.nextId := rfl
@[simp] theorem State.setCtx_turn (s : State) (c : Nat) (x : Ctx) : (s.setCtx c x).turn = s.turn := rfl
@[simp] theorem State.setCtx_mstat (s : State) (c : Nat) (x : Ctx) : (s.setCtx c x).mstat = s.mstat := rfl
@[simp] theorem State.setCtx_mbox (s : State) (c : Nat) (x : Ctx) : (s.setCtx c x).mbox = s.mbox := rfl
@[simp] theorem State.setCtx_aperture (s : State) (c : Nat) (x : Ctx) : (s.setCtx c x).aperture = s.aperture := rfl
@[simp] theorem State.setCtx_peers (s : State) (c : Nat) (x : Ctx) : (s.setCtx c x).peers = s.peers := rfl
@[simp] theorem State.setCtx_ptmBound (s : State) (c : Nat) (x : Ctx) : (s.setCtx c x).ptmBound = s.ptmBound := rfl
@[simp] theorem State.setCtx_ptm (s : State) (c : Nat) (x : Ctx) : (s.setCtx c x).ptm = s.ptm := rfl
@[simp] theorem State.setCtx_ctlDrift (s : State) (c : Nat) (x : Ctx) : (s.setCtx c x).ctlDrift = s.ctlDrift := rfl
@[simp] theorem State.setCtx_log (s : State) (c : Nat) (x : Ctx) : (s.setCtx c x).log = s.log := rfl
@[simp] theorem State.setCtx_listed (s : State) (c : Nat) (x : Ctx) : (s.setCtx c x).listed = s.listed := rfl
@[simp] theorem State.setCtx_spared (s : State) (c : Nat) (x : Ctx) : (s.setCtx c x).spared = s.spared := rfl
@[simp] theorem State.setCtx_retired (s : State) (c : Nat) (x : Ctx) : (s.setCtx c x).retired = s.retired := rfl
@[simp] theorem State.setCtx_rowErrors (s : State) (c : Nat) (x : Ctx) : (s.setCtx c x).rowErrors = s.rowErrors := rfl
@[simp] theorem State.setCtx_debugged (s : State) (c : Nat) (x : Ctx) : (s.setCtx c x).debugged = s.debugged := rfl
@[simp] theorem State.setCtx_linkErrs (s : State) (c : Nat) (x : Ctx) : (s.setCtx c x).linkErrs = s.linkErrs := rfl
@[simp] theorem State.setCtx_downs (s : State) (c : Nat) (x : Ctx) : (s.setCtx c x).downs = s.downs := rfl
@[simp] theorem State.setCtx_hostRead (s : State) (c : Nat) (x : Ctx) : (s.setCtx c x).hostRead = s.hostRead := rfl
@[simp] theorem State.setCtx_told (s : State) (c : Nat) (x : Ctx) : (s.setCtx c x).told = s.told := rfl
@[simp] theorem State.setCtx_report (s : State) (c : Nat) (x : Ctx) : (s.setCtx c x).report = s.report := rfl
@[simp] theorem State.setCtx_irqs (s : State) (c : Nat) (x : Ctx) : (s.setCtx c x).irqs = s.irqs := rfl
@[simp] theorem State.setCtx_versions (s : State) (c : Nat) (x : Ctx) : (s.setCtx c x).versions = s.versions := rfl
@[simp] theorem State.setCtx_trans (s : State) (c : Nat) (x : Ctx) : (s.setCtx c x).trans = s.trans := rfl
@[simp] theorem State.setCtx_users (s : State) (c : Nat) (x : Ctx) : (s.setCtx c x).users = s.users := rfl
@[simp] theorem State.setCtx_ctlIrqs (s : State) (c : Nat) (x : Ctx) : (s.setCtx c x).ctlIrqs = s.ctlIrqs := rfl
@[simp] theorem State.setCtx_booted (s : State) (c : Nat) (x : Ctx) : (s.setCtx c x).booted = s.booted := rfl

/-! ### `State.setStamped` -/

@[simp] theorem State.setStamped_clk (s : State) (l : Nat) (y : Stamped) : (s.setStamped l y).clk = s.clk := rfl
@[simp] theorem State.setStamped_stepNo (s : State) (l : Nat) (y : Stamped) : (s.setStamped l y).stepNo = s.stepNo := rfl
@[simp] theorem State.setStamped_agenda (s : State) (l : Nat) (y : Stamped) : (s.setStamped l y).agenda = s.agenda := rfl
@[simp] theorem State.setStamped_issue (s : State) (l : Nat) (y : Stamped) : (s.setStamped l y).issue = s.issue := rfl
@[simp] theorem State.setStamped_mem (s : State) (l : Nat) (y : Stamped) : (s.setStamped l y).mem = s.mem := rfl
@[simp] theorem State.setStamped_groups (s : State) (l : Nat) (y : Stamped) : (s.setStamped l y).groups = s.groups := rfl
@[simp] theorem State.setStamped_tiles (s : State) (l : Nat) (y : Stamped) : (s.setStamped l y).tiles = s.tiles := rfl
@[simp] theorem State.setStamped_blocks (s : State) (l : Nat) (y : Stamped) : (s.setStamped l y).blocks = s.blocks := rfl
@[simp] theorem State.setStamped_launches (s : State) (l : Nat) (y : Stamped) : (s.setStamped l y).launches = s.launches := rfl
@[simp] theorem State.setStamped_ctxs (s : State) (l : Nat) (y : Stamped) : (s.setStamped l y).ctxs = s.ctxs := rfl
@[simp] theorem State.setStamped_cores (s : State) (l : Nat) (y : Stamped) : (s.setStamped l y).cores = s.cores := rfl
@[simp] theorem State.setStamped_dies (s : State) (l : Nat) (y : Stamped) : (s.setStamped l y).dies = s.dies := rfl
@[simp] theorem State.setStamped_bounds (s : State) (l : Nat) (y : Stamped) : (s.setStamped l y).bounds = s.bounds := rfl
@[simp] theorem State.setStamped_stamps (s : State) (l : Nat) (y : Stamped) : (s.setStamped l y).stamps = Sparse.put Stamped.fresh s.stamps l y := rfl
@[simp] theorem State.setStamped_history (s : State) (l : Nat) (y : Stamped) : (s.setStamped l y).history = s.history := rfl
@[simp] theorem State.setStamped_moves (s : State) (l : Nat) (y : Stamped) : (s.setStamped l y).moves = s.moves := rfl
@[simp] theorem State.setStamped_shards (s : State) (l : Nat) (y : Stamped) : (s.setStamped l y).shards = s.shards := rfl
@[simp] theorem State.setStamped_nextId (s : State) (l : Nat) (y : Stamped) : (s.setStamped l y).nextId = s.nextId := rfl
@[simp] theorem State.setStamped_turn (s : State) (l : Nat) (y : Stamped) : (s.setStamped l y).turn = s.turn := rfl
@[simp] theorem State.setStamped_mstat (s : State) (l : Nat) (y : Stamped) : (s.setStamped l y).mstat = s.mstat := rfl
@[simp] theorem State.setStamped_mbox (s : State) (l : Nat) (y : Stamped) : (s.setStamped l y).mbox = s.mbox := rfl
@[simp] theorem State.setStamped_aperture (s : State) (l : Nat) (y : Stamped) : (s.setStamped l y).aperture = s.aperture := rfl
@[simp] theorem State.setStamped_peers (s : State) (l : Nat) (y : Stamped) : (s.setStamped l y).peers = s.peers := rfl
@[simp] theorem State.setStamped_ptmBound (s : State) (l : Nat) (y : Stamped) : (s.setStamped l y).ptmBound = s.ptmBound := rfl
@[simp] theorem State.setStamped_ptm (s : State) (l : Nat) (y : Stamped) : (s.setStamped l y).ptm = s.ptm := rfl
@[simp] theorem State.setStamped_ctlDrift (s : State) (l : Nat) (y : Stamped) : (s.setStamped l y).ctlDrift = s.ctlDrift := rfl
@[simp] theorem State.setStamped_log (s : State) (l : Nat) (y : Stamped) : (s.setStamped l y).log = s.log := rfl
@[simp] theorem State.setStamped_listed (s : State) (l : Nat) (y : Stamped) : (s.setStamped l y).listed = s.listed := rfl
@[simp] theorem State.setStamped_spared (s : State) (l : Nat) (y : Stamped) : (s.setStamped l y).spared = s.spared := rfl
@[simp] theorem State.setStamped_retired (s : State) (l : Nat) (y : Stamped) : (s.setStamped l y).retired = s.retired := rfl
@[simp] theorem State.setStamped_rowErrors (s : State) (l : Nat) (y : Stamped) : (s.setStamped l y).rowErrors = s.rowErrors := rfl
@[simp] theorem State.setStamped_debugged (s : State) (l : Nat) (y : Stamped) : (s.setStamped l y).debugged = s.debugged := rfl
@[simp] theorem State.setStamped_linkErrs (s : State) (l : Nat) (y : Stamped) : (s.setStamped l y).linkErrs = s.linkErrs := rfl
@[simp] theorem State.setStamped_downs (s : State) (l : Nat) (y : Stamped) : (s.setStamped l y).downs = s.downs := rfl
@[simp] theorem State.setStamped_hostRead (s : State) (l : Nat) (y : Stamped) : (s.setStamped l y).hostRead = s.hostRead := rfl
@[simp] theorem State.setStamped_told (s : State) (l : Nat) (y : Stamped) : (s.setStamped l y).told = s.told := rfl
@[simp] theorem State.setStamped_report (s : State) (l : Nat) (y : Stamped) : (s.setStamped l y).report = s.report := rfl
@[simp] theorem State.setStamped_irqs (s : State) (l : Nat) (y : Stamped) : (s.setStamped l y).irqs = s.irqs := rfl
@[simp] theorem State.setStamped_versions (s : State) (l : Nat) (y : Stamped) : (s.setStamped l y).versions = s.versions := rfl
@[simp] theorem State.setStamped_trans (s : State) (l : Nat) (y : Stamped) : (s.setStamped l y).trans = s.trans := rfl
@[simp] theorem State.setStamped_users (s : State) (l : Nat) (y : Stamped) : (s.setStamped l y).users = s.users := rfl
@[simp] theorem State.setStamped_ctlIrqs (s : State) (l : Nat) (y : Stamped) : (s.setStamped l y).ctlIrqs = s.ctlIrqs := rfl
@[simp] theorem State.setStamped_booted (s : State) (l : Nat) (y : Stamped) : (s.setStamped l y).booted = s.booted := rfl

/-! ### `State.updGroup` -/

@[simp] theorem State.updGroup_clk (s : State) (g : Nat) (k : Group → Group) : (s.updGroup g k).clk = s.clk := by
  unfold State.updGroup; split <;> rfl
@[simp] theorem State.updGroup_stepNo (s : State) (g : Nat) (k : Group → Group) : (s.updGroup g k).stepNo = s.stepNo := by
  unfold State.updGroup; split <;> rfl
@[simp] theorem State.updGroup_agenda (s : State) (g : Nat) (k : Group → Group) : (s.updGroup g k).agenda = s.agenda := by
  unfold State.updGroup; split <;> rfl
@[simp] theorem State.updGroup_issue (s : State) (g : Nat) (k : Group → Group) : (s.updGroup g k).issue = s.issue := by
  unfold State.updGroup; split <;> rfl
@[simp] theorem State.updGroup_mem (s : State) (g : Nat) (k : Group → Group) : (s.updGroup g k).mem = s.mem := by
  unfold State.updGroup; split <;> rfl
@[simp] theorem State.updGroup_tiles (s : State) (g : Nat) (k : Group → Group) : (s.updGroup g k).tiles = s.tiles := by
  unfold State.updGroup; split <;> rfl
@[simp] theorem State.updGroup_blocks (s : State) (g : Nat) (k : Group → Group) : (s.updGroup g k).blocks = s.blocks := by
  unfold State.updGroup; split <;> rfl
@[simp] theorem State.updGroup_launches (s : State) (g : Nat) (k : Group → Group) : (s.updGroup g k).launches = s.launches := by
  unfold State.updGroup; split <;> rfl
@[simp] theorem State.updGroup_ctxs (s : State) (g : Nat) (k : Group → Group) : (s.updGroup g k).ctxs = s.ctxs := by
  unfold State.updGroup; split <;> rfl
@[simp] theorem State.updGroup_cores (s : State) (g : Nat) (k : Group → Group) : (s.updGroup g k).cores = s.cores := by
  unfold State.updGroup; split <;> rfl
@[simp] theorem State.updGroup_dies (s : State) (g : Nat) (k : Group → Group) : (s.updGroup g k).dies = s.dies := by
  unfold State.updGroup; split <;> rfl
@[simp] theorem State.updGroup_bounds (s : State) (g : Nat) (k : Group → Group) : (s.updGroup g k).bounds = s.bounds := by
  unfold State.updGroup; split <;> rfl
@[simp] theorem State.updGroup_stamps (s : State) (g : Nat) (k : Group → Group) : (s.updGroup g k).stamps = s.stamps := by
  unfold State.updGroup; split <;> rfl
@[simp] theorem State.updGroup_history (s : State) (g : Nat) (k : Group → Group) : (s.updGroup g k).history = s.history := by
  unfold State.updGroup; split <;> rfl
@[simp] theorem State.updGroup_moves (s : State) (g : Nat) (k : Group → Group) : (s.updGroup g k).moves = s.moves := by
  unfold State.updGroup; split <;> rfl
@[simp] theorem State.updGroup_shards (s : State) (g : Nat) (k : Group → Group) : (s.updGroup g k).shards = s.shards := by
  unfold State.updGroup; split <;> rfl
@[simp] theorem State.updGroup_nextId (s : State) (g : Nat) (k : Group → Group) : (s.updGroup g k).nextId = s.nextId := by
  unfold State.updGroup; split <;> rfl
@[simp] theorem State.updGroup_turn (s : State) (g : Nat) (k : Group → Group) : (s.updGroup g k).turn = s.turn := by
  unfold State.updGroup; split <;> rfl
@[simp] theorem State.updGroup_mstat (s : State) (g : Nat) (k : Group → Group) : (s.updGroup g k).mstat = s.mstat := by
  unfold State.updGroup; split <;> rfl
@[simp] theorem State.updGroup_mbox (s : State) (g : Nat) (k : Group → Group) : (s.updGroup g k).mbox = s.mbox := by
  unfold State.updGroup; split <;> rfl
@[simp] theorem State.updGroup_aperture (s : State) (g : Nat) (k : Group → Group) : (s.updGroup g k).aperture = s.aperture := by
  unfold State.updGroup; split <;> rfl
@[simp] theorem State.updGroup_peers (s : State) (g : Nat) (k : Group → Group) : (s.updGroup g k).peers = s.peers := by
  unfold State.updGroup; split <;> rfl
@[simp] theorem State.updGroup_ptmBound (s : State) (g : Nat) (k : Group → Group) : (s.updGroup g k).ptmBound = s.ptmBound := by
  unfold State.updGroup; split <;> rfl
@[simp] theorem State.updGroup_ptm (s : State) (g : Nat) (k : Group → Group) : (s.updGroup g k).ptm = s.ptm := by
  unfold State.updGroup; split <;> rfl
@[simp] theorem State.updGroup_ctlDrift (s : State) (g : Nat) (k : Group → Group) : (s.updGroup g k).ctlDrift = s.ctlDrift := by
  unfold State.updGroup; split <;> rfl
@[simp] theorem State.updGroup_log (s : State) (g : Nat) (k : Group → Group) : (s.updGroup g k).log = s.log := by
  unfold State.updGroup; split <;> rfl
@[simp] theorem State.updGroup_listed (s : State) (g : Nat) (k : Group → Group) : (s.updGroup g k).listed = s.listed := by
  unfold State.updGroup; split <;> rfl
@[simp] theorem State.updGroup_spared (s : State) (g : Nat) (k : Group → Group) : (s.updGroup g k).spared = s.spared := by
  unfold State.updGroup; split <;> rfl
@[simp] theorem State.updGroup_retired (s : State) (g : Nat) (k : Group → Group) : (s.updGroup g k).retired = s.retired := by
  unfold State.updGroup; split <;> rfl
@[simp] theorem State.updGroup_rowErrors (s : State) (g : Nat) (k : Group → Group) : (s.updGroup g k).rowErrors = s.rowErrors := by
  unfold State.updGroup; split <;> rfl
@[simp] theorem State.updGroup_debugged (s : State) (g : Nat) (k : Group → Group) : (s.updGroup g k).debugged = s.debugged := by
  unfold State.updGroup; split <;> rfl
@[simp] theorem State.updGroup_linkErrs (s : State) (g : Nat) (k : Group → Group) : (s.updGroup g k).linkErrs = s.linkErrs := by
  unfold State.updGroup; split <;> rfl
@[simp] theorem State.updGroup_downs (s : State) (g : Nat) (k : Group → Group) : (s.updGroup g k).downs = s.downs := by
  unfold State.updGroup; split <;> rfl
@[simp] theorem State.updGroup_hostRead (s : State) (g : Nat) (k : Group → Group) : (s.updGroup g k).hostRead = s.hostRead := by
  unfold State.updGroup; split <;> rfl
@[simp] theorem State.updGroup_told (s : State) (g : Nat) (k : Group → Group) : (s.updGroup g k).told = s.told := by
  unfold State.updGroup; split <;> rfl
@[simp] theorem State.updGroup_report (s : State) (g : Nat) (k : Group → Group) : (s.updGroup g k).report = s.report := by
  unfold State.updGroup; split <;> rfl
@[simp] theorem State.updGroup_irqs (s : State) (g : Nat) (k : Group → Group) : (s.updGroup g k).irqs = s.irqs := by
  unfold State.updGroup; split <;> rfl
@[simp] theorem State.updGroup_versions (s : State) (g : Nat) (k : Group → Group) : (s.updGroup g k).versions = s.versions := by
  unfold State.updGroup; split <;> rfl
@[simp] theorem State.updGroup_trans (s : State) (g : Nat) (k : Group → Group) : (s.updGroup g k).trans = s.trans := by
  unfold State.updGroup; split <;> rfl
@[simp] theorem State.updGroup_users (s : State) (g : Nat) (k : Group → Group) : (s.updGroup g k).users = s.users := by
  unfold State.updGroup; split <;> rfl
@[simp] theorem State.updGroup_ctlIrqs (s : State) (g : Nat) (k : Group → Group) : (s.updGroup g k).ctlIrqs = s.ctlIrqs := by
  unfold State.updGroup; split <;> rfl
@[simp] theorem State.updGroup_booted (s : State) (g : Nat) (k : Group → Group) : (s.updGroup g k).booted = s.booted := by
  unfold State.updGroup; split <;> rfl

/-! ### `State.updCtx` -/

@[simp] theorem State.updCtx_clk (s : State) (c : Nat) (k : Ctx → Ctx) : (s.updCtx c k).clk = s.clk := by
  unfold State.updCtx; split <;> rfl
@[simp] theorem State.updCtx_stepNo (s : State) (c : Nat) (k : Ctx → Ctx) : (s.updCtx c k).stepNo = s.stepNo := by
  unfold State.updCtx; split <;> rfl
@[simp] theorem State.updCtx_agenda (s : State) (c : Nat) (k : Ctx → Ctx) : (s.updCtx c k).agenda = s.agenda := by
  unfold State.updCtx; split <;> rfl
@[simp] theorem State.updCtx_issue (s : State) (c : Nat) (k : Ctx → Ctx) : (s.updCtx c k).issue = s.issue := by
  unfold State.updCtx; split <;> rfl
@[simp] theorem State.updCtx_mem (s : State) (c : Nat) (k : Ctx → Ctx) : (s.updCtx c k).mem = s.mem := by
  unfold State.updCtx; split <;> rfl
@[simp] theorem State.updCtx_groups (s : State) (c : Nat) (k : Ctx → Ctx) : (s.updCtx c k).groups = s.groups := by
  unfold State.updCtx; split <;> rfl
@[simp] theorem State.updCtx_tiles (s : State) (c : Nat) (k : Ctx → Ctx) : (s.updCtx c k).tiles = s.tiles := by
  unfold State.updCtx; split <;> rfl
@[simp] theorem State.updCtx_blocks (s : State) (c : Nat) (k : Ctx → Ctx) : (s.updCtx c k).blocks = s.blocks := by
  unfold State.updCtx; split <;> rfl
@[simp] theorem State.updCtx_launches (s : State) (c : Nat) (k : Ctx → Ctx) : (s.updCtx c k).launches = s.launches := by
  unfold State.updCtx; split <;> rfl
@[simp] theorem State.updCtx_cores (s : State) (c : Nat) (k : Ctx → Ctx) : (s.updCtx c k).cores = s.cores := by
  unfold State.updCtx; split <;> rfl
@[simp] theorem State.updCtx_dies (s : State) (c : Nat) (k : Ctx → Ctx) : (s.updCtx c k).dies = s.dies := by
  unfold State.updCtx; split <;> rfl
@[simp] theorem State.updCtx_bounds (s : State) (c : Nat) (k : Ctx → Ctx) : (s.updCtx c k).bounds = s.bounds := by
  unfold State.updCtx; split <;> rfl
@[simp] theorem State.updCtx_stamps (s : State) (c : Nat) (k : Ctx → Ctx) : (s.updCtx c k).stamps = s.stamps := by
  unfold State.updCtx; split <;> rfl
@[simp] theorem State.updCtx_history (s : State) (c : Nat) (k : Ctx → Ctx) : (s.updCtx c k).history = s.history := by
  unfold State.updCtx; split <;> rfl
@[simp] theorem State.updCtx_moves (s : State) (c : Nat) (k : Ctx → Ctx) : (s.updCtx c k).moves = s.moves := by
  unfold State.updCtx; split <;> rfl
@[simp] theorem State.updCtx_shards (s : State) (c : Nat) (k : Ctx → Ctx) : (s.updCtx c k).shards = s.shards := by
  unfold State.updCtx; split <;> rfl
@[simp] theorem State.updCtx_nextId (s : State) (c : Nat) (k : Ctx → Ctx) : (s.updCtx c k).nextId = s.nextId := by
  unfold State.updCtx; split <;> rfl
@[simp] theorem State.updCtx_turn (s : State) (c : Nat) (k : Ctx → Ctx) : (s.updCtx c k).turn = s.turn := by
  unfold State.updCtx; split <;> rfl
@[simp] theorem State.updCtx_mstat (s : State) (c : Nat) (k : Ctx → Ctx) : (s.updCtx c k).mstat = s.mstat := by
  unfold State.updCtx; split <;> rfl
@[simp] theorem State.updCtx_mbox (s : State) (c : Nat) (k : Ctx → Ctx) : (s.updCtx c k).mbox = s.mbox := by
  unfold State.updCtx; split <;> rfl
@[simp] theorem State.updCtx_aperture (s : State) (c : Nat) (k : Ctx → Ctx) : (s.updCtx c k).aperture = s.aperture := by
  unfold State.updCtx; split <;> rfl
@[simp] theorem State.updCtx_peers (s : State) (c : Nat) (k : Ctx → Ctx) : (s.updCtx c k).peers = s.peers := by
  unfold State.updCtx; split <;> rfl
@[simp] theorem State.updCtx_ptmBound (s : State) (c : Nat) (k : Ctx → Ctx) : (s.updCtx c k).ptmBound = s.ptmBound := by
  unfold State.updCtx; split <;> rfl
@[simp] theorem State.updCtx_ptm (s : State) (c : Nat) (k : Ctx → Ctx) : (s.updCtx c k).ptm = s.ptm := by
  unfold State.updCtx; split <;> rfl
@[simp] theorem State.updCtx_ctlDrift (s : State) (c : Nat) (k : Ctx → Ctx) : (s.updCtx c k).ctlDrift = s.ctlDrift := by
  unfold State.updCtx; split <;> rfl
@[simp] theorem State.updCtx_log (s : State) (c : Nat) (k : Ctx → Ctx) : (s.updCtx c k).log = s.log := by
  unfold State.updCtx; split <;> rfl
@[simp] theorem State.updCtx_listed (s : State) (c : Nat) (k : Ctx → Ctx) : (s.updCtx c k).listed = s.listed := by
  unfold State.updCtx; split <;> rfl
@[simp] theorem State.updCtx_spared (s : State) (c : Nat) (k : Ctx → Ctx) : (s.updCtx c k).spared = s.spared := by
  unfold State.updCtx; split <;> rfl
@[simp] theorem State.updCtx_retired (s : State) (c : Nat) (k : Ctx → Ctx) : (s.updCtx c k).retired = s.retired := by
  unfold State.updCtx; split <;> rfl
@[simp] theorem State.updCtx_rowErrors (s : State) (c : Nat) (k : Ctx → Ctx) : (s.updCtx c k).rowErrors = s.rowErrors := by
  unfold State.updCtx; split <;> rfl
@[simp] theorem State.updCtx_debugged (s : State) (c : Nat) (k : Ctx → Ctx) : (s.updCtx c k).debugged = s.debugged := by
  unfold State.updCtx; split <;> rfl
@[simp] theorem State.updCtx_linkErrs (s : State) (c : Nat) (k : Ctx → Ctx) : (s.updCtx c k).linkErrs = s.linkErrs := by
  unfold State.updCtx; split <;> rfl
@[simp] theorem State.updCtx_downs (s : State) (c : Nat) (k : Ctx → Ctx) : (s.updCtx c k).downs = s.downs := by
  unfold State.updCtx; split <;> rfl
@[simp] theorem State.updCtx_hostRead (s : State) (c : Nat) (k : Ctx → Ctx) : (s.updCtx c k).hostRead = s.hostRead := by
  unfold State.updCtx; split <;> rfl
@[simp] theorem State.updCtx_told (s : State) (c : Nat) (k : Ctx → Ctx) : (s.updCtx c k).told = s.told := by
  unfold State.updCtx; split <;> rfl
@[simp] theorem State.updCtx_report (s : State) (c : Nat) (k : Ctx → Ctx) : (s.updCtx c k).report = s.report := by
  unfold State.updCtx; split <;> rfl
@[simp] theorem State.updCtx_irqs (s : State) (c : Nat) (k : Ctx → Ctx) : (s.updCtx c k).irqs = s.irqs := by
  unfold State.updCtx; split <;> rfl
@[simp] theorem State.updCtx_versions (s : State) (c : Nat) (k : Ctx → Ctx) : (s.updCtx c k).versions = s.versions := by
  unfold State.updCtx; split <;> rfl
@[simp] theorem State.updCtx_trans (s : State) (c : Nat) (k : Ctx → Ctx) : (s.updCtx c k).trans = s.trans := by
  unfold State.updCtx; split <;> rfl
@[simp] theorem State.updCtx_users (s : State) (c : Nat) (k : Ctx → Ctx) : (s.updCtx c k).users = s.users := by
  unfold State.updCtx; split <;> rfl
@[simp] theorem State.updCtx_ctlIrqs (s : State) (c : Nat) (k : Ctx → Ctx) : (s.updCtx c k).ctlIrqs = s.ctlIrqs := by
  unfold State.updCtx; split <;> rfl
@[simp] theorem State.updCtx_booted (s : State) (c : Nat) (k : Ctx → Ctx) : (s.updCtx c k).booted = s.booted := by
  unfold State.updCtx; split <;> rfl

/-! ### Registers of a group -/

@[simp] theorem Group.wv_launch (x : Group) (t r : Nat) (w : Word) : (x.wv t r w).launch = x.launch := rfl
@[simp] theorem Group.wv_block (x : Group) (t r : Nat) (w : Word) : (x.wv t r w).block = x.block := rfl
@[simp] theorem Group.wv_gidx (x : Group) (t r : Nat) (w : Word) : (x.wv t r w).gidx = x.gidx := rfl
@[simp] theorem Group.wv_core (x : Group) (t r : Nat) (w : Word) : (x.wv t r w).core = x.core := rfl
@[simp] theorem Group.wv_part (x : Group) (t r : Nat) (w : Word) : (x.wv t r w).part = x.part := rfl
@[simp] theorem Group.wv_resident (x : Group) (t r : Nat) (w : Word) : (x.wv t r w).resident = x.resident := rfl
@[simp] theorem Group.wv_entered (x : Group) (t r : Nat) (w : Word) : (x.wv t r w).entered = x.entered := rfl
@[simp] theorem Group.wv_vregs (x : Group) (t r : Nat) (w : Word) : (x.wv t r w).vregs = x.vregs := rfl
@[simp] theorem Group.wv_threads (x : Group) (t r : Nat) (w : Word) : (x.wv t r w).threads = x.threads := rfl
@[simp] theorem Group.wv_v (x : Group) (t r : Nat) (w : Word) : (x.wv t r w).v = Sparse.put 0 x.v (32 * r + t) w := rfl
@[simp] theorem Group.wv_p (x : Group) (t r : Nat) (w : Word) : (x.wv t r w).p = x.p := rfl
@[simp] theorem Group.wv_s (x : Group) (t r : Nat) (w : Word) : (x.wv t r w).s = x.s := rfl
@[simp] theorem Group.wv_flags (x : Group) (t r : Nat) (w : Word) : (x.wv t r w).flags = x.flags := rfl
@[simp] theorem Group.wv_fbst (x : Group) (t r : Nat) (w : Word) : (x.wv t r w).fbst = x.fbst := rfl
@[simp] theorem Group.wv_fibres (x : Group) (t r : Nat) (w : Word) : (x.wv t r w).fibres = x.fibres := rfl
@[simp] theorem Group.wv_rot (x : Group) (t r : Nat) (w : Word) : (x.wv t r w).rot = x.rot := rfl
@[simp] theorem Group.wv_ops (x : Group) (t r : Nat) (w : Word) : (x.wv t r w).ops = x.ops := rfl
@[simp] theorem Group.wv_nextOp (x : Group) (t r : Nat) (w : Word) : (x.wv t r w).nextOp = x.nextOp := rfl
@[simp] theorem Group.wv_failed (x : Group) (t r : Nat) (w : Word) : (x.wv t r w).failed = x.failed := rfl
@[simp] theorem Group.wv_cont (x : Group) (t r : Nat) (w : Word) : (x.wv t r w).cont = x.cont := rfl
@[simp] theorem Group.wv_wait (x : Group) (t r : Nat) (w : Word) : (x.wv t r w).wait = x.wait := rfl
@[simp] theorem Group.wv_status (x : Group) (t r : Nat) (w : Word) : (x.wv t r w).status = x.status := rfl
@[simp] theorem Group.wv_active (x : Group) (t r : Nat) (w : Word) : (x.wv t r w).active = x.active := rfl
@[simp] theorem Group.wv_placedAt (x : Group) (t r : Nat) (w : Word) : (x.wv t r w).placedAt = x.placedAt := rfl
@[simp] theorem Group.wv_readyAt (x : Group) (t r : Nat) (w : Word) : (x.wv t r w).readyAt = x.readyAt := rfl
@[simp] theorem Group.wv_lastIssue (x : Group) (t r : Nat) (w : Word) : (x.wv t r w).lastIssue = x.lastIssue := rfl
@[simp] theorem Group.wv_issuedAt (x : Group) (t r : Nat) (w : Word) : (x.wv t r w).issuedAt = x.issuedAt := rfl
@[simp] theorem Group.wv_bad (x : Group) (t r : Nat) (w : Word) : (x.wv t r w).bad = x.bad := rfl

@[simp] theorem Group.ws_launch (x : Group) (r : Nat) (w : Word) : (x.ws r w).launch = x.launch := rfl
@[simp] theorem Group.ws_block (x : Group) (r : Nat) (w : Word) : (x.ws r w).block = x.block := rfl
@[simp] theorem Group.ws_gidx (x : Group) (r : Nat) (w : Word) : (x.ws r w).gidx = x.gidx := rfl
@[simp] theorem Group.ws_core (x : Group) (r : Nat) (w : Word) : (x.ws r w).core = x.core := rfl
@[simp] theorem Group.ws_part (x : Group) (r : Nat) (w : Word) : (x.ws r w).part = x.part := rfl
@[simp] theorem Group.ws_resident (x : Group) (r : Nat) (w : Word) : (x.ws r w).resident = x.resident := rfl
@[simp] theorem Group.ws_entered (x : Group) (r : Nat) (w : Word) : (x.ws r w).entered = x.entered := rfl
@[simp] theorem Group.ws_vregs (x : Group) (r : Nat) (w : Word) : (x.ws r w).vregs = x.vregs := rfl
@[simp] theorem Group.ws_threads (x : Group) (r : Nat) (w : Word) : (x.ws r w).threads = x.threads := rfl
@[simp] theorem Group.ws_v (x : Group) (r : Nat) (w : Word) : (x.ws r w).v = x.v := rfl
@[simp] theorem Group.ws_p (x : Group) (r : Nat) (w : Word) : (x.ws r w).p = x.p := rfl
@[simp] theorem Group.ws_s (x : Group) (r : Nat) (w : Word) : (x.ws r w).s = Sparse.put 0 x.s r w := rfl
@[simp] theorem Group.ws_flags (x : Group) (r : Nat) (w : Word) : (x.ws r w).flags = x.flags := rfl
@[simp] theorem Group.ws_fbst (x : Group) (r : Nat) (w : Word) : (x.ws r w).fbst = x.fbst := rfl
@[simp] theorem Group.ws_fibres (x : Group) (r : Nat) (w : Word) : (x.ws r w).fibres = x.fibres := rfl
@[simp] theorem Group.ws_rot (x : Group) (r : Nat) (w : Word) : (x.ws r w).rot = x.rot := rfl
@[simp] theorem Group.ws_ops (x : Group) (r : Nat) (w : Word) : (x.ws r w).ops = x.ops := rfl
@[simp] theorem Group.ws_nextOp (x : Group) (r : Nat) (w : Word) : (x.ws r w).nextOp = x.nextOp := rfl
@[simp] theorem Group.ws_failed (x : Group) (r : Nat) (w : Word) : (x.ws r w).failed = x.failed := rfl
@[simp] theorem Group.ws_cont (x : Group) (r : Nat) (w : Word) : (x.ws r w).cont = x.cont := rfl
@[simp] theorem Group.ws_wait (x : Group) (r : Nat) (w : Word) : (x.ws r w).wait = x.wait := rfl
@[simp] theorem Group.ws_status (x : Group) (r : Nat) (w : Word) : (x.ws r w).status = x.status := rfl
@[simp] theorem Group.ws_active (x : Group) (r : Nat) (w : Word) : (x.ws r w).active = x.active := rfl
@[simp] theorem Group.ws_placedAt (x : Group) (r : Nat) (w : Word) : (x.ws r w).placedAt = x.placedAt := rfl
@[simp] theorem Group.ws_readyAt (x : Group) (r : Nat) (w : Word) : (x.ws r w).readyAt = x.readyAt := rfl
@[simp] theorem Group.ws_lastIssue (x : Group) (r : Nat) (w : Word) : (x.ws r w).lastIssue = x.lastIssue := rfl
@[simp] theorem Group.ws_issuedAt (x : Group) (r : Nat) (w : Word) : (x.ws r w).issuedAt = x.issuedAt := rfl
@[simp] theorem Group.ws_bad (x : Group) (r : Nat) (w : Word) : (x.ws r w).bad = x.bad := rfl

@[simp] theorem Group.raiseFlags_launch (x : Group) (f : BitVec 6) : (x.raiseFlags f).launch = x.launch := rfl
@[simp] theorem Group.raiseFlags_block (x : Group) (f : BitVec 6) : (x.raiseFlags f).block = x.block := rfl
@[simp] theorem Group.raiseFlags_gidx (x : Group) (f : BitVec 6) : (x.raiseFlags f).gidx = x.gidx := rfl
@[simp] theorem Group.raiseFlags_core (x : Group) (f : BitVec 6) : (x.raiseFlags f).core = x.core := rfl
@[simp] theorem Group.raiseFlags_part (x : Group) (f : BitVec 6) : (x.raiseFlags f).part = x.part := rfl
@[simp] theorem Group.raiseFlags_resident (x : Group) (f : BitVec 6) : (x.raiseFlags f).resident = x.resident := rfl
@[simp] theorem Group.raiseFlags_entered (x : Group) (f : BitVec 6) : (x.raiseFlags f).entered = x.entered := rfl
@[simp] theorem Group.raiseFlags_vregs (x : Group) (f : BitVec 6) : (x.raiseFlags f).vregs = x.vregs := rfl
@[simp] theorem Group.raiseFlags_threads (x : Group) (f : BitVec 6) : (x.raiseFlags f).threads = x.threads := rfl
@[simp] theorem Group.raiseFlags_v (x : Group) (f : BitVec 6) : (x.raiseFlags f).v = x.v := rfl
@[simp] theorem Group.raiseFlags_p (x : Group) (f : BitVec 6) : (x.raiseFlags f).p = x.p := rfl
@[simp] theorem Group.raiseFlags_s (x : Group) (f : BitVec 6) : (x.raiseFlags f).s = x.s := rfl
@[simp] theorem Group.raiseFlags_flags (x : Group) (f : BitVec 6) : (x.raiseFlags f).flags = x.flags ||| f := rfl
@[simp] theorem Group.raiseFlags_fbst (x : Group) (f : BitVec 6) : (x.raiseFlags f).fbst = x.fbst := rfl
@[simp] theorem Group.raiseFlags_fibres (x : Group) (f : BitVec 6) : (x.raiseFlags f).fibres = x.fibres := rfl
@[simp] theorem Group.raiseFlags_rot (x : Group) (f : BitVec 6) : (x.raiseFlags f).rot = x.rot := rfl
@[simp] theorem Group.raiseFlags_ops (x : Group) (f : BitVec 6) : (x.raiseFlags f).ops = x.ops := rfl
@[simp] theorem Group.raiseFlags_nextOp (x : Group) (f : BitVec 6) : (x.raiseFlags f).nextOp = x.nextOp := rfl
@[simp] theorem Group.raiseFlags_failed (x : Group) (f : BitVec 6) : (x.raiseFlags f).failed = x.failed := rfl
@[simp] theorem Group.raiseFlags_cont (x : Group) (f : BitVec 6) : (x.raiseFlags f).cont = x.cont := rfl
@[simp] theorem Group.raiseFlags_wait (x : Group) (f : BitVec 6) : (x.raiseFlags f).wait = x.wait := rfl
@[simp] theorem Group.raiseFlags_status (x : Group) (f : BitVec 6) : (x.raiseFlags f).status = x.status := rfl
@[simp] theorem Group.raiseFlags_active (x : Group) (f : BitVec 6) : (x.raiseFlags f).active = x.active := rfl
@[simp] theorem Group.raiseFlags_placedAt (x : Group) (f : BitVec 6) : (x.raiseFlags f).placedAt = x.placedAt := rfl
@[simp] theorem Group.raiseFlags_readyAt (x : Group) (f : BitVec 6) : (x.raiseFlags f).readyAt = x.readyAt := rfl
@[simp] theorem Group.raiseFlags_lastIssue (x : Group) (f : BitVec 6) : (x.raiseFlags f).lastIssue = x.lastIssue := rfl
@[simp] theorem Group.raiseFlags_issuedAt (x : Group) (f : BitVec 6) : (x.raiseFlags f).issuedAt = x.issuedAt := rfl
@[simp] theorem Group.raiseFlags_bad (x : Group) (f : BitVec 6) : (x.raiseFlags f).bad = x.bad := rfl

@[simp] theorem Group.wp_launch (x : Group) (t r : Nat) (b : BitVec 8) : (x.wp t r b).launch = x.launch := by
  unfold Group.wp; split <;> rfl
@[simp] theorem Group.wp_block (x : Group) (t r : Nat) (b : BitVec 8) : (x.wp t r b).block = x.block := by
  unfold Group.wp; split <;> rfl
@[simp] theorem Group.wp_gidx (x : Group) (t r : Nat) (b : BitVec 8) : (x.wp t r b).gidx = x.gidx := by
  unfold Group.wp; split <;> rfl
@[simp] theorem Group.wp_core (x : Group) (t r : Nat) (b : BitVec 8) : (x.wp t r b).core = x.core := by
  unfold Group.wp; split <;> rfl
@[simp] theorem Group.wp_part (x : Group) (t r : Nat) (b : BitVec 8) : (x.wp t r b).part = x.part := by
  unfold Group.wp; split <;> rfl
@[simp] theorem Group.wp_resident (x : Group) (t r : Nat) (b : BitVec 8) : (x.wp t r b).resident = x.resident := by
  unfold Group.wp; split <;> rfl
@[simp] theorem Group.wp_entered (x : Group) (t r : Nat) (b : BitVec 8) : (x.wp t r b).entered = x.entered := by
  unfold Group.wp; split <;> rfl
@[simp] theorem Group.wp_vregs (x : Group) (t r : Nat) (b : BitVec 8) : (x.wp t r b).vregs = x.vregs := by
  unfold Group.wp; split <;> rfl
@[simp] theorem Group.wp_threads (x : Group) (t r : Nat) (b : BitVec 8) : (x.wp t r b).threads = x.threads := by
  unfold Group.wp; split <;> rfl
@[simp] theorem Group.wp_v (x : Group) (t r : Nat) (b : BitVec 8) : (x.wp t r b).v = x.v := by
  unfold Group.wp; split <;> rfl
@[simp] theorem Group.wp_s (x : Group) (t r : Nat) (b : BitVec 8) : (x.wp t r b).s = x.s := by
  unfold Group.wp; split <;> rfl
@[simp] theorem Group.wp_flags (x : Group) (t r : Nat) (b : BitVec 8) : (x.wp t r b).flags = x.flags := by
  unfold Group.wp; split <;> rfl
@[simp] theorem Group.wp_fbst (x : Group) (t r : Nat) (b : BitVec 8) : (x.wp t r b).fbst = x.fbst := by
  unfold Group.wp; split <;> rfl
@[simp] theorem Group.wp_fibres (x : Group) (t r : Nat) (b : BitVec 8) : (x.wp t r b).fibres = x.fibres := by
  unfold Group.wp; split <;> rfl
@[simp] theorem Group.wp_rot (x : Group) (t r : Nat) (b : BitVec 8) : (x.wp t r b).rot = x.rot := by
  unfold Group.wp; split <;> rfl
@[simp] theorem Group.wp_ops (x : Group) (t r : Nat) (b : BitVec 8) : (x.wp t r b).ops = x.ops := by
  unfold Group.wp; split <;> rfl
@[simp] theorem Group.wp_nextOp (x : Group) (t r : Nat) (b : BitVec 8) : (x.wp t r b).nextOp = x.nextOp := by
  unfold Group.wp; split <;> rfl
@[simp] theorem Group.wp_failed (x : Group) (t r : Nat) (b : BitVec 8) : (x.wp t r b).failed = x.failed := by
  unfold Group.wp; split <;> rfl
@[simp] theorem Group.wp_cont (x : Group) (t r : Nat) (b : BitVec 8) : (x.wp t r b).cont = x.cont := by
  unfold Group.wp; split <;> rfl
@[simp] theorem Group.wp_wait (x : Group) (t r : Nat) (b : BitVec 8) : (x.wp t r b).wait = x.wait := by
  unfold Group.wp; split <;> rfl
@[simp] theorem Group.wp_status (x : Group) (t r : Nat) (b : BitVec 8) : (x.wp t r b).status = x.status := by
  unfold Group.wp; split <;> rfl
@[simp] theorem Group.wp_active (x : Group) (t r : Nat) (b : BitVec 8) : (x.wp t r b).active = x.active := by
  unfold Group.wp; split <;> rfl
@[simp] theorem Group.wp_placedAt (x : Group) (t r : Nat) (b : BitVec 8) : (x.wp t r b).placedAt = x.placedAt := by
  unfold Group.wp; split <;> rfl
@[simp] theorem Group.wp_readyAt (x : Group) (t r : Nat) (b : BitVec 8) : (x.wp t r b).readyAt = x.readyAt := by
  unfold Group.wp; split <;> rfl
@[simp] theorem Group.wp_lastIssue (x : Group) (t r : Nat) (b : BitVec 8) : (x.wp t r b).lastIssue = x.lastIssue := by
  unfold Group.wp; split <;> rfl
@[simp] theorem Group.wp_issuedAt (x : Group) (t r : Nat) (b : BitVec 8) : (x.wp t r b).issuedAt = x.issuedAt := by
  unfold Group.wp; split <;> rfl
@[simp] theorem Group.wp_bad (x : Group) (t r : Nat) (b : BitVec 8) : (x.wp t r b).bad = x.bad := by
  unfold Group.wp; split <;> rfl

/-! ### The threads of a group moved on -/

@[simp] theorem Group.mapThreads_launch (x : Group) (m : Mask) (k : Thread → Thread) : (x.mapThreads m k).launch = x.launch := rfl
@[simp] theorem Group.advance_launch (x : Group) (i : Issue) : (x.advance i).launch = x.launch := rfl
@[simp] theorem Group.mapThreads_block (x : Group) (m : Mask) (k : Thread → Thread) : (x.mapThreads m k).block = x.block := rfl
@[simp] theorem Group.advance_block (x : Group) (i : Issue) : (x.advance i).block = x.block := rfl
@[simp] theorem Group.mapThreads_gidx (x : Group) (m : Mask) (k : Thread → Thread) : (x.mapThreads m k).gidx = x.gidx := rfl
@[simp] theorem Group.advance_gidx (x : Group) (i : Issue) : (x.advance i).gidx = x.gidx := rfl
@[simp] theorem Group.mapThreads_core (x : Group) (m : Mask) (k : Thread → Thread) : (x.mapThreads m k).core = x.core := rfl
@[simp] theorem Group.advance_core (x : Group) (i : Issue) : (x.advance i).core = x.core := rfl
@[simp] theorem Group.mapThreads_part (x : Group) (m : Mask) (k : Thread → Thread) : (x.mapThreads m k).part = x.part := rfl
@[simp] theorem Group.advance_part (x : Group) (i : Issue) : (x.advance i).part = x.part := rfl
@[simp] theorem Group.mapThreads_resident (x : Group) (m : Mask) (k : Thread → Thread) : (x.mapThreads m k).resident = x.resident := rfl
@[simp] theorem Group.advance_resident (x : Group) (i : Issue) : (x.advance i).resident = x.resident := rfl
@[simp] theorem Group.mapThreads_entered (x : Group) (m : Mask) (k : Thread → Thread) : (x.mapThreads m k).entered = x.entered := rfl
@[simp] theorem Group.advance_entered (x : Group) (i : Issue) : (x.advance i).entered = x.entered := rfl
@[simp] theorem Group.mapThreads_vregs (x : Group) (m : Mask) (k : Thread → Thread) : (x.mapThreads m k).vregs = x.vregs := rfl
@[simp] theorem Group.advance_vregs (x : Group) (i : Issue) : (x.advance i).vregs = x.vregs := rfl
@[simp] theorem Group.mapThreads_v (x : Group) (m : Mask) (k : Thread → Thread) : (x.mapThreads m k).v = x.v := rfl
@[simp] theorem Group.advance_v (x : Group) (i : Issue) : (x.advance i).v = x.v := rfl
@[simp] theorem Group.mapThreads_p (x : Group) (m : Mask) (k : Thread → Thread) : (x.mapThreads m k).p = x.p := rfl
@[simp] theorem Group.advance_p (x : Group) (i : Issue) : (x.advance i).p = x.p := rfl
@[simp] theorem Group.mapThreads_s (x : Group) (m : Mask) (k : Thread → Thread) : (x.mapThreads m k).s = x.s := rfl
@[simp] theorem Group.advance_s (x : Group) (i : Issue) : (x.advance i).s = x.s := rfl
@[simp] theorem Group.mapThreads_flags (x : Group) (m : Mask) (k : Thread → Thread) : (x.mapThreads m k).flags = x.flags := rfl
@[simp] theorem Group.advance_flags (x : Group) (i : Issue) : (x.advance i).flags = x.flags := rfl
@[simp] theorem Group.mapThreads_fbst (x : Group) (m : Mask) (k : Thread → Thread) : (x.mapThreads m k).fbst = x.fbst := rfl
@[simp] theorem Group.advance_fbst (x : Group) (i : Issue) : (x.advance i).fbst = x.fbst := rfl
@[simp] theorem Group.mapThreads_fibres (x : Group) (m : Mask) (k : Thread → Thread) : (x.mapThreads m k).fibres = x.fibres := rfl
@[simp] theorem Group.advance_fibres (x : Group) (i : Issue) : (x.advance i).fibres = x.fibres := rfl
@[simp] theorem Group.mapThreads_rot (x : Group) (m : Mask) (k : Thread → Thread) : (x.mapThreads m k).rot = x.rot := rfl
@[simp] theorem Group.advance_rot (x : Group) (i : Issue) : (x.advance i).rot = x.rot := rfl
@[simp] theorem Group.mapThreads_ops (x : Group) (m : Mask) (k : Thread → Thread) : (x.mapThreads m k).ops = x.ops := rfl
@[simp] theorem Group.advance_ops (x : Group) (i : Issue) : (x.advance i).ops = x.ops := rfl
@[simp] theorem Group.mapThreads_nextOp (x : Group) (m : Mask) (k : Thread → Thread) : (x.mapThreads m k).nextOp = x.nextOp := rfl
@[simp] theorem Group.advance_nextOp (x : Group) (i : Issue) : (x.advance i).nextOp = x.nextOp := rfl
@[simp] theorem Group.mapThreads_failed (x : Group) (m : Mask) (k : Thread → Thread) : (x.mapThreads m k).failed = x.failed := rfl
@[simp] theorem Group.advance_failed (x : Group) (i : Issue) : (x.advance i).failed = x.failed := rfl
@[simp] theorem Group.mapThreads_cont (x : Group) (m : Mask) (k : Thread → Thread) : (x.mapThreads m k).cont = x.cont := rfl
@[simp] theorem Group.advance_cont (x : Group) (i : Issue) : (x.advance i).cont = x.cont := rfl
@[simp] theorem Group.mapThreads_wait (x : Group) (m : Mask) (k : Thread → Thread) : (x.mapThreads m k).wait = x.wait := rfl
@[simp] theorem Group.advance_wait (x : Group) (i : Issue) : (x.advance i).wait = x.wait := rfl
@[simp] theorem Group.mapThreads_status (x : Group) (m : Mask) (k : Thread → Thread) : (x.mapThreads m k).status = x.status := rfl
@[simp] theorem Group.advance_status (x : Group) (i : Issue) : (x.advance i).status = x.status := rfl
@[simp] theorem Group.mapThreads_active (x : Group) (m : Mask) (k : Thread → Thread) : (x.mapThreads m k).active = x.active := rfl
@[simp] theorem Group.advance_active (x : Group) (i : Issue) : (x.advance i).active = x.active := rfl
@[simp] theorem Group.mapThreads_placedAt (x : Group) (m : Mask) (k : Thread → Thread) : (x.mapThreads m k).placedAt = x.placedAt := rfl
@[simp] theorem Group.advance_placedAt (x : Group) (i : Issue) : (x.advance i).placedAt = x.placedAt := rfl
@[simp] theorem Group.mapThreads_readyAt (x : Group) (m : Mask) (k : Thread → Thread) : (x.mapThreads m k).readyAt = x.readyAt := rfl
@[simp] theorem Group.advance_readyAt (x : Group) (i : Issue) : (x.advance i).readyAt = x.readyAt := rfl
@[simp] theorem Group.mapThreads_lastIssue (x : Group) (m : Mask) (k : Thread → Thread) : (x.mapThreads m k).lastIssue = x.lastIssue := rfl
@[simp] theorem Group.advance_lastIssue (x : Group) (i : Issue) : (x.advance i).lastIssue = x.lastIssue := rfl
@[simp] theorem Group.mapThreads_issuedAt (x : Group) (m : Mask) (k : Thread → Thread) : (x.mapThreads m k).issuedAt = x.issuedAt := rfl
@[simp] theorem Group.advance_issuedAt (x : Group) (i : Issue) : (x.advance i).issuedAt = x.issuedAt := rfl

/-! ### Tables by their keys -/

theorem State.core_setCore (s : State) (c d : Nat) (x : Core) : (s.setCore c x).core d = if d = c then x else s.core d :=
  Sparse.get_put Core.idle s.cores c d x
theorem State.die_setDie (s : State) (c d : Nat) (x : Die) : (s.setDie c x).die d = if d = c then x else s.die d :=
  Sparse.get_put Die.reset s.dies c d x
theorem State.group?_setGroup (s : State) (g h : Nat) (x : Group) :
    (s.setGroup g x).group? h = if h = g then some x else s.group? h := Sparse.find?_set s.groups g h x
theorem State.tile?_setTile (s : State) (t u : Nat) (x : Tile) :
    (s.setTile t x).tile? u = if u = t then some x else s.tile? u := Sparse.find?_set s.tiles t u x
theorem State.block?_setBlock (s : State) (b c : Nat) (x : Block) :
    (s.setBlock b x).block? c = if c = b then some x else s.block? c := Sparse.find?_set s.blocks b c x
theorem State.launch?_setLaunch (s : State) (l k : Nat) (x : Launch) :
    (s.setLaunch l x).launch? k = if k = l then some x else s.launch? k := Sparse.find?_set s.launches l k x
theorem State.ctx?_setCtx (s : State) (c d : Nat) (x : Ctx) :
    (s.setCtx c x).ctx? d = if d = c then some x else s.ctx? d := Sparse.find?_set s.ctxs c d x
theorem State.stamped_setStamped (s : State) (l k : Nat) (y : Stamped) :
    (s.setStamped l y).stamped k = if k = l then y else s.stamped k := Sparse.get_put Stamped.fresh s.stamps l k y
theorem State.byte_setByte (s : State) (a b : Nat) (v : Byte) :
    (s.setByte a v).byte b = if b = a then v else s.byte b := Sparse.get_put Memory.blank s.mem a b v

end Sys2Proof.Machine
end

