-- ==== Sys2Proof/Laws/Registers.lean ====
section
/-!
SUPPORT. Laws of the registers of a group and of the elementwise forms: what a write leaves at every register of every
thread.
-/
namespace Sys2Proof.Machine

/-! ### One register -/

theorem Group.rv_wv (x : Group) {t u : Nat} (r q : Nat) (w : Word) (ht : t < 32) (hu : u < 32) :
    (x.wv t r w).rv u q = if u = t ∧ q = r then w else x.rv u q := by
  unfold Group.rv Group.wv
  rw [Sparse.get_put]
  by_cases h : u = t ∧ q = r
  · simp [h]
  · have : ¬ (32 * q + u = 32 * r + t) := by omega
    simp [h, this]

theorem Group.rs_ws (x : Group) (r q : Nat) (w : Word) : (x.ws r w).rs q = if q = r then w else x.rs q :=
  Sparse.get_put 0 x.s r q w

/-- P15 reads as all ones and keeps nothing (R21). -/
theorem Group.rp_wp (x : Group) {t u : Nat} (r q : Nat) (b : BitVec 8) (ht : t < 32) (hu : u < 32) :
    (x.wp t r b).rp u q = if u = t ∧ q = r ∧ r ≠ 15 then b else x.rp u q := by
  unfold Group.rp Group.wp
  by_cases hr : r = 15
  · simp [hr]
  · by_cases hq : q = 15
    · have : ¬ (u = t ∧ q = r) := fun h => hr (h.2 ▸ hq)
      simp [hq, hr]
      intro _ h
      exact absurd h (Ne.symm hr)
    · simp only [hr, hq, if_false]
      rw [Sparse.get_put]
      by_cases h : u = t ∧ q = r
      · simp [h, hr]
      · have : ¬ (32 * q + u = 32 * r + t) := by omega
        have h2 : ¬ (u = t ∧ q = r ∧ r ≠ 15) := fun e => h ⟨e.1, e.2.1⟩
        simp [h2, this]

@[simp] theorem Group.rs_wv (x : Group) (t r q : Nat) (w : Word) : (x.wv t r w).rs q = x.rs q := rfl
@[simp] theorem Group.rp_wv (x : Group) (t r u q : Nat) (w : Word) : (x.wv t r w).rp u q = x.rp u q := rfl
@[simp] theorem Group.rv_ws (x : Group) (t r q : Nat) (w : Word) : (x.ws r w).rv t q = x.rv t q := rfl
@[simp] theorem Group.rp_ws (x : Group) (r u q : Nat) (w : Word) : (x.ws r w).rp u q = x.rp u q := rfl
@[simp] theorem Group.rv_wp (x : Group) (t r u q : Nat) (b : BitVec 8) : (x.wp t r b).rv u q = x.rv u q := by
  unfold Group.rv; simp
@[simp] theorem Group.rs_wp (x : Group) (t r q : Nat) (b : BitVec 8) : (x.wp t r b).rs q = x.rs q := by
  unfold Group.rs; simp
@[simp] theorem Group.rv_raiseFlags (x : Group) (f : BitVec 6) (t r : Nat) : (x.raiseFlags f).rv t r = x.rv t r := rfl
@[simp] theorem Group.rs_raiseFlags (x : Group) (f : BitVec 6) (r : Nat) : (x.raiseFlags f).rs r = x.rs r := rfl
@[simp] theorem Group.rp_raiseFlags (x : Group) (f : BitVec 6) (t r : Nat) : (x.raiseFlags f).rp t r = x.rp t r := rfl
@[simp] theorem Group.rv_advance (x : Group) (i : Issue) (t r : Nat) : (x.advance i).rv t r = x.rv t r := rfl
@[simp] theorem Group.rs_advance (x : Group) (i : Issue) (r : Nat) : (x.advance i).rs r = x.rs r := rfl
@[simp] theorem Group.rp_advance (x : Group) (i : Issue) (t r : Nat) : (x.advance i).rp t r = x.rp t r := rfl

/-! ### One register of many threads -/

/-- A register written in each thread of a list: what every register of every thread reads. -/
theorem Group.rv_foldl_wv (k : Nat → Word) (d : Nat) (l : List Nat) (x : Group) (u r : Nat) (hl : ∀ t ∈ l, t < 32)
    (hu : u < 32) :
    (l.foldl (fun y t => y.wv t d (k t)) x).rv u r = if u ∈ l ∧ r = d then k u else x.rv u r := by
  induction l generalizing x with
  | nil => simp
  | cons t rest ih =>
    rw [List.foldl_cons, ih _ (fun t ht => hl t (by simp [ht])), Group.rv_wv _ _ _ _ (hl t (by simp)) hu]
    by_cases h1 : u ∈ rest ∧ r = d
    · simp [h1]
    · by_cases h2 : u = t ∧ r = d
      · obtain ⟨rfl, rfl⟩ := h2; simp
      · simp only [h1, h2, if_false, List.mem_cons]
        rw [if_neg]
        rintro ⟨h3 | h3, h4⟩
        · exact h2 ⟨h3, h4⟩
        · exact h1 ⟨h3, h4⟩

/-- Writing V registers changes nothing else of a group. -/
theorem Group.foldl_wv_rest (k : Nat → Word) (d : Nat) (l : List Nat) (x : Group) :
    ∃ v, l.foldl (fun y t => y.wv t d (k t)) x = { x with v := v } := by
  induction l generalizing x with
  | nil => exact ⟨x.v, rfl⟩
  | cons t rest ih =>
    obtain ⟨v, h⟩ := ih (x.wv t d (k t))
    exact ⟨v, by rw [List.foldl_cons, h]; rfl⟩

/-- A predicate written in each thread of a list. -/
theorem Group.rp_foldl_wp (k : Nat → BitVec 8) (d : Nat) (l : List Nat) (x : Group) (u r : Nat) (hl : ∀ t ∈ l, t < 32)
    (hu : u < 32) :
    (l.foldl (fun y t => y.wp t d (k t)) x).rp u r = if u ∈ l ∧ r = d ∧ d ≠ 15 then k u else x.rp u r := by
  induction l generalizing x with
  | nil => simp
  | cons t rest ih =>
    rw [List.foldl_cons, ih _ (fun t ht => hl t (by simp [ht])), Group.rp_wp _ _ _ _ (hl t (by simp)) hu]
    by_cases h1 : u ∈ rest ∧ r = d ∧ d ≠ 15
    · simp [h1]
    · by_cases h2 : u = t ∧ r = d ∧ d ≠ 15
      · obtain ⟨rfl, rfl, h⟩ := h2; simp [h]
      · simp only [h1, h2, if_false, List.mem_cons]
        rw [if_neg]
        rintro ⟨h3 | h3, h4⟩
        · exact h2 ⟨h3, h4⟩
        · exact h1 ⟨h3, h4⟩

/-- Writing predicates changes nothing else of a group. -/
theorem Group.foldl_wp_rest (k : Nat → BitVec 8) (d : Nat) (l : List Nat) (x : Group) :
    ∃ p, l.foldl (fun y t => y.wp t d (k t)) x = { x with p := p } := by
  induction l generalizing x with
  | nil => exact ⟨x.p, rfl⟩
  | cons t rest ih =>
    obtain ⟨p, h⟩ := ih (x.wp t d (k t))
    rw [List.foldl_cons, h]
    unfold Group.wp
    split
    · exact ⟨p, rfl⟩
    · exact ⟨p, rfl⟩

/-! ### The elements of D (R111) -/

/-- Offsets at which elements of width `w` stand apart inside a register. -/
def Apart (w : Nat) (offs : List Nat) : Prop :=
  offs.Pairwise (fun a b => 8 * a + w ≤ 8 * b ∨ 8 * b + w ≤ 8 * a) ∧ ∀ e ∈ offs, 8 * e + w ≤ 64

/-- The enabled elements among `offs` are new, the others as before. -/
theorem elem_newWord (old : Word) (en : Nat → Bool) (w : Nat) (offs : List Nat) (k : Nat → Nat) (ha : Apart w offs)
    {e : Nat} (he : e ∈ offs) (hk : ∀ e, k e < 2 ^ w) :
    elem (newWord old en w offs k) e w = if en e then k e else elem old e w := by
  unfold newWord
  induction offs generalizing old with
  | nil => simp at he
  | cons a rest ih =>
    obtain ⟨hp, hb⟩ := ha
    rw [List.pairwise_cons] at hp
    have hrest : Apart w rest := ⟨hp.2, fun e he => hb e (by simp [he])⟩
    rw [List.foldl_cons]
    rcases List.mem_cons.mp he with rfl | hm
    · have keep : ∀ (l : List Nat) (v : Word), (∀ b ∈ l, 8 * e + w ≤ 8 * b ∨ 8 * b + w ≤ 8 * e) → (∀ b ∈ l, 8 * b + w ≤ 64) →
          elem (l.foldl (fun acc e => if en e then setElem acc e w (k e) else acc) v) e w = elem v e w := by
        intro l
        induction l with
        | nil => intros; rfl
        | cons b l ihl =>
          intro v h1 h2
          rw [List.foldl_cons, ihl _ (fun c hc => h1 c (by simp [hc])) (fun c hc => h2 c (by simp [hc]))]
          split
          · refine elem_setElem_other _ _ _ _ _ _ (h2 b (by simp)) ?_
            have := h1 b (by simp)
            omega
          · rfl
      rw [keep rest _ (fun b hbm => hp.1 b hbm) (fun b hbm => hb b (by simp [hbm]))]
      split
      · rw [elem_setElem_self _ _ _ _ (hb e (by simp)), Nat.mod_eq_of_lt (hk e)]
      · rfl
    · rw [ih _ hrest hm]
      have h1 := hp.1 e hm
      split
      · rfl
      · split
        · refine elem_setElem_other _ _ _ _ _ _ (hb a (by simp)) ?_
          omega
        · rfl

/-- Bytes of D outside `offs` are unchanged. -/
theorem elem_newWord_other (old : Word) (en : Nat → Bool) (w : Nat) (offs : List Nat) (k : Nat → Nat) (e2 w2 : Nat)
    (h : ∀ e ∈ offs, 8 * e + w ≤ 64 ∧ (8 * e2 + w2 ≤ 8 * e ∨ 8 * e + w ≤ 8 * e2)) :
    elem (newWord old en w offs k) e2 w2 = elem old e2 w2 := by
  unfold newWord
  induction offs generalizing old with
  | nil => rfl
  | cons a rest ih =>
    rw [List.foldl_cons, ih _ (fun e he => h e (by simp [he]))]
    split
    · exact elem_setElem_other _ _ _ _ _ _ (h a (by simp)).1 (h a (by simp)).2
    · rfl

/-! ### The elementwise form (R111) -/

/-- What an elementwise instruction leaves in every V register of every thread. -/
theorem Group.rv_elementwise (x : Group) (g : Guard) (active : Mask) (d w : Nat) (offs : List Nat)
    (k : Nat → Nat → Nat × Fl) {u : Nat} (r : Nat) (hu : u < 32) :
    (x.elementwise g active d w offs k).rv u r =
      if u ∈ threadsOf active ∧ r = d then newWord (x.rv u d) (x.enabled g u) w offs (fun e => (k u e).1) else x.rv u r := by
  unfold Group.elementwise
  rw [Group.rv_raiseFlags, Group.rv_foldl_wv _ _ _ _ _ _ (fun t ht => (mem_threadsOf.mp ht).1) hu]

/-- An elementwise instruction changes only V registers and FLAGS of its group. -/
theorem Group.elementwise_rest (x : Group) (g : Guard) (active : Mask) (d w : Nat) (offs : List Nat)
    (k : Nat → Nat → Nat × Fl) :
    ∃ v fl, x.elementwise g active d w offs k = { x with v := v, flags := fl } := by
  unfold Group.elementwise
  obtain ⟨v, h⟩ := Group.foldl_wv_rest
    (fun t => newWord (x.rv t d) (x.enabled g t) w offs (fun e => (k t e).1)) d (threadsOf active) x
  rw [h]
  exact ⟨v, _, rfl⟩

/-- What a compare leaves in every predicate of every thread. -/
theorem Group.rp_cmpOp (x : Group) (f : VFmt) (active : Mask) (w : Nat) (k : Nat → Nat → Bool × Fl) {u : Nat} (r : Nat)
    (hu : u < 32) :
    (x.cmpOp f active w k).rp u r =
      if u ∈ threadsOf active ∧ r = f.d.toNat ∧ f.d.toNat ≠ 15
      then newPred (x.rp u f.d.toNat) (x.enabled f.g u) w (dstOffsets w f.selD) (fun e => (k u e).1) else x.rp u r := by
  unfold Group.cmpOp
  rw [Group.rp_raiseFlags, Group.rp_foldl_wp _ _ _ _ _ _ (fun t ht => (mem_threadsOf.mp ht).1) hu]

/-- A compare changes only P registers and FLAGS of its group. -/
theorem Group.cmpOp_rest (x : Group) (f : VFmt) (active : Mask) (w : Nat) (k : Nat → Nat → Bool × Fl) :
    ∃ p fl, x.cmpOp f active w k = { x with p := p, flags := fl } := by
  unfold Group.cmpOp
  obtain ⟨p, h⟩ := Group.foldl_wp_rest
    (fun t => newPred (x.rp t f.d.toNat) (x.enabled f.g t) w (dstOffsets w f.selD) (fun e => (k t e).1)) f.d.toNat
    (threadsOf active) x
  rw [h]
  exact ⟨p, _, rfl⟩

end Sys2Proof.Machine
end

