-- ==== Sys2Proof/Laws/Elements.lean ====
section
/-!
SUPPORT. What the shared forms of an instruction write, in the terms of claims: elements of a V register, byte flags of a
predicate, elements of an S register.
-/
namespace Sys2Proof.Machine

open Sys2Proof.Safety

/-! ### Offsets -/

theorem typeWidth_cases {c : BitVec 4} {w : Nat} (h : typeWidth? c = some w) : w = 8 ∨ w = 16 ∨ w = 32 ∨ w = 64 := by
  unfold typeWidth? at h
  split at h <;> simp_all

/-- The packed elements of a width stand apart (R111). -/
theorem apart_packed {w : Nat} (h : w = 8 ∨ w = 16 ∨ w = 32 ∨ w = 64) : Apart w (packedOffsets w) := by
  rcases h with rfl | rfl | rfl | rfl <;> exact ⟨by decide, by decide⟩

/-- D's elements stand apart in either shape (R111). -/
theorem apart_dst {w : Nat} (h : w = 8 ∨ w = 16 ∨ w = 32 ∨ w = 64) {sel : BitVec 4}
    (hs : sel = 15 ∨ selSingle w sel = true) : Apart w (dstOffsets w sel) := by
  unfold dstOffsets
  split
  · exact apart_packed h
  · rename_i hn
    have hs := hs.resolve_left hn
    simp only [selSingle, decide_eq_true_eq] at hs
    refine ⟨by simp, ?_⟩
    intro e he
    simp only [List.mem_singleton] at he
    subst he
    rcases h with rfl | rfl | rfl | rfl <;> omega

/-! ### Flags of many elements -/

theorem getLsbD_newFlags (en : Nat → Bool) (offs : List Nat) (k : Nat → Fl) (b : Nat) :
    (newFlags en offs k).getLsbD b = offs.any (fun e => en e && (k e).getLsbD b) := by
  unfold newFlags
  have gen : ∀ (l : List Nat) (a : Fl), (l.foldl (fun acc e => if en e then acc ||| k e else acc) a).getLsbD b =
      (a.getLsbD b || l.any (fun e => en e && (k e).getLsbD b)) := by
    intro l
    induction l with
    | nil => simp
    | cons e r ih =>
      intro a
      rw [List.foldl_cons, ih]
      cases h : en e <;> simp [h, Bool.or_assoc]
  rw [gen]
  simp

theorem getLsbD_foldl_or (k : Nat → Fl) (l : List Nat) (a : Fl) (b : Nat) :
    (l.foldl (fun fl t => fl ||| k t) a).getLsbD b = (a.getLsbD b || l.any (fun t => (k t).getLsbD b)) := by
  induction l generalizing a with
  | nil => simp
  | cons t r ih => rw [List.foldl_cons, ih]; simp [Bool.or_assoc]

/-! ### Elements of V registers -/

/-- An element of width `w` written into a register is taken modulo 2^w. -/
theorem elem_newWord_mod (old : Word) (en : Nat → Bool) (w : Nat) (offs : List Nat) (k : Nat → Nat) (ha : Apart w offs)
    {e : Nat} (he : e ∈ offs) :
    elem (newWord old en w offs k) e w = if en e then k e % 2 ^ w else elem old e w := by
  have hset : ∀ (v : Word) (e x : Nat), setElem v e w (x % 2 ^ w) = setElem v e w x := by
    intro v e x
    unfold setElem
    congr 2
    apply BitVec.eq_of_getLsbD_eq
    intro i _
    simp only [BitVec.getLsbD_and, BitVec.getLsbD_ofNat, Nat.testBit_mod_two_pow, lowMask_getLsbD]
    cases decide (i < 64) <;> cases decide (i < w) <;> simp
  have : newWord old en w offs k = newWord old en w offs (fun e => k e % 2 ^ w) := by
    unfold newWord
    congr 1
    funext acc e
    rw [hset]
  rw [this]
  exact elem_newWord old en w offs _ ha he (fun e => Nat.mod_lt _ (Nat.two_pow_pos w))

/-- What the elementwise form writes (R111). -/
theorem Group.elementwise_elements (x : Group) (gd : Guard) (active : Mask) (d w : Nat) (offs : List Nat)
    (k : Nat → Nat → Nat × Fl) (ha : Apart w offs) (hw : 8 * (w / 8) = w) :
    Elements x (x.elementwise gd active d w offs k) gd active d w offs k where
  written t ht e he := by
    unfold Group.elemV
    rw [Group.rv_elementwise _ _ _ _ _ _ _ _ (mem_threadsOf.mp ht).1, if_pos ⟨ht, rfl⟩,
      elem_newWord_mod _ _ _ _ _ ha he]
  bytes t ht b hb hn := by
    unfold Group.elemV
    rw [Group.rv_elementwise _ _ _ _ _ _ _ _ ht]
    split
    · refine elem_newWord_other _ _ _ _ _ _ _ (fun e he => ⟨ha.2 e he, ?_⟩)
      have h1 : ¬ (e ≤ b ∧ b < e + w / 8) := fun h => hn ⟨e, he, h.1, h.2⟩
      omega
    · rfl
  other t ht q hq := by
    rw [Group.rv_elementwise _ _ _ _ _ _ _ _ ht, if_neg]
    rintro ⟨h1, h2⟩
    rcases hq with h | h
    · exact h h2
    · rw [(mem_threadsOf.mp h1).2] at h; cases h
  flags b := by
    obtain ⟨v, hv⟩ := Group.foldl_wv_rest
      (fun t => newWord (x.rv t d) (x.enabled gd t) w offs (fun e => (k t e).1)) d (threadsOf active) x
    unfold Group.elementwise
    rw [hv]
    simp only [Group.raiseFlags, BitVec.getLsbD_or, getLsbD_foldl_or, getLsbD_newFlags]
    simp
  rest := by
    obtain ⟨v, fl, h⟩ := Group.elementwise_rest x gd active d w offs k
    rw [h]

/-- What the vector form writes (R111). -/
theorem Group.vecOp_elements (x : Group) (f : VFmt) (active : Mask) (w : Nat) (k : Nat → Nat → Nat × Fl)
    (h : w = 8 ∨ w = 16 ∨ w = 32 ∨ w = 64) (hs : f.selD = 15 ∨ selSingle w f.selD = true) :
    Elements x (x.vecOp f active w k) f.g active f.d.toNat w (dstOffsets w f.selD) k :=
  x.elementwise_elements _ _ _ _ _ _ (apart_dst h hs) (by rcases h with rfl | rfl | rfl | rfl <;> rfl)

/-- What the scalar form writes (R121). -/
theorem Group.newWord_scalars (x : Group) (gd : Guard) (active : Mask) (d w : Nat) (offs : List Nat) (k : Nat → Nat)
    (ha : Apart w offs) (hw : 8 * (w / 8) = w) :
    Scalars x (x.ws d (newWord (x.rs d) (x.enabled gd (leader active)) w offs k)) gd active d w offs k where
  written e he := by rw [Group.rs_ws, if_pos rfl, elem_newWord_mod _ _ _ _ _ ha he]
  bytes b hb hn := by
    rw [Group.rs_ws, if_pos rfl]
    refine elem_newWord_other _ _ _ _ _ _ _ (fun e he => ⟨ha.2 e he, ?_⟩)
    have h1 : ¬ (e ≤ b ∧ b < e + w / 8) := fun h => hn ⟨e, he, h.1, h.2⟩
    omega
  other q hq := by rw [Group.rs_ws, if_neg hq]
  rest := rfl

/-! ### Byte flags of predicates -/

theorem getLsbD_setFlags (p : BitVec 8) (e n : Nat) (c : Bool) (b : Nat) (hb : b < 8) :
    (setFlags p e n c).getLsbD b = if e ≤ b ∧ b < e + n then c else p.getLsbD b := by
  have hm : (BitVec.ofNat 8 ((2 ^ n - 1) * 2 ^ e)).getLsbD b = decide (e ≤ b ∧ b < e + n) := by
    simp only [BitVec.getLsbD_ofNat, hb, decide_true, Bool.true_and]
    rw [Nat.testBit_mul_two_pow, Nat.testBit_two_pow_sub_one]
    by_cases h1 : e ≤ b <;> by_cases h2 : b < e + n <;> simp [h1, h2] <;> omega
  unfold setFlags
  cases c
  · simp only [Bool.false_eq_true, if_false, BitVec.getLsbD_and, BitVec.getLsbD_not, hm]
    by_cases h : e ≤ b ∧ b < e + n <;> simp only [h, hb] <;> simp
  · simp only [if_true, BitVec.getLsbD_or, hm]
    by_cases h : e ≤ b ∧ b < e + n <;> simp only [h] <;> simp

/-- What a test leaves in the byte flags of elements that stand apart (R115). -/
theorem getLsbD_newPred (old : BitVec 8) (en : Nat → Bool) (w : Nat) (offs : List Nat) (k : Nat → Bool)
    (ha : Apart w offs) (hw : 8 * (w / 8) = w) {e b : Nat} (he : e ∈ offs) (hb : e ≤ b ∧ b < e + w / 8) (hb8 : b < 8) :
    (newPred old en w offs k).getLsbD b = if en e then k e else old.getLsbD b := by
  unfold newPred
  have keep : ∀ (l : List Nat) (p : BitVec 8), (∀ a ∈ l, ¬ (a ≤ b ∧ b < a + w / 8)) →
      (l.foldl (fun acc e => if en e then setFlags acc e (w / 8) (k e) else acc) p).getLsbD b = p.getLsbD b := by
    intro l
    induction l with
    | nil => intros; rfl
    | cons a r ih =>
      intro p h
      rw [List.foldl_cons, ih _ (fun c hc => h c (by simp [hc]))]
      split
      · rw [getLsbD_setFlags _ _ _ _ _ hb8, if_neg (h a (by simp))]
      · rfl
  induction offs generalizing old with
  | nil => simp at he
  | cons a r ih =>
    obtain ⟨hp, hin⟩ := ha
    rw [List.pairwise_cons] at hp
    rw [List.foldl_cons]
    rcases List.mem_cons.mp he with rfl | hm
    · rw [keep r _ (fun c hc h => by have := hp.1 c hc; omega)]
      split
      · rw [getLsbD_setFlags _ _ _ _ _ hb8, if_pos hb]
      · rfl
    · rw [ih _ ⟨hp.2, fun e he => hin e (by simp [he])⟩ hm]
      have h1 := hp.1 e hm
      split
      · rfl
      · split
        · rw [getLsbD_setFlags _ _ _ _ _ hb8, if_neg (by omega)]
        · rfl

theorem getLsbD_newPred_other (old : BitVec 8) (en : Nat → Bool) (w : Nat) (offs : List Nat) (k : Nat → Bool) {b : Nat}
    (h : ¬ InElement w offs b) : (newPred old en w offs k).getLsbD b = old.getLsbD b := by
  by_cases hb8 : b < 8
  · unfold newPred
    induction offs generalizing old with
    | nil => rfl
    | cons a r ih =>
      rw [List.foldl_cons, ih _ (fun ⟨e, he, h2⟩ => h ⟨e, by simp [he], h2⟩)]
      split
      · rw [getLsbD_setFlags _ _ _ _ _ hb8, if_neg (fun h2 => h ⟨a, by simp, h2.1, h2.2⟩)]
      · rfl
  · rw [BitVec.getLsbD_of_ge _ _ (by omega), BitVec.getLsbD_of_ge _ _ (by omega)]

/-- What a compare writes (R115, R131). -/
theorem Group.cmpOp_compares (x : Group) (f : VFmt) (active : Mask) (w : Nat) (k : Nat → Nat → Bool × Fl)
    (h : w = 8 ∨ w = 16 ∨ w = 32 ∨ w = 64) (hs : f.selD = 15 ∨ selSingle w f.selD = true) :
    Compares x (x.cmpOp f active w k) f.g active f.d.toNat w (dstOffsets w f.selD) k where
  written t ht hd e he b h1 h2 := by
    have ha := apart_dst h hs
    have hw : 8 * (w / 8) = w := by rcases h with rfl | rfl | rfl | rfl <;> rfl
    have := ha.2 e he
    rw [Group.rp_cmpOp _ _ _ _ _ _ (mem_threadsOf.mp ht).1, if_pos ⟨ht, rfl, hd⟩,
      getLsbD_newPred _ _ _ _ _ ha hw he ⟨h1, h2⟩ (by omega)]
  bits t ht b hn := by
    rw [Group.rp_cmpOp _ _ _ _ _ _ ht]
    split
    · exact getLsbD_newPred_other _ _ _ _ _ hn
    · rfl
  other t ht q hq := by
    rw [Group.rp_cmpOp _ _ _ _ _ _ ht, if_neg]
    rintro ⟨h1, h2, h3⟩
    rcases hq with h | h | h
    · exact h h2
    · rw [(mem_threadsOf.mp h1).2] at h; cases h
    · exact h3 h
  flags b := by
    obtain ⟨p, hp⟩ := Group.foldl_wp_rest
      (fun t => newPred (x.rp t f.d.toNat) (x.enabled f.g t) w (dstOffsets w f.selD) (fun e => (k t e).1)) f.d.toNat
      (threadsOf active) x
    unfold Group.cmpOp
    rw [hp]
    simp only [Group.raiseFlags, BitVec.getLsbD_or, getLsbD_foldl_or, getLsbD_newFlags]
    simp
  rest := by
    obtain ⟨p, fl, h⟩ := Group.cmpOp_rest x f active w k
    rw [h]

end Sys2Proof.Machine
end

