-- ==== Sys2Proof/Laws/Memory.lean ====
section
/-!
SUPPORT. Laws of physical memory: reading after writing, the frame of a write, and the canonical form.
-/
namespace Sys2Proof.Machine

/-! ### Reading after writing -/

/-- What a write of bytes leaves at every address. -/
theorem State.byte_setBytes (s : State) (pa : Nat) (l : List Byte) (a : Nat) :
    (s.setBytes pa l).byte a = if pa ≤ a ∧ a < pa + l.length then l.getD (a - pa) 0 else s.byte a := by
  induction l generalizing s pa with
  | nil =>
    have : ¬ (pa ≤ a ∧ a < pa + ([] : List Byte).length) := by
      rintro ⟨h1, h2⟩
      exact absurd (Nat.lt_of_le_of_lt h1 h2) (Nat.lt_irrefl _)
    rw [if_neg this]; rfl
  | cons b r ih =>
    rw [State.setBytes, ih, State.byte_setByte]
    by_cases h1 : pa + 1 ≤ a ∧ a < pa + 1 + r.length
    · have h2 : pa ≤ a ∧ a < pa + (b :: r).length := by simp; omega
      rw [if_pos h1, if_pos h2, show a - pa = (a - (pa + 1)) + 1 from by omega, List.getD_cons_succ]
    · rw [if_neg h1]
      by_cases h3 : a = pa
      · subst h3
        simp
      · have h2 : ¬ (pa ≤ a ∧ a < pa + (b :: r).length) := by simp; omega
        rw [if_neg h3, if_neg h2]

/-- Bytes just written read as written. -/
theorem State.bytes_setBytes_self (s : State) (pa : Nat) (l : List Byte) : (s.setBytes pa l).bytes pa l.length = l := by
  apply List.ext_getElem
  · simp [State.bytes]
  · intro i h1 h2
    simp [State.bytes, State.byte_setBytes, h2]

/-- A number just written reads as written, modulo its width. -/
theorem State.num_setNum (s : State) (pa n x : Nat) : (s.setNum pa n x).num pa n = x % 256 ^ n := by
  have h := State.bytes_setBytes_self s pa (leBytes n x)
  rw [length_leBytes] at h
  rw [State.num, State.setNum, h, ofLe_leBytes]

/-- Writing bytes changes only memory. -/
theorem State.setBytes_rest (s : State) (pa : Nat) (l : List Byte) : ∃ m, s.setBytes pa l = { s with mem := m } := by
  induction l generalizing s pa with
  | nil => exact ⟨s.mem, rfl⟩
  | cons b r ih =>
    obtain ⟨m, h⟩ := ih (s.setByte pa b) (pa + 1)
    exact ⟨m, by rw [State.setBytes, h]; rfl⟩

/-! ### The canonical form -/

/-- Memory is in its canonical form: addresses strictly rising, no entry that reads as an unlisted address does. -/
def State.MemWf (s : State) : Prop := Memory.wf s.mem = true
/-- The form is a matter of the memory alone. -/
theorem memWf_fold {s : State} (h : s.MemWf) : Memory.wf s.mem = true := h
/-- A state given field by field: the form is that of its memory field. -/
theorem memWf_mk
    {clk : Nat} {stepNo : Nat} {agenda : List Act} {issue : Option Issue} {mem : Sparse Byte} {groups : Sparse Group}
    {tiles : Sparse Tile} {blocks : Sparse Block} {launches : Sparse Launch} {ctxs : Sparse Ctx} {cores : Sparse Core}
    {dies : Sparse Die} {bounds : Sparse Word} {stamps : Sparse Stamped} {history : Sparse History} {moves : Sparse Move}
    {shards : List Shard} {nextId : Nat} {turn : Nat} {mstat : MStat} {mbox : Mailbox} {aperture : Nat}
    {peers : List (Nat × Nat)} {ptmBound : Option Nat} {ptm : Option (Nat × Nat × Nat)} {ctlDrift : BitVec 16}
    {log : List LogRec} {listed : List Nat} {spared : List Nat} {retired : List Nat} {rowErrors : List (Nat × Nat)}
    {debugged : Bool} {linkErrs : List (Link × Nat)} {downs : List Link} {hostRead : Option Word}
    {told : Option (Nat × Nat)} {report : Option Report} {irqs : Nat} {versions : Sparse (List Version)}
    {trans : List (Nat × Nat × Leaf)} {users : Sparse (List (Nat × Nat))} {ctlIrqs : Nat} {booted : List FlashImage}
    (h : Memory.wf mem = true) :
    State.MemWf (State.mk
      clk stepNo agenda issue mem groups tiles blocks launches ctxs cores dies bounds stamps history moves shards nextId
      turn mstat mbox aperture peers ptmBound ptm ctlDrift log listed spared retired rowErrors debugged linkErrs downs
      hostRead told report irqs versions trans users ctlIrqs booted) := h
/-- Every state that may come of a step that may not happen. -/
def OptWf (o : Option State) : Prop := ∀ t, o = some t → t.MemWf
/-- Every next state of an outcome. -/
def OutWf (o : Host.Outcome State Fault Refusal) : Prop := ∀ t, o = .next t → t.MemWf

theorem State.MemWf.of_mem {s t : State} (e : t.mem = s.mem) (h : s.MemWf) : t.MemWf := by
  unfold State.MemWf at *; rw [e]; exact h
@[simp] theorem optWf_none : OptWf none := fun _ h => by cases h
@[simp] theorem optWf_some {s : State} : OptWf (some s) ↔ s.MemWf :=
  ⟨fun h => h s rfl, fun h t e => by cases e; exact h⟩
theorem optWf_map {α : Type} (o : Option α) (k : α → State) (h : ∀ a, (k a).MemWf) : OptWf (o.map k) := by
  cases o with
  | none => exact optWf_none
  | some a => exact optWf_some.mpr (h a)
theorem optWf_bind {α : Type} (o : Option α) (k : α → Option State) (h : ∀ a, OptWf (k a)) : OptWf (o.bind k) := by
  cases o with
  | none => exact optWf_none
  | some a => exact h a
theorem outWf_next {s : State} (h : s.MemWf) : OutWf (.next s) := fun t e => by cases e; exact h
theorem outWf_refused (r : Refusal) : OutWf (.refused r) := fun t e => by cases e
theorem outWf_fault (r : Fault) : OutWf (.fault r) := fun t e => by cases e
theorem outWf_whenEnabled {n : String} {o : Option State} (h : OptWf o) : OutWf (whenEnabled n o) := by
  cases o with
  | none => exact outWf_refused _
  | some s => exact outWf_next (optWf_some.mp h)
theorem outWf_withGroup {s : State} {k : Issue → Nat → Group → State} (h : ∀ i g x, (k i g x).MemWf) :
    OutWf (withGroup s k) := by
  unfold withGroup
  repeat' split
  all_goals first | exact outWf_refused _ | exact outWf_next (h _ _ _)
theorem outWf_withTile {s : State} {k : Issue → Nat → Tile → State} (h : ∀ i t x, (k i t x).MemWf) :
    OutWf (withTile s k) := by
  unfold withTile
  repeat' split
  all_goals first | exact outWf_refused _ | exact outWf_next (h _ _ _)
theorem memWf_foldl {α : Type} {f : State → α → State} (hf : ∀ s a, s.MemWf → (f s a).MemWf) (l : List α) {s : State}
    (h : s.MemWf) : (l.foldl f s).MemWf := by
  induction l generalizing s with
  | nil => exact h
  | cons a r ih => exact ih (hf s a h)

@[simp] theorem memWf_issue (s : State) (i : Option Issue) : State.MemWf { s with issue := i } ↔ s.MemWf := Iff.rfl
/-- Writing a byte keeps the canonical form. -/
theorem setByte_memWf (s : State) (pa : Nat) (b : Byte) (h : s.MemWf) : (s.setByte pa b).MemWf :=
  Sparse.wf_put pa b h
/-- Writing bytes keeps the canonical form. -/
theorem setBytes_memWf (s : State) (pa : Nat) (l : List Byte) (h : s.MemWf) : (s.setBytes pa l).MemWf := by
  induction l generalizing s pa with
  | nil => exact h
  | cons b r ih => exact ih (s.setByte pa b) (pa + 1) (setByte_memWf s pa b h)

end Sys2Proof.Machine
end

