-- ==== Sys2Proof/Laws/Form.lean ====
section
/-!
SUPPORT. Every operation that writes memory keeps its canonical form.
-/
namespace Sys2Proof.Machine

/-- Numbers are written byte by byte. -/
theorem setNum_memWf (s : State) (pa n x : Nat) (h : s.MemWf) : (s.setNum pa n x).MemWf := setBytes_memWf _ _ _ h

/-- A fold of steps that leave memory as it is leaves it so. -/
theorem foldl_mem {α : Type} {f : State → α → State} (hf : ∀ s a, (f s a).mem = s.mem) (l : List α) (s : State) :
    (l.foldl f s).mem = s.mem := by
  induction l generalizing s with
  | nil => rfl
  | cons a r ih => rw [List.foldl_cons, ih, hf]

/-- An update of a context leaves memory as it is. -/
theorem updCtx_mem (s : State) (c : Nat) (k : Ctx → Ctx) : (s.updCtx c k).mem = s.mem := by
  unfold State.updCtx; split <;> rfl

/-- Ending the entries of lost units leaves memory as it is. -/
theorem mend_mem (s : State) (ps : List (Nat × Nat)) : (s.mend ps).mem = s.mem := by
  unfold State.mend; split <;> rfl

/-- Healing a lost unit leaves memory as it is. -/
theorem heal_mem (s : State) (pa n : Nat) : (s.heal pa n).mem = s.mem := mend_mem _ _

/-- What a die's L2 holds is no memory (R400). -/
theorem fillL2_mem (s : State) (d pa n : Nat) : (s.fillL2 d pa n).mem = s.mem := by
  unfold State.fillL2; split <;> rfl
/-- Nor is the list of a frame's users. -/
theorem noteStamped_mem (s : State) (c page : Nat) (l : Leaf) : (s.noteStamped c page l).mem = s.mem := by
  unfold State.noteStamped
  dsimp only
  repeat' split
  all_goals rfl

/-- Holding a translation leaves memory as it is. -/
theorem hold_mem (s : State) (c va n : Nat) : (s.hold c va n).mem = s.mem := by
  refine foldl_mem (fun s p => ?_) _ s
  split
  · split
    · rw [updCtx_mem, noteStamped_mem, fillL2_mem]
    · rfl
  · rfl

/-- Healing the units that a store covers leaves memory as it is. -/
theorem healAll_mem (s : State) (c : Nat) (l : List (Nat × Nat)) : (s.healAll c l).mem = s.mem := mend_mem _ _

/-- Bytes written with their versions. -/
theorem putBytes_memWf (s : State) (path core : Nat) (die : Option Nat) (pa : Nat) (l : List Byte) (h : s.MemWf) :
    (s.putBytes path core die pa l).MemWf := setBytes_memWf _ _ _ h

/-- A write on a path. -/
theorem pathWrite_memWf (s : State) (core c path va : Nat) (l : List Byte) (h : s.MemWf) :
    (s.pathWrite core c path va l).MemWf := by
  unfold State.pathWrite
  refine memWf_foldl (fun s p h => ?_) _ h
  split
  · exact State.MemWf.of_mem (heal_mem _ _ _) (putBytes_memWf _ _ _ _ _ _ h)
  · exact h

/-- A write to global memory. -/
theorem vwrite_memWf (s : State) (c va : Nat) (l : List Byte) (h : s.MemWf) : (s.vwrite c va l).MemWf :=
  pathWrite_memWf _ _ _ _ _ _ h

/-- A number written to global memory. -/
theorem vsetNum_memWf (s : State) (c va n x : Nat) (h : s.MemWf) : (s.vsetNum c va n x).MemWf := vwrite_memWf _ _ _ _ h

/-- A page-table entry written. -/
theorem setLeaf_memWf (s : State) (l : Leaf) (e : Nat) (h : s.MemWf) : (s.setLeaf l e).MemWf := setNum_memWf _ _ _ _ h

/-- The error log is no memory. -/
theorem logError_mem (s : State) (kind : Nat) (w : BitVec 32) (a : Nat) : (s.logError kind w a).mem = s.mem := by
  unfold State.logError; dsimp only; split <;> rfl
/-- Nor is an access noted in it. -/
theorem logPa_mem (s : State) (pa n : Nat) : (s.logPa pa n).mem = s.mem := by
  unfold State.logPa
  split <;> first | exact logError_mem _ _ _ _ | rfl

/-- Bytes the module writes of itself. -/
theorem writeOut_memWf (s : State) (pa : Nat) (l : List Byte) (h : s.MemWf) : (s.writeOut pa l).MemWf := by
  unfold State.writeOut
  split
  · exact State.MemWf.of_mem (logPa_mem _ _ _) h
  · exact State.MemWf.of_mem (heal_mem _ _ _) (setBytes_memWf _ _ _ h)

/-- A command's completion. -/
theorem answer_memWf (s : State) (done status : Nat) (h : s.MemWf) : (s.answer done status).MemWf := by
  unfold State.answer; split
  · exact h
  · exact writeOut_memWf _ _ _ h

/-- A record put into a ring. -/
theorem ringPut_memWf (s : State) (q z : Nat) (rec_ : List Byte) (h : s.MemWf) : (s.ringPut q z rec_).MemWf :=
  setNum_memWf _ _ _ _ (writeOut_memWf _ _ _ h)

/-- A record taken from a ring. -/
theorem ringTake_memWf (s : State) (q : Nat) (h : s.MemWf) : (s.ringTake q).MemWf := setNum_memWf _ _ _ _ h

/-- A part of a table in canonical form is in canonical form. -/
theorem Sparse.wf_filter {α : Type} [DecidableEq α] {d : α} (q : Nat × α → Bool) {m : Sparse α} (h : Sparse.wf d m = true) :
    Sparse.wf d (List.filter q m) = true := by
  induction m with
  | nil => rfl
  | cons p r ih =>
    obtain ⟨h1, h2, h3⟩ := Sparse.wf_cons.mp h
    rw [List.filter_cons]
    split
    · exact Sparse.wf_cons.mpr ⟨h1, fun x hx => h2 x (List.mem_filter.mp hx).1, ih h3⟩
    · exact ih h3

/-- A page carried to another frame. -/
theorem carryPage_memWf (s : State) (a b n : Nat) (h : s.MemWf) : (s.carryPage a b n).MemWf := by
  have key : ∀ (l m : Sparse Byte), Sparse.wf Memory.blank m = true →
      Sparse.wf Memory.blank (l.foldl (fun m p => Sparse.put Memory.blank m (p.1 - a + b) p.2) m) = true := by
    intro l
    induction l with
    | nil => exact fun m hm => hm
    | cons p r ih => exact fun m hm => ih _ (Sparse.wf_put _ _ hm)
  have e := key (List.filter (fun p => a ≤ p.1 && p.1 < a + n) s.mem) (List.filter (fun p => !(b ≤ p.1 && p.1 < b + n)) s.mem)
    (Sparse.wf_filter _ h)
  unfold State.carryPage
  dsimp only
  split
  · exact e
  · exact e

/-- The answer to a firmware command. -/
theorem fwAnswer_memWf (s : State) (a status : Nat) (h : s.MemWf) : (s.fwAnswer a status).MemWf := by
  unfold State.fwAnswer
  refine State.MemWf.of_mem (s := if hostSpan a 64 then s.setNum (hostBase + a + 4) 4 status else s) rfl ?_
  split
  · exact setNum_memWf _ _ _ _ h
  · exact h

end Sys2Proof.Machine
end

