-- ==== Sys2Proof/Laws/Issue.lean ====
section
/-!
SUPPORT. What the shared ends of an instruction do: the group that issues, completion, waiting and faults.
-/
namespace Sys2Proof.Machine

open Sys2Proof.Safety

/-! ### Who issues -/

/-- An issued instruction of a group means what its meaning makes of the fetch and the group. -/
theorem withGroup_issued {s : State} {k : Issue} {g : Nat} {x : Group} {i : Instr} (h : Issued s k g x i)
    (f : Issue → Nat → Group → State) : withGroup s f = .next (f k g x) := by
  simp only [withGroup, h.latch, h.agent, h.group]

/-- An issued instruction of a tile stream means what its meaning makes of the fetch and the context. -/
theorem withTile_issued {s : State} {k : Issue} {c : Nat} {x : Tile} {i : Instr} (h : Tiled s k c x i)
    (f : Issue → Nat → Tile → State) : withTile s f = .next (f k c x) := by
  simp only [withTile, h.latch, h.agent, h.tile]

/-- With no group issuing an instruction of a group has no meaning. -/
theorem withGroup_none {s : State} (h : s.issue = none) (f : Issue → Nat → Group → State) :
    withGroup s f = .refused .noIssuer := by simp only [withGroup, h]

@[simp] theorem whenEnabled_some (n : String) (t : State) : whenEnabled n (some t) = .next t := rfl
@[simp] theorem whenEnabled_none (n : String) : whenEnabled n none = .refused (.notEnabled n) := rfl

/-! ### Completion -/

/-- After completion the group is the one given, its active threads one unit on. -/
theorem State.group?_complete (s : State) (k : Issue) (g : Nat) (x : Group) :
    (s.complete k g x).group? g = some (x.advance k) := by
  unfold State.complete; rw [State.group?_setGroup, if_pos rfl]

/-- Completion leaves every other group as it is. -/
theorem State.group?_complete_ne (s : State) (k : Issue) {g h : Nat} (x : Group) (hn : h ≠ g) :
    (s.complete k g x).group? h = s.group? h := by
  unfold State.complete; rw [State.group?_setGroup, if_neg hn]; rfl

/-- Completion changes the latch and the groups and nothing else. -/
theorem State.complete_rest (s : State) (k : Issue) (g : Nat) (x : Group) :
    s.complete k g x = { s with issue := k.follow, groups := (s.complete k g x).groups } := rfl

/-- Where a thread stands after the advance of an active set: one unit on if it is active. -/
theorem Group.thread_advance (x : Group) (k : Issue) {t : Nat} (h : t < x.nthr) :
    (x.advance k).thread t = if k.active.getLsbD t then { x.thread t with tpc := k.unit + 1 } else x.thread t := by
  unfold Group.advance Group.mapThreads Group.thread
  unfold Group.nthr at h
  simp [List.getD_eq_getElem?_getD, h]

/-! ### Faults and waiting (R239, R333, R336) -/

/-- An event of the error log changes the log and nothing else (R389). -/
theorem State.logError_rest (s : State) (kind : Nat) (w : BitVec 32) (a : Nat) :
    ∃ l, s.logError kind w a = { s with log := l } := by
  unfold State.logError; dsimp only; split <;> exact ⟨_, rfl⟩
/-- So does an access that meets a lost unit or a peer out of reach. -/
theorem State.logPa_rest (s : State) (pa n : Nat) : ∃ l, s.logPa pa n = { s with log := l } := by
  unfold State.logPa
  split <;> first | exact State.logError_rest _ _ _ _ | exact ⟨s.log, rfl⟩
/-- So does one in a page whose table entry is lost. -/
theorem State.logBad_rest (s : State) (c va n : Nat) : ∃ l, s.logBad c va n = { s with log := l } := by
  unfold State.logBad
  repeat' split
  all_goals first | exact State.logPa_rest _ _ _ | exact ⟨s.log, rfl⟩
/-- So does a fault with MACHINE_CHECK. -/
theorem State.logCheck_rest (s : State) (c core : Nat) (info : FaultInfo) :
    ∃ l, s.logCheck c core info = { s with log := l } := by
  unfold State.logCheck
  dsimp only
  repeat' split
  all_goals first | exact State.logBad_rest _ _ _ _ | exact State.logError_rest _ _ _ _ | exact ⟨s.log, rfl⟩

/-- A group that takes a fault is Faulted with its record and is otherwise as it was. -/
theorem State.group?_faultGroup {s : State} {g : Nat} {x : Group} (h : s.group? g = some x) (info : FaultInfo)
    (unit restart : Nat) (m : Mask) :
    (s.faultGroup g info unit restart m).group? g =
      some { x with status := .faulted (s.groupRec x info unit restart m) none } := by
  unfold State.faultGroup
  simp only [h]
  obtain ⟨l, hl⟩ := State.logCheck_rest (({ s with issue := none }.setGroup g { x with
    status := .faulted (s.groupRec x info unit restart m) none }).queueFault (s.ctxOf x.launch)
    (s.groupRec x info unit restart m)) (s.ctxOf x.launch) x.core info
  rw [hl]
  unfold State.queueFault State.updCtx
  split
  · exact (State.group?_setGroup { s with issue := none } g g _).trans (if_pos rfl)
  · exact (State.group?_setGroup { s with issue := none } g g _).trans (if_pos rfl)

/-- A fault changes the latch, the groups, the contexts and the error log, and nothing else. -/
theorem State.faultGroup_rest (s : State) (g : Nat) (info : FaultInfo) (unit restart : Nat) (m : Mask) :
    ∃ (o : Option Issue) (a : Sparse Group) (b : Sparse Ctx) (l : List LogRec),
      s.faultGroup g info unit restart m = { s with issue := o, groups := a, ctxs := b, log := l } := by
  unfold State.faultGroup
  split
  · exact ⟨s.issue, s.groups, s.ctxs, s.log, rfl⟩
  · rename_i x _
    obtain ⟨l, hl⟩ := State.logCheck_rest (({ s with issue := none }.setGroup g { x with
      status := .faulted (s.groupRec x info unit restart m) none }).queueFault (s.ctxOf x.launch)
      (s.groupRec x info unit restart m)) (s.ctxOf x.launch) x.core info
    dsimp only
    rw [hl]
    unfold State.queueFault State.updCtx
    split
    · exact ⟨none, _, _, l, rfl⟩
    · exact ⟨none, _, s.ctxs, l, rfl⟩

/-- A group that waits at its instruction is as it was, with the dependence noted. -/
theorem State.group?_stall {s : State} {g : Nat} {x : Group} (h : s.group? g = some x) (w : Wait) :
    (s.stall g w).group? g = some { x with wait := some w } := by
  have h' : State.group? { s with issue := none } g = some x := h
  unfold State.stall State.updGroup
  simp only [h']
  exact (State.group?_setGroup { s with issue := none } g g _).trans (if_pos rfl)

end Sys2Proof.Machine
end

