-- ==== Sys2Proof/Tests/Slice0.lean ====
section
/-!
SUPPORT. The model's own tests: words written out field by field from the tables of encodings, terms that the checks refuse,
and a concrete state and operands for the hypotheses of every statement.
-/
namespace Sys2Proof.Tests

open Sys2Proof Sys2Proof.Machine Sys2Proof.Safety

set_option Elab.async false

/-! ### Words: the fields of each stand at the bits that R43 to R51 give them -/

/-- Every word of a list decodes to its instruction, and is the word of it. -/
def decodesAll (l : List (IWord × Instr)) : Bool := l.all (fun p => (decode p.1).toOption == some p.2 && encode p.2 == p.1)

/-- Words of the control rows of the opcode map. -/
def wordsControl : List (IWord × Instr) := [
    (0x003C00000000000000000000, .nop ⟨⟨false,15,false⟩, 0, 0, .regs 0 0 0 0, 0, 0, 0, 0, false, 0, 0, 0⟩),
    (0x00CDFFFFFFFA000000000000, .bra ⟨⟨true,3,false⟩, 4294967293, 0, 0, 0, 0, 0⟩),
    (0x013E30AFAD98000010100000, .bru ⟨⟨false,15,true⟩, 408409804, 0, 0, 32, 1, 0⟩),
    (0x01880000000114BB80000000, .brx ⟨⟨false,2,false⟩, 0, 1106, 238, 0, 0, 0⟩),
    (0x020000000005FE8000000000, .call ⟨⟨false,0,false⟩, 2, 2042, 0, 0, 0, 0⟩),
    (0x02BC00000000010000000000, .ret ⟨⟨false,15,false⟩, 0, 4, 0, 0, 0, 0⟩),
    (0x033C00100000000000000010, .conv ⟨⟨false,15,false⟩, 0, 2, 0, 0, 0, 0, false, false, 1, 0⟩),
    (0x03BC00000000000000000000, .yield ⟨⟨false,15,false⟩, 0, 0, .regs 0 0 0 0, 0, 0, 0, 0, false, 0, 0, 0⟩),
    (0x043C00000000000000000000, .exit ⟨⟨false,15,false⟩, 0, 0, .regs 0 0 0 0, 0, 0, 0, 0, false, 0, 0, 0⟩),
    (0x04BE00400000000000000010, .bar ⟨⟨false,15,true⟩, 0, 8, 0, 0, 0, 0, false, false, 1, 0⟩),
    (0x053E00680000000000000010, .bara ⟨⟨false,15,true⟩, 0, 13, 0, 0, 0, 0, false, false, 1, 0⟩),
    (0x05BE00200000000000000010, .barw ⟨⟨false,15,true⟩, 0, 4, 0, 0, 0, 0, false, false, 1, 0⟩),
    (0x063C00000000000000000000, .safe ⟨⟨false,15,false⟩, 0, 0, .regs 0 0 0 0, 0, 0, 0, 0, false, 0, 0, 0⟩),
    (0x06BC00000000000020000000, .trap ⟨⟨false,15,false⟩, 0, 0, 0, 2, 0, 0, false, false, 0, 0⟩),
    (0x073C000000000000A0000000, .bkpt ⟨⟨false,15,false⟩, 0, 0, 0, 10, 0, 0, false, false, 0, 0⟩),
    (0x07FC00400000000078000001, .getsr ⟨⟨true,15,false⟩, 1, 0, .imm 15, 0, 0, 0, 0, false, 0, 0, 0⟩),
    (0x0802004004AA012080000001, .setsr ⟨⟨false,0,true⟩, 1, 0, .imm 2504008720, 0, 0, 0, 0, false, 0, 0, 0⟩),
    (0x08BE04000000000000800000, .launch ⟨⟨false,15,true⟩, 1, 0, 0, 0, 0, 0, 2, 0, 0, 0, 0⟩)]

theorem test_decode_control : decodesAll wordsControl = true := by decide +kernel

/-- Words of the scalar rows of the opcode map. -/
def wordsScalar : List (IWord × Instr) := [
    (0x203FA3C00000000000000003, .smov ⟨⟨false,15,true⟩, 104, 120, 0, 0, 0, 0, false, false, 0, 3⟩),
    (0x20FE24000435E959B0000002, .smovi ⟨⟨true,15,true⟩, 9, 0, 0, 1130272155, 0, 0, false, false, 0, 2⟩),
    (0x213E140000000000E0000000, .smovh ⟨⟨false,15,true⟩, 5, 0, 0, 14, 0, 0, false, false, 0, 0⟩),
    (0x21BE4018A000000000000086, .sadd ⟨⟨false,15,true⟩, 16, 3, 10, 0, 0, 0, false, true, 0, 6⟩),
    (0x227E2DB807A0610670000081, .saddi ⟨⟨true,15,true⟩, 11, 55, 0, 2047217767, 0, 0, false, true, 0, 1⟩),
    (0x22FEC8504000000000000082, .ssub ⟨⟨true,15,true⟩, 50, 10, 4, 0, 0, 0, false, true, 0, 2⟩),
    (0x233EE6FE4000000000000086, .smul ⟨⟨false,15,true⟩, 57, 95, 100, 0, 0, 0, false, true, 0, 6⟩),
    (0x23BF8860042D9A23A0000105, .smulh ⟨⟨false,15,true⟩, 98, 12, 0, 1121559098, 0, 0, true, false, 0, 5⟩),
    (0x243E0EE00000000020000103, .sdiv ⟨⟨false,15,true⟩, 3, 92, 0, 2, 0, 0, true, false, 0, 3⟩),
    (0x24BE08180000000010000103, .srem ⟨⟨false,15,true⟩, 2, 3, 0, 1, 0, 0, true, false, 0, 3⟩),
    (0x253E0C700000000020000101, .sand ⟨⟨false,15,true⟩, 3, 14, 0, 2, 0, 0, true, false, 0, 1⟩),
    (0x25BEB030029A2A1210000103, .sor ⟨⟨false,15,true⟩, 44, 6, 0, 698523937, 0, 0, true, false, 0, 3⟩),
    (0x263EC0180374BF6690000105, .sxor ⟨⟨false,15,true⟩, 48, 3, 0, 927725161, 0, 0, true, false, 0, 5⟩),
    (0x26BE37B00000000030000103, .sshl ⟨⟨false,15,true⟩, 13, 118, 0, 3, 0, 0, true, false, 0, 3⟩),
    (0x277E3AA80000000020000102, .sshr ⟨⟨true,15,true⟩, 14, 85, 0, 2, 0, 0, true, false, 0, 2⟩),
    (0x278328180000000030000106, .ssra ⟨⟨false,0,true⟩, 74, 3, 0, 3, 0, 0, true, false, 0, 6⟩),
    (0x28020C180000000080000104, .smin ⟨⟨false,0,true⟩, 3, 3, 0, 8, 0, 0, true, false, 0, 4⟩),
    (0x28BF0018C000000000000007, .smax ⟨⟨false,15,true⟩, 64, 3, 12, 0, 0, 0, false, false, 0, 7⟩),
    (0x293E3C0002DA5DB020000132, .scmp ⟨⟨false,15,true⟩, 15, 0, 0, 765844226, 0, 0, true, false, 3, 2⟩),
    (0x29FE3C00A000000000001605, .ssel ⟨⟨true,15,true⟩, 15, 0, 10, 0, 0, 11, false, false, 0, 5⟩),
    (0x2A3E04400000000000000002, .sclz ⟨⟨false,15,true⟩, 1, 8, 0, 0, 0, 0, false, false, 0, 2⟩),
    (0x2ABE13B00000000000000007, .spopc ⟨⟨false,15,true⟩, 4, 118, 0, 0, 0, 0, false, false, 0, 7⟩),
    (0x2B3E2D180531BE1D10000003, .sbfx ⟨⟨false,15,true⟩, 11, 35, 0, 1394336209, 0, 0, false, false, 0, 3⟩),
    (0x2BBE04683000000010000006, .sbfi ⟨⟨false,15,true⟩, 1, 13, 3, 1, 0, 0, false, false, 0, 6⟩)]

theorem test_decode_scalar : decodesAll wordsScalar = true := by decide +kernel

/-- Words of the vectorint rows of the opcode map. -/
def wordsVectorInt : List (IWord × Instr) := [
    (0x407C00401800000000032022, .vmov ⟨⟨true,15,false⟩, 1, 3, .regs 0 0 0 0, 0, 0, 3, 2, false, 0, 1, 1⟩),
    (0x4080D4800003003208000045, .vmovi ⟨⟨false,0,false⟩, 850, 0, .imm 6293057, 0, 0, 0, 0, false, 0, 2, 2⟩),
    (0x413C00C00000000000010022, .vmovs ⟨⟨false,15,false⟩, 3, 0, .regs 0 0 0 0, 0, 0, 1, 0, false, 0, 1, 1⟩),
    (0x4181F64002F7000760000823, .vadd ⟨⟨false,0,false⟩, 2009, 0, .imm 1591738604, 0, 0, 0, 0, true, 0, 1, 1⟩),
    (0x423C0080100000C0D0003023, .vsub ⟨⟨false,15,false⟩, 2, 2, .imm 6170, 0, 0, 0, 3, false, 0, 1, 1⟩),
    (0x42BDE07E5E7E01E890004801, .vmul ⟨⟨false,15,false⟩, 1921, 1995, .imm 3485482258, 0, 0, 0, 4, true, 0, 0, 0⟩),
    (0x437C01003009B0E1000000AB, .vmulh ⟨⟨true,15,false⟩, 4, 6, .imm 20323360, 0, 0, 0, 0, false, 0, 5, 5⟩),
    (0x438400C000C9006030212088, .vmad ⟨⟨false,1,false⟩, 3, 0, .regs 201 3 0 6, 0, 2, 1, 2, false, 0, 4, 4⟩),
    (0x443C0030E55E004068002023, .vdiv ⟨⟨false,15,false⟩, 0, 1564, .imm 2881488909, 0, 0, 0, 2, false, 0, 1, 1⟩),
    (0x44BC00000009001568012023, .vrem ⟨⟨false,15,false⟩, 0, 0, .imm 18875053, 0, 0, 1, 2, false, 0, 1, 1⟩),
    (0x457C00C00000C0E100021089, .vand ⟨⟨true,15,false⟩, 3, 0, .imm 1580064, 0, 0, 2, 1, false, 0, 4, 4⟩),
    (0x45FC0000180B000018025089, .vor ⟨⟨true,15,false⟩, 0, 3, .imm 23068675, 0, 0, 2, 5, false, 0, 4, 4⟩),
    (0x4600003B62C9AEA4800100CD, .vxor ⟨⟨false,0,false⟩, 0, 1900, .imm 1496700048, 0, 0, 1, 0, false, 0, 6, 6⟩),
    (0x46BC0025D000000000021022, .vnot ⟨⟨false,15,false⟩, 0, 1210, .regs 0 0 0 0, 0, 0, 2, 1, false, 0, 1, 1⟩),
    (0x470C00801808006000000067, .vshl ⟨⟨false,3,false⟩, 2, 3, .imm 16780288, 0, 0, 0, 0, false, 0, 3, 3⟩),
    (0x47BC02F9D00D00A200061001, .vshr ⟨⟨false,15,false⟩, 11, 1850, .imm 27268160, 0, 0, 6, 1, false, 0, 0, 0⟩),
    (0x482414400002001210022089, .vsra ⟨⟨false,9,false⟩, 81, 0, .imm 4194882, 0, 0, 2, 2, false, 0, 4, 4⟩),
    (0x48BC001B3006002CB8003001, .vmin ⟨⟨false,15,false⟩, 0, 870, .imm 12584343, 0, 0, 0, 3, false, 0, 0, 0⟩),
    (0x493C00FAC00001A0D80000EF, .vmax ⟨⟨false,15,false⟩, 3, 1880, .imm 13339, 0, 0, 0, 0, false, 0, 7, 7⟩),
    (0x4981748010000000000FF800, .vabs ⟨⟨false,0,false⟩, 1490, 2, .regs 0 0 0 0, 0, 0, 15, 15, true, 0, 0, 0⟩),
    (0x4A3C01C008014CA000000045, .vcmp ⟨⟨false,15,false⟩, 7, 1, .imm 2724864, 0, 0, 0, 0, false, 0, 2, 2⟩),
    (0x4AAC00750007000000003132, .vsel ⟨⟨false,11,false⟩, 1, 1696, .regs 7 0 0 0, 0, 0, 0, 3, false, 0, 9, 9⟩),
    (0x4B3D12C00800000000000022, .vclz ⟨⟨false,15,false⟩, 1099, 1, .regs 0 0 0 0, 0, 0, 0, 0, false, 0, 1, 1⟩),
    (0x4B8000401800000000010022, .vpopc ⟨⟨false,0,false⟩, 1, 3, .regs 0 0 0 0, 0, 0, 1, 0, false, 0, 1, 1⟩),
    (0x4C00001B50010000000000CC, .vbfx ⟨⟨false,0,false⟩, 0, 874, .regs 1 0 0 0, 0, 0, 0, 0, false, 0, 6, 6⟩),
    (0x4CBD3C000004000008011044, .vbfi ⟨⟨false,15,false⟩, 1264, 0, .regs 4 0 0 1, 0, 0, 1, 1, false, 0, 2, 2⟩),
    (0x4D3C00800000BCE000000004, .vdot4 ⟨⟨false,15,false⟩, 2, 0, .regs 0 1511 0 0, 0, 0, 0, 0, false, 0, 0, 2⟩)]

theorem test_decode_vectorInt : decodesAll wordsVectorInt = true := by decide +kernel

/-- Words of the predicate rows of the opcode map. -/
def wordsPredicate : List (IWord × Instr) := [
    (0x4DBC00400000000680000001, .pset ⟨⟨false,15,false⟩, 1, 0, .imm 208, 0, 0, 0, 0, false, 0, 0, 0⟩),
    (0x4E3C01C07808000000000000, .pand ⟨⟨false,15,false⟩, 7, 15, .regs 8 0 0 0, 0, 0, 0, 0, false, 0, 0, 0⟩),
    (0x4EBC00C0180B000000000000, .por ⟨⟨false,15,false⟩, 3, 3, .regs 11 0 0 0, 0, 0, 0, 0, false, 0, 0, 0⟩),
    (0x4F3C0040100A000000000000, .pxor ⟨⟨false,15,false⟩, 1, 2, .regs 10 0 0 0, 0, 0, 0, 0, false, 0, 0, 0⟩),
    (0x4FBC02404800000000000000, .pnot ⟨⟨false,15,false⟩, 9, 9, .regs 0 0 0 0, 0, 0, 0, 0, false, 0, 0, 0⟩),
    (0x507C00400800000003000000, .vote ⟨⟨true,15,false⟩, 1, 1, .regs 0 0 0 0, 3, 0, 0, 0, false, 0, 0, 0⟩)]

theorem test_decode_predicate : decodesAll wordsPredicate = true := by decide +kernel

/-- Words of the float rows of the opcode map. -/
def wordsFloat : List (IWord × Instr) := [
    (0x603C01407000001918002711, .fadd ⟨⟨false,15,false⟩, 5, 14, .imm 803, 0, 0, 0, 2, false, 3, 8, 8⟩),
    (0x60BC8D406A2901C798000755, .fsub ⟨⟨false,15,false⟩, 565, 13, .imm 1159739635, 0, 0, 0, 0, false, 3, 10, 10⟩),
    (0x613C02402009000000000154, .fmul ⟨⟨false,15,false⟩, 9, 4, .regs 9 0 0 0, 0, 0, 0, 0, false, 0, 10, 10⟩),
    (0x61FC00C0106418E008100554, .ffma ⟨⟨true,15,false⟩, 3, 2, .regs 100 199 0 1, 0, 1, 0, 0, false, 2, 10, 10⟩),
    (0x624800C05800006050002111, .fmin ⟨⟨true,2,false⟩, 3, 11, .imm 3082, 0, 0, 0, 2, false, 0, 8, 8⟩),
    (0x628000400800006290001133, .fmax ⟨⟨false,0,false⟩, 1, 1, .imm 3154, 0, 0, 0, 1, false, 0, 9, 9⟩),
    (0x633C3EC04000004000011133, .fminn ⟨⟨false,15,false⟩, 251, 8, .imm 2048, 0, 0, 1, 1, false, 0, 9, 9⟩),
    (0x63BC00000003002390011155, .fmaxn ⟨⟨false,15,false⟩, 0, 0, .imm 6292594, 0, 0, 1, 1, false, 0, 10, 10⟩),
    (0x643D31000000000000012110, .fabs ⟨⟨false,15,false⟩, 1220, 0, .regs 0 0 0 0, 0, 0, 1, 2, false, 0, 8, 8⟩),
    (0x648000CEA800000000020132, .fneg ⟨⟨false,0,false⟩, 3, 469, .regs 0 0 0 0, 0, 0, 2, 0, false, 0, 9, 9⟩),
    (0x653C03002009000000002132, .fcpys ⟨⟨false,15,false⟩, 12, 4, .regs 9 0 0 0, 0, 0, 0, 2, false, 0, 9, 9⟩),
    (0x65BC01C0000001A087000133, .fcmp ⟨⟨false,15,false⟩, 7, 0, .imm 13328, 7, 0, 0, 0, false, 0, 9, 9⟩),
    (0x660000801800000000032110, .fclass ⟨⟨false,0,false⟩, 2, 3, .regs 0 0 0 0, 0, 0, 3, 2, false, 0, 8, 8⟩),
    (0x66BC02808000000000020310, .frnd ⟨⟨false,15,false⟩, 10, 16, .regs 0 0 0 0, 0, 0, 2, 0, false, 1, 8, 8⟩),
    (0x670000800000000000020D32, .fcvt ⟨⟨false,0,false⟩, 2, 0, .regs 0 0 0 0, 0, 0, 2, 0, true, 2, 9, 9⟩),
    (0x67BD66801800000000030120, .fcvti ⟨⟨false,15,false⟩, 1434, 3, .regs 0 0 0 0, 0, 0, 3, 0, false, 0, 9, 0⟩),
    (0x683C00220800000000010ED6, .icvtf ⟨⟨false,15,false⟩, 0, 1089, .regs 0 0 0 0, 0, 0, 1, 0, true, 3, 6, 11⟩),
    (0x68BC024020000000040F1558, .fpack ⟨⟨false,15,false⟩, 9, 4, .regs 0 0 0 0, 4, 0, 15, 1, false, 2, 10, 12⟩),
    (0x693C0240200000000102F194, .funpk ⟨⟨false,15,false⟩, 9, 4, .regs 0 0 0 0, 1, 0, 2, 15, false, 0, 12, 10⟩),
    (0x69BD087DD000000001001F54, .fsca ⟨⟨false,15,false⟩, 1057, 1978, .regs 0 0 0 0, 1, 0, 0, 1, true, 3, 10, 10⟩),
    (0x803C00000000002118020B11, .fdiv ⟨⟨false,15,false⟩, 0, 0, .imm 1059, 0, 0, 2, 0, true, 1, 8, 8⟩),
    (0x80BD4F401800000000000354, .frcp ⟨⟨false,15,false⟩, 1341, 3, .regs 0 0 0 0, 0, 0, 0, 0, false, 1, 10, 10⟩),
    (0x813C00000000000000021732, .fsqrt ⟨⟨false,15,false⟩, 0, 0, .regs 0 0 0 0, 0, 0, 2, 1, false, 3, 9, 9⟩),
    (0x81BC00801000000000001932, .frsq ⟨⟨false,15,false⟩, 2, 2, .regs 0 0 0 0, 0, 0, 0, 1, true, 0, 9, 9⟩),
    (0x820040540800000000030732, .fexp2 ⟨⟨false,0,false⟩, 257, 641, .regs 0 0 0 0, 0, 0, 3, 0, false, 3, 9, 9⟩),
    (0x82BC00139000000000031110, .flog2 ⟨⟨false,15,false⟩, 0, 626, .regs 0 0 0 0, 0, 0, 3, 1, false, 0, 8, 8⟩),
    (0x833C007B7000000000003710, .fsinp ⟨⟨false,15,false⟩, 1, 1902, .regs 0 0 0 0, 0, 0, 0, 3, false, 3, 8, 8⟩),
    (0x8381E3800800000000000310, .fcosp ⟨⟨false,0,false⟩, 1934, 1, .regs 0 0 0 0, 0, 0, 0, 0, false, 1, 8, 8⟩),
    (0x843DDC400000000000010554, .ftanh ⟨⟨false,15,false⟩, 1905, 0, .regs 0 0 0 0, 0, 0, 1, 0, false, 2, 10, 10⟩),
    (0x84BC024020000000000F1158, .expq ⟨⟨false,15,false⟩, 9, 4, .regs 0 0 0 0, 0, 0, 15, 1, false, 0, 10, 12⟩)]

theorem test_decode_float : decodesAll wordsFloat = true := by decide +kernel

/-- Words of the lane rows of the opcode map. -/
def wordsLane : List (IWord × Instr) := [
    (0x853C028048000001800000CC, .xget ⟨⟨false,15,false⟩, 10, 9, .regs 0 0 3 0, 0, 0, 0, 0, false, 0, 6, 6⟩),
    (0x85BC0000180000A101031132, .xput ⟨⟨false,15,false⟩, 0, 3, .regs 0 5 2 0, 1, 0, 3, 1, false, 0, 9, 9⟩),
    (0x863C928F8800000180010110, .xbcast ⟨⟨false,15,false⟩, 586, 497, .regs 0 0 3 0, 0, 0, 1, 0, false, 0, 8, 8⟩),
    (0x869C13404800000000013310, .xscan ⟨⟨false,7,false⟩, 77, 9, .regs 0 0 0 0, 0, 0, 1, 3, false, 1, 8, 8⟩),
    (0x873CCA401800000007013132, .xred ⟨⟨false,15,false⟩, 809, 3, .regs 0 0 0 0, 7, 0, 1, 3, false, 0, 9, 9⟩),
    (0x87BC0240280000008200F0EE, .xffs ⟨⟨false,15,false⟩, 9, 5, .regs 0 0 1 0, 2, 0, 0, 15, false, 0, 7, 7⟩)]

theorem test_decode_lane : decodesAll wordsLane = true := by decide +kernel

/-- Words of the memory rows of the opcode map. -/
def wordsMemory : List (IWord × Instr) := [
    (0x903C00C00000001802001D0A, .ld ⟨⟨false,15,false⟩, 3, 0, 3, 0, true, 0, 0, 0, true, 3, 2, 0, 10⟩),
    (0x90BC006A7800005000042008, .ldp ⟨⟨false,15,false⟩, 1, 1359, 10, 0, false, 0, 2, 1, false, 0, 0, 0, 8⟩),
    (0x913C008060000078000211A0, .st ⟨⟨false,15,false⟩, 2, 12, 15, 0, false, 0, 1, 0, true, 0, 3, 2, 0⟩),
    (0x91BC00250800000800040685, .ldc ⟨⟨false,15,false⟩, 0, 1185, 1, 0, false, 0, 2, 0, false, 1, 5, 0, 5⟩),
    (0x923E00C0435EEAE000001001, .sld ⟨⟨false,15,true⟩, 3, 8, 7069020, 0, false, 0, 0, 0, true, 0, 0, 0, 1⟩),
    (0x928200000000006000241C00, .sst ⟨⟨false,0,true⟩, 0, 0, 12, 0, false, 1, 2, 0, true, 3, 0, 0, 0⟩),
    (0x933C00801800000002060E80, .gath ⟨⟨false,15,false⟩, 2, 3, 0, 0, true, 0, 3, 0, false, 3, 5, 0, 0⟩),
    (0x93BC000010000065E4030280, .gathp ⟨⟨false,15,false⟩, 0, 2, 12, 377, false, 0, 1, 8, false, 0, 5, 0, 0⟩),
    (0x947C034017DE827000220002, .scat ⟨⟨true,15,false⟩, 13, 2, 16502862, 0, false, 1, 1, 0, false, 0, 0, 0, 2⟩),
    (0x94FC724000000020003E1082, .atom ⟨⟨true,15,false⟩, 457, 0, 4, 0, false, 1, 15, 0, true, 0, 1, 0, 2⟩),
    (0x953C01401800000000020022, .amaxr ⟨⟨false,15,false⟩, 5, 3, 0, 0, false, 0, 1, 0, false, 0, 0, 2, 2⟩),
    (0x9580000000000000000000A0, .fence ⟨⟨false,0,false⟩, 0, 0, 0, 0, false, 0, 0, 0, false, 0, 1, 2, 0⟩),
    (0x964000000000000008000D00, .pfence ⟨⟨true,0,false⟩, 0, 0, 0, 2, false, 0, 0, 0, false, 3, 2, 0, 0⟩),
    (0x96BE00000000000020000000, .wait ⟨⟨false,15,true⟩, 0, 0, 0, 2, 0, 0, false, false, 0, 0⟩),
    (0x973C00000000008001800400, .qpush ⟨⟨false,15,false⟩, 0, 0, 0, 0, 0, 2, 6, 1, 0, 0, 0⟩),
    (0x97BC000000011EC000000400, .qpop ⟨⟨false,15,false⟩, 0, 0, 0, 0, 71, 11, 0, 1, 0, 0, 0⟩),
    (0x980200100BA0000002400100, .spmap ⟨⟨false,0,true⟩, 0, 2, 0, 93, 0, 0, 9, 0, 2, 0, 0⟩),
    (0x988200000000000003C00180, .spwb ⟨⟨false,0,true⟩, 0, 0, 0, 0, 0, 0, 15, 0, 3, 0, 0⟩),
    (0x990000006000005800000C00, .spempty ⟨⟨false,0,false⟩, 0, 12, 11, 0, false, 0, 0, 0, false, 3, 0, 0, 0⟩),
    (0x99BE00000000000001000000, .bankcfg ⟨⟨false,15,true⟩, 0, 0, 0, 0, 0, 0, 4, 0, 0, 0, 0⟩),
    (0x9A3C16000000001800200006, .pgreq ⟨⟨false,15,false⟩, 88, 0, 3, 0, false, 1, 0, 0, false, 0, 0, 0, 6⟩)]

theorem test_decode_memory : decodesAll wordsMemory = true := by decide +kernel

/-- Words of the engine rows of the opcode map. -/
def wordsEngine : List (IWord × Instr) := [
    (0xB00600000000000002800480, .cpy ⟨⟨false,1,true⟩, 0, 0, 0, 0, 0, 0, 10, 1, 1, 0, 0⟩),
    (0xB0CE00186320000000000100, .cpysel ⟨⟨true,3,true⟩, 0, 3, 6, 25, 0, 0, 0, 0, 2, 0, 0⟩),
    (0xB13C005800067C0001C00000, .fbopen ⟨⟨false,15,false⟩, 0, 11, 0, 0, 415, 0, 7, 0, 0, 0, 0⟩),
    (0xB1BC00000000328000C00000, .fbnext ⟨⟨false,15,false⟩, 0, 0, 0, 0, 12, 10, 3, 0, 0, 0, 0⟩),
    (0xB23C00000000014000C00000, .fbend ⟨⟨false,15,false⟩, 0, 0, 0, 0, 0, 5, 3, 0, 0, 0, 0⟩),
    (0xB2BC00000000000000800000, .fbclose ⟨⟨false,15,false⟩, 0, 0, 0, 0, 0, 0, 2, 0, 0, 0, 0⟩),
    (0xB33C01E00000004000000037, .dqpush ⟨⟨false,15,false⟩, 0, 60, 0, 0, 0, 1, 0, 0, 0, 3, 7⟩),
    (0xB38000180000000000000087, .dqpop ⟨⟨false,0,false⟩, 0, 3, 0, 0, 0, 0, 0, 0, 1, 0, 7⟩),
    (0xB43C00180000034000000207, .dqsteal ⟨⟨false,15,false⟩, 0, 3, 0, 0, 0, 13, 0, 0, 4, 0, 7⟩),
    (0xB4C00000001C88000080000B, .bndup ⟨⟨true,0,false⟩, 0, 0, 0, 0, 1826, 0, 2, 0, 0, 0, 11⟩),
    (0xB53C000000000C0003400280, .bndrd ⟨⟨false,15,false⟩, 0, 0, 0, 0, 3, 0, 13, 0, 5, 0, 0⟩),
    (0xB5BC0010000C340000000400, .rngt ⟨⟨false,15,false⟩, 0, 2, 0, 0, 781, 0, 0, 1, 0, 0, 0⟩),
    (0xB6160C023000000000000000, .tnow ⟨⟨false,5,true⟩, 3, 0, 35, 0, 0, 0, 0, 0, 0, 0, 0⟩),
    (0xB68200400000005020021101, .stst ⟨⟨false,0,true⟩, 1, 0, 10, 8, false, 0, 1, 0, true, 0, 2, 0, 1⟩),
    (0xB77D661EE00000200000819B, .ldas ⟨⟨true,15,false⟩, 1432, 988, 4, 0, false, 0, 0, 4, false, 0, 3, 1, 11⟩),
    (0xB78208081000000000000000, .vacq ⟨⟨false,0,true⟩, 2, 1, 1, 0, 0, 0, 0, 0, 0, 0, 0⟩),
    (0xB83E0866C000000000000000, .vrel ⟨⟨false,15,true⟩, 2, 12, 108, 0, 0, 0, 0, 0, 0, 0, 0⟩)]

theorem test_decode_engine : decodesAll wordsEngine = true := by decide +kernel

/-- Words of the tile rows of the opcode map. -/
def wordsTile : List (IWord × Instr) := [
    (0xC03C82800000000000000000, .tsmov ⟨⟨false,15,false⟩, 8, 5, 0, 0, 0, 0, 0, 0, 0, 0⟩),
    (0xC0BC300000015515A1E00020, .tsmovi ⟨⟨false,15,false⟩, 3, 0, 0, 0, 0, 0, 0, 357653022, 2, 0⟩),
    (0xC13C510C0000000000000000, .tsadd ⟨⟨false,15,false⟩, 5, 2, 3, 0, 0, 0, 0, 0, 0, 0⟩),
    (0xC1BC0A000000000000F00000, .tloop ⟨⟨false,15,false⟩, 0, 20, 0, 0, 0, 0, 0, 15, 0, 0⟩),
    (0xC23C04800000000000500020, .tbra ⟨⟨false,15,false⟩, 0, 9, 0, 0, 0, 0, 0, 5, 2, 0⟩),
    (0xC2BC00000000000000F00000, .tarr ⟨⟨false,15,false⟩, 0, 0, 0, 0, 0, 0, 0, 15, 0, 0⟩),
    (0xC33C00000000000000200000, .twait ⟨⟨false,15,false⟩, 0, 0, 0, 0, 0, 0, 0, 2, 0, 0⟩),
    (0xC3BC0B000300000000000000, .tfmt ⟨⟨false,15,false⟩, 0, 22, 0, 0, 0, 6, 0, 0, 0, 0⟩),
    (0xC43C0400038000000000000C, .tnorm ⟨⟨false,15,false⟩, 0, 8, 0, 0, 0, 7, 0, 0, 0, 12⟩),
    (0xC4BC0A0C028000000000002C, .mma ⟨⟨false,15,false⟩, 0, 20, 3, 0, 0, 5, 0, 0, 2, 12⟩),
    (0xC53C02E0C0200000000000AC, .mmac ⟨⟨false,15,false⟩, 0, 5, 24, 6, 0, 0, 2, 0, 10, 12⟩),
    (0xC5BC090F45A000000000003C, .mmk ⟨⟨false,15,false⟩, 0, 18, 3, 26, 1, 3, 2, 0, 3, 12⟩),
    (0xC63C00000400000000300000, .wlinit ⟨⟨false,15,false⟩, 0, 0, 0, 0, 1, 0, 0, 3, 0, 0⟩),
    (0xC6BC00000400000000100010, .wlflr ⟨⟨false,15,false⟩, 0, 0, 0, 0, 1, 0, 0, 1, 1, 0⟩),
    (0xC73C00000400000000000010, .wlst ⟨⟨false,15,false⟩, 0, 0, 0, 0, 1, 0, 0, 0, 1, 0⟩),
    (0xC7BC07000800000000000010, .wlmrg ⟨⟨false,15,false⟩, 0, 14, 0, 0, 2, 0, 0, 0, 1, 0⟩),
    (0xC83C00000000000000000000, .tend ⟨⟨false,15,false⟩, 0, 0, 0, 0, 0, 0, 0, 0, 0, 0⟩)]

theorem test_decode_tile : decodesAll wordsTile = true := by decide +kernel

/-- Words of the matrix rows of the opcode map. -/
def wordsMatrix : List (IWord × Instr) := [
    (0xD03C02400000000078FFF154, .aqpop ⟨⟨false,15,false⟩, 9, 0, .regs 0 0 0 15, 0, 15, 15, 15, false, 0, 10, 10⟩),
    (0xD0BC024000000001F9FFF0EE, .wlrd ⟨⟨false,15,false⟩, 9, 0, .regs 0 0 3 15, 1, 15, 15, 15, false, 0, 7, 7⟩)]

theorem test_decode_matrix : decodesAll wordsMatrix = true := by decide +kernel

/-- Words of the table rows of the opcode map. -/
def wordsTable : List (IWord × Instr) := [
    (0xE00200100000000000000080, .nlbin ⟨⟨false,0,true⟩, 0, 2, 0, 0, 0, 0, 0, 0, 1, 0, 0⟩),
    (0xE0FE00180000000000400280, .nlsweep ⟨⟨true,15,true⟩, 0, 3, 0, 0, 0, 0, 1, 0, 5, 0, 0⟩),
    (0xE11604180000000000000280, .nlstat ⟨⟨false,5,true⟩, 1, 3, 0, 0, 0, 0, 0, 0, 5, 0, 0⟩),
    (0xE1BC02300011CC4000000100, .kvx ⟨⟨false,15,false⟩, 0, 70, 0, 0, 1139, 1, 0, 0, 2, 0, 0⟩),
    (0xE23C001000000E40000001B0, .kvins ⟨⟨false,15,false⟩, 0, 2, 0, 0, 3, 9, 0, 0, 3, 3, 0⟩),
    (0xE2BC003800100400000005A0, .kvref ⟨⟨false,15,false⟩, 0, 7, 0, 0, 1025, 0, 0, 1, 3, 2, 0⟩),
    (0xE30200480000080000C00000, .pfxh ⟨⟨false,0,true⟩, 0, 9, 0, 0, 2, 0, 3, 0, 0, 0, 0⟩),
    (0xE3FE3430300F740000000000, .pfxl ⟨⟨true,15,true⟩, 13, 6, 3, 0, 989, 0, 0, 0, 0, 0, 0⟩),
    (0xE43C00500003D280000001B0, .pfxi ⟨⟨false,15,false⟩, 0, 10, 0, 0, 244, 10, 0, 0, 3, 3, 0⟩),
    (0xE4BE10154060000000800000, .coll ⟨⟨false,15,true⟩, 4, 2, 84, 3, 0, 0, 2, 0, 0, 0, 0⟩),
    (0xE53E3C700000000000000180, .collw ⟨⟨false,15,true⟩, 15, 14, 0, 0, 0, 0, 0, 0, 3, 0, 0⟩)]

theorem test_decode_table : decodesAll wordsTable = true := by decide +kernel

/-! ### Terms that the checks refuse (R53) -/

/-- Always enabled, one result for each thread; and the uniform guard. -/
def each : Guard := Guard.mk false 15 false
def uni : Guard := Guard.mk false 15 true
/-- Two s32 or two f32 sources, packed. -/
def v32 : VFmt := VFmt.mk each 64 1 (.regs 2 0 0 0) 0 15 15 15 false 0 2 2
def f32 : VFmt := { v32 with type := 10, type2 := 10 }
/-- One source. -/
def v1 : VFmt := { v32 with src := .regs 0 0 0 0, selB := 0 }
def f1 : VFmt := { v1 with type := 10, type2 := 10 }
/-- No operand at all. -/
def v0 : VFmt := VFmt.mk each 0 0 (.regs 0 0 0 0) 0 0 0 0 false 0 0 0
/-- A predicate operation, a scalar operation on s64, a barrier on set 8, a branch by two units. -/
def p2 : VFmt := { v0 with d := 1, a := 2, src := .regs 3 0 0 0 }
def s64 : SFmt := SFmt.mk uni 5 6 7 0 0 0 false false 0 3
def set8 : SFmt := SFmt.mk uni 0 0 0 8 0 0 false false 0 0
def two : BFmt := BFmt.mk each 2 0 0 0 0 0
/-- A lane move of s32 by one lane, in the low word. -/
def lane : VFmt := { v1 with selD := 0, selA := 0, src := .regs 0 0 1 0 }
/-- An s64 access at V1 + 8 or at S1 + 8, whole registers. -/
def m64 : MFmt := MFmt.mk each 64 1 8 0 false 0 15 0 false 0 5 0 3
def u64 : MFmt := { m64 with g := uni, saddr := true }
/-- A gather or scatter of s64 from S1 by V1; no operand. -/
def g64 : MFmt := { m64 with ext := 4 }
def m0 : MFmt := MFmt.mk each 0 0 0 0 false 0 0 0 false 0 5 0 0
/-- An engine instruction without an operand; one for each thread. -/
def e0 : EFmt := EFmt.mk uni 0 0 0 0 0 0 0 0 0 0 0
def t0 : EFmt := { e0 with g := each }
/-- A tile-stream instruction without an operand; a matrix instruction on f16. -/
def ts : TFmt := TFmt.mk each 0 0 0 0 0 0 0 0 0 0
def mm : TFmt := { ts with ta := 3, tb := 6, type := 8 }

/-- One term for each check of the vector, scalar and control instructions. -/
def illVector : List Instr := [
  .nop { v0 with d := 1 }, .nop { v0 with src := .imm 0 }, .exit { v0 with g := uni },
  .vadd { v32 with type := 8, type2 := 8 }, .vadd { v32 with type2 := 3 }, .vadd { v32 with rm := 1 },
  .vadd { v32 with selA := 0 }, .vadd { v32 with selD := 2, selA := 2, selB := 2 }, .vadd { v32 with subop := 1 },
  .vadd { v32 with src := .regs 2 1 0 0 }, .vadd { v32 with src := .regs 2 0 1 0 }, .vadd { v32 with src := .regs 2 0 0 1 },
  .vadd { v32 with g := uni }, .vmulh { v32 with sat := true }, .vnot { v1 with selB := 15 }, .vmovs { v1 with a := 128 },
  .vcmp { v32 with d := 16 }, .vcmp { v32 with d := 1, subop := 6 }, .vcmp { v32 with d := 1, selD := 0 },
  .vbfx { v32 with type := 0, type2 := 0 }, .vdot4 { v32 with type2 := 2 },
  .pand { p2 with a := 16 }, .pset { p2 with src := .imm 256, a := 0 }, .vote { p2 with src := .regs 0 0 0 0, subop := 4 },
  .fadd { v32 with type2 := 3, type := 3 }, .fmin { f32 with rm := 1 }, .fmin { f32 with sat := true },
  .fadd { f32 with type := 8, type2 := 8, src := .imm 0x10000, selB := 0 }, .fcvt { f1 with type2 := 11 },
  .fpack { f1 with type := 12, subop := 5, selD := 0 }, .frnd { f1 with subop := 2 },
  .xget { lane with selD := 15, selA := 15 }, .xget { lane with src := .regs 0 0 33 0 }, .xget { lane with src := .regs 1 0 1 0 },
  .xscan { f1 with subop := 3 }, .xffs { v1 with type := 7, type2 := 7, selA := 0, a := 16 },
  .bra { two with vx := 1 }, .bra { two with rsv := 1 }, .bru { two with g := uni, cond := 6 }, .brx { two with tbl := 1 },
  .conv (SFmt.mk each 0 1 0 2 0 0 false false 0 0), .bar { set8 with imm := 256 }, .bar { set8 with g := each },
  .trap { set8 with sx := 1 }, .getsr { v0 with src := .imm 17 }, .getsr { v0 with g := uni, d := 128 },
  .setsr { v0 with g := uni, d := 17 },
  .sadd { s64 with g := each }, .sadd { s64 with type := 10 }, .sadd { s64 with zero := 1 }, .sadd { s64 with immSel := true },
  .smulh { s64 with sat := true }, .scmp { s64 with subop := 6 }, .sbfx { s64 with type := 0, sb := 0 },
  .aqpop { v32 with type := 10, type2 := 10 }, .wlrd { v32 with type := 7, type2 := 7 }]

theorem test_refuses_vector : illVector.all (fun i => !i.wf) = true := by decide +kernel

/-- One term for each check of the memory, engine and tile-stream instructions. -/
def illEngine : List Instr := [
  .ld { m64 with scope := 6 }, .ld { m64 with order := 2 }, .ld { m64 with take := true }, .ld { m64 with saddr := true, addr := 128 },
  .ld { m64 with selD := 1 }, .ld { m64 with fp := 1 }, .ldp { m64 with fp := 15 }, .ldp { m64 with scope := 1 },
  .st { m64 with order := 1 }, .st { m64 with path := 1 }, .st { m64 with subop := 1 }, .ldc { m64 with path := 0 },
  .sld { u64 with path := 2 }, .sld { u64 with saddr := false }, .sst { u64 with data := 128 }, .gath { g64 with path := 1 },
  .gath { g64 with order := 1 }, .scat { g64 with subop := 6 }, .scat { g64 with subop := 9 }, .atom { m64 with order := 5 },
  .atom { m64 with ext := 2 }, .atom { m64 with subop := 7 }, .atom { m64 with subop := 7, ext := 1, data := 65 },
  .atom { m64 with type := 1 }, .amaxr { m64 with path := 3 }, .fence m0, .fence { m0 with order := 1, addr := 1 },
  .pfence { m0 with path := 1, ext := 1 }, .wait { set8 with imm := 0x1000000 }, .wait { set8 with g := Guard.mk true 15 true },
  .qpush { t0 with ext := 1, pf := 15 }, .qpop { t0 with imm := 32 }, .spmap { e0 with imm := 16 }, .spwb { e0 with sa := 1 },
  .spempty { m0 with path := 0 }, .bankcfg { e0 with imm := 96 }, .pgreq { m64 with subop := 2, type := 6 },
  .cpy { e0 with sb := 125 }, .cpy { e0 with imm := 1 }, .cpysel { e0 with imm := 0x8000 }, .fbopen { t0 with imm := 8 },
  .fbnext { t0 with pf := 15 }, .dqpush { t0 with type := 6 }, .bndup { t0 with type := 7, ext := 3 }, .bndrd { t0 with sd := 1 },
  .rngt { t0 with imm := 4096 }, .rngt { t0 with ext := 1, imm := 1 }, .tnow { e0 with sd := 3, sb := 3 },
  .stst { m64 with ext := 1 }, .ldas { m64 with fp := 15 }, .vacq { e0 with vx := 1 }, .launch { e0 with imm := 8 },
  .tsmov { ts with g := uni }, .tsmov { ts with g := Guard.mk false 0 false }, .tsmovi { ts with mod := 3 },
  .tsadd { ts with mod := 1, tb := 1 }, .tbra { ts with mod := 7 }, .tbra { ts with mod := 6, ta := 1 }, .tarr { ts with imm := 256 },
  .tnorm { mm with tb := 0, ta := 30 }, .mma { mm with type := 10 }, .mma { mm with fa := 1 }, .mma { mm with mod := 17 },
  .mmac { mm with mod := 0xC0 }, .mmk { mm with td := 1 }, .wlinit ts, .wlinit { ts with imm := 33 }, .wlflr { ts with mod := 1, imm := 16 },
  .wlst { ts with mod := 2 }, .tend { ts with td := 1 }, .nlbin { e0 with imm := 1 }, .nlsweep { e0 with imm := 32 },
  .kvref { t0 with ext := 2 }, .pfxh { e0 with imm := 32 }, .pfxl { e0 with imm := 64 }, .coll { e0 with order := 1 },
  .collw { e0 with imm := 1 }]

theorem test_refuses_engine : illEngine.all (fun i => !i.wf) = true := by decide +kernel

/-- The formats from which those terms depart are well formed. -/
theorem test_accepts : ([.nop v0, .vadd v32, .vnot v1, .pand p2, .fadd f32, .fabs f1, .xget lane, .bra two, .bar set8, .sadd s64,
    .ld m64, .st m64, .sld u64, .sst u64, .gath g64, .ldp { m64 with fp := 1 }, .fence { m0 with order := 1 }, .spempty { m0 with path := 3 },
    .cpy e0, .fbopen t0, .qpush t0, .tsmov ts, .mma mm, .mmk mm, .tend ts, .nlbin e0, .kvx t0, .pfxh e0, .coll e0, .collw e0] :
    List Instr).all Instr.wf = true := by decide +kernel

/-! ### A machine on which the hypotheses of the statements are met: one group of two threads on core 0, a page of 1 GiB that
maps its addresses on themselves, bank 0 a scratchpad with full lines and bank 1 a FIFO -/

def demoLaunch : Launch := { loadLaunch false with
  nthr := 2, seed := 7, tables := 0x2000, ntab := 1, bken := true, sets := [(8, SetDef.mk [(0, 0)] [])] }
/-- V1 holds 0x4000 and 0x4040, V2 is 5 in each thread, S1 is 0x4000, S2 is 0x5000; V9 holds 3 and a link out of range. -/
def demoX : Group := { startGroup 0 0 0 0 0 demoLaunch true 0 with
  v := [(32, 0x4000), (33, 0x4040), (64, 5), (65, 5), (288, 3), (289, 0x14000000000000)], s := [(1, 0x4000), (2, 0x5000)] }
def demoCore : Core := { Core.idle with
  powered := true, holder := some 0, full := [(0, true), (1, true)],
  banks := [(0, Bank.fresh .scratch (some 0)), (1, Bank.fresh .fifo (some 0))] }
def demoBase : State := { State.reset.loadWord false 0 with
  groups := [(0, demoX)], launches := [(0, demoLaunch)], cores := [(0, demoCore)] }
/-- Instruction `i` latched at unit 0 for both threads of `x`. -/
def demoK (i : Instr) : Issue := Issue.mk (.group 0) 0 3 i none false
def demoWith (s : State) (x : Group) (i : Instr) : State := { s with groups := [(0, x)], issue := some (demoK i) }
def demo (i : Instr) : State := demoWith demoBase demoX i

theorem issued_with (s : State) (x : Group) (i : Instr) : Issued (demoWith s x i) (demoK i) 0 x i := ⟨rfl, rfl, rfl, rfl⟩
theorem issued_demo (i : Instr) : Issued (demo i) (demoK i) 0 demoX i := issued_with demoBase demoX i

/-- Every instruction of a list is well formed and issues on the machine. -/
def Meets (l : List Instr) : Prop := ∀ i ∈ l, i.wf = true ∧ Issued (demo i) (demoK i) 0 demoX i
theorem meets (l : List Instr) (h : l.all Instr.wf = true) : Meets l :=
  fun i hi => ⟨List.all_eq_true.mp h i hi, issued_demo i⟩

/-- Three sources. -/
def v3 : VFmt := { v32 with src := .regs 2 3 0 15 }
def f3 : VFmt := { v3 with type := 10, type2 := 10 }

/-! #### Registers (no hypothesis but the form and the issue) -/

theorem witness_VectorTwoSource : Meets [.vadd { v32 with sat := true }, .vsub v32, .vmul v32, .vmulh v32, .vdiv v32, .vrem v32,
    .vand v32, .vor v32, .vxor v32, .vshl v32, .vshr v32, .vsra v32, .vmin v32, .vmax { v32 with src := .imm 7, selB := 0 }] :=
  meets _ (by decide +kernel)
theorem witness_VectorOneSourceAndMoves : Meets [.vnot v1, .vabs v1, .vclz v1, .vpopc v1, .vmad v3, .vmov v1,
    .vmovi { v1 with src := .imm 9, a := 0, selA := 0 }, .vmovs v1] := by
  refine meets _ ?_; decide +kernel
theorem witness_VectorSelectFieldsDot : Meets [.vsel { v32 with src := .regs 2 3 0 0 }, .vbfx v32, .vbfi v3, .vdot4 { v3 with type2 := 0 }] :=
  meets _ (by decide +kernel)
theorem witness_VectorCompare : Meets [.vcmp { v32 with d := 1 }, .vcmp { v32 with d := 15 }] := meets _ (by decide +kernel)
theorem witness_PredicatesAndVote : Meets [.pset { p2 with src := .regs 0 0 0 0 }, .pset { p2 with src := .imm 255, a := 0 }, .pand p2, .por p2, .pxor p2,
    .pnot { p2 with src := .regs 0 0 0 0 }, .vote { p2 with src := .regs 0 0 0 0 }, .vote { p2 with src := .regs 0 0 0 0, subop := 3 }] := by
  refine meets _ ?_; decide +kernel
theorem witness_ScalarTwoSource : Meets [.sadd s64, .saddi { s64 with sb := 0, imm := 9 }, .ssub s64, .smul s64, .smulh s64, .sdiv s64,
    .srem s64, .sand s64, .sor s64, .sxor s64, .sshl s64, .sshr s64, .ssra s64, .smin s64,
    .smax { s64 with immSel := true, sb := 0, imm := 3 }] := meets _ (by decide +kernel)
theorem witness_ScalarOthers : Meets [.smov { s64 with sb := 0 }, .smovi { s64 with sa := 0, sb := 0 }, .scmp s64, .ssel s64,
    .sclz { s64 with sb := 0 }, .spopc { s64 with sb := 0 }, .smovh { s64 with type := 0, sa := 0, sb := 0 },
    .sbfx { s64 with sb := 0 }, .sbfi s64] := meets _ (by decide +kernel)
theorem witness_FloatArithmetic : Meets [.fadd { f32 with sat := true, rm := 3 }, .fsub f32, .fmul f32, .ffma f3, .fdiv f32] :=
  meets _ (by decide +kernel)
theorem witness_FloatSignClassCompare : Meets [.fmin f32, .fmax f32, .fminn f32, .fmaxn f32, .fclass f1, .fabs f1, .fneg f1, .fcpys f32,
    .fcmp { f32 with d := 1 }, .fcmp { f32 with d := 15, subop := 7 }] := meets _ (by decide +kernel)
theorem witness_FloatIntegralSpecial : Meets [.frnd { f1 with subop := 1 }, .frcp f1, .fsqrt f1, .frsq f1, .fexp2 f1, .flog2 f1, .fsinp f1,
    .fcosp f1, .ftanh f1] := meets _ (by decide +kernel)
theorem witness_Conversions : Meets [.fcvt f1, .fcvti { f1 with type := 2 }, .icvtf { f1 with type2 := 6 }, .fsca f3,
    .fsca { f32 with subop := 1 }, .fpack { f1 with type := 12, selD := 1 }, .expq { f1 with type := 12, selD := 3 },
    .funpk { f1 with type2 := 12, selA := 3 }] := meets _ (by decide +kernel)
/-- R62, R64 to R66, R79, R143: codes and values under the hypotheses about arithmetic. -/
theorem witness_SumsAndRounding :
    (Machine.Num.isNan (.nan true) = true ∧ Machine.Num.isSig (.nan true) = true) ∧
    (roundAt 0 false 6 0 false 2 = (2, true) ∧ (0 : Int) < 2) ∧
    (∀ f ∈ [fmtF16, fmtBF16, fmtF32, fmtF64], (1 < 2 ^ f.width ∧ (f.decode 1).isNan = false) ∧ f.bias + 1 ≤ f.bias + 1) := by
  decide +kernel
/-- Is a value finite, of the sign, and does its exponent pass the test; is it the infinity of the sign. -/
def finLike (x : Machine.Num) (neg : Bool) (p : Nat → Int → Bool) : Bool := match x with | .fin n m e _ => n == neg && p m e | _ => false
def infLike (x : Machine.Num) (neg : Bool) : Bool := match x with | .inf n => n == neg | _ => false
/-- R76 to R81, R128 to R136, R160: values under each hypothesis of the statements about products, quotients, compares, integers, scales. -/
theorem witness_FloatValues :
    (∀ f ∈ [fmtF16, fmtBF16, fmtF32, fmtF64],
      f.infCode true < 2 ^ f.width ∧ infLike (f.decode (f.infCode false)) false = true ∧ infLike (f.decode (f.infCode true)) true = true ∧
      (f.decode (f.infCode false + 1)).isSig = true ∧ (f.decode f.nanCode).isNan = true ∧ finLike (f.decode 0) false (fun m _ => m == 0) = true ∧
      finLike (f.decode 1) false (fun m e => m != 0 && decide (e < 0)) = true ∧
      finLike (f.decode f.maxMag) false (fun m e => m != 0 && decide (0 ≤ e ∨ f.width = 16)) = true) ∧
    finLike (fmtF32.decode 0x7F000000) false (fun m e => m != 0 && decide (13 ≤ e)) = true ∧
    finLike (fmtF32.decode 0x80000001) true (fun m e => m != 0 && decide (e + 23 < -81)) = true ∧
    ((Machine.Num.nan true).mul (.nan false)).2 = flNV ∧ ((Machine.Num.inf true).mul (.fin false 0 0 false)).1.isNan = true ∧
    (127 < 128 ∧ (128 : Nat) ≤ 255 ∧ (0 : Nat) < 1) := by
  decide +kernel
theorem witness_SpecialValues : ∀ f ∈ [fmtF16, fmtBF16, fmtF32, fmtF64],
    f.decode f.nanCode = .nan false ∧ ∃ m e st, f.decode (f.signBit true + 1) = .fin true m e st ∧ m ≠ 0 := by
  intro f hf
  have h : ∀ f ∈ [fmtF16, fmtBF16, fmtF32, fmtF64], f.decode f.nanCode = .nan false ∧
      (match f.decode (f.signBit true + 1) with | .fin true m _ _ => m != 0 | _ => false) = true := by decide +kernel
  obtain ⟨h1, h2⟩ := h f hf
  refine ⟨h1, ?_⟩
  split at h2
  · rename_i m e st he
    exact ⟨m, e, st, he, by simpa using h2⟩
  · cases h2
theorem witness_RunningValues :
    (∀ v ∈ [3, 2 ^ f1.w - 1], v < 2 ^ f1.w) ∧ (8 : Nat) ≤ f1.type.toNat ∧ ({ f1 with type := 4 } : VFmt).type.toNat < 8 ∧
    (fmtF32.decode 0x7F800001).isSig = true := by decide +kernel

theorem witness_LaneMoves : demoX.nthr ≤ 32 ∧ Meets [.xget lane, .xget { lane with src := .regs 3 0 32 0 }, .xput lane, .xbcast lane,
    .xbcast { lane with subop := 1 }] := ⟨by decide, meets _ (by decide +kernel)⟩
theorem witness_ScansAndFindFirst : Meets [.xscan f1, .xscan { f1 with src := .regs 0 0 1 0 }, .xred f1, .xred { f1 with src := .regs 0 0 1 0 },
    .xffs { v1 with type := 7, type2 := 7, selA := 0 }, .xffs { v1 with type := 7, type2 := 7, selA := 0, src := .regs 0 0 1 0 }] := by
  refine meets _ ?_; decide +kernel

/-! #### Control -/

/-- A backward step in units, and a group whose threads stand at unit 2. -/
def demoX2 : Group := { demoX with threads := List.replicate 2 (Thread.mk 2 .runnable) }

theorem witness_DirectBranches :
    Meets [.bra two, .bru { two with g := uni, cond := 1, sx := 1 }] ∧
    (maskOf (demoX.enabledSet each 3 0) ≠ 0 ∧ LegalTarget (demo (.bra { two with off := 0 })) 0 0) ∧
    ((0 : Int) + (BitVec.toInt (0xFFFFFFFF : BitVec 32)) < 0 ∧ maskOf (demoX.enabledSet { each with neg := true } 3 0) = 0) := by
  refine ⟨meets _ (by decide +kernel), ⟨by decide +kernel, ?_⟩, by decide +kernel⟩
  unfold LegalTarget; decide +kernel

/-- A table of two entries at 0x3000, whose entries and default lead to unit 0; V3 is the least index past it in thread 1. -/
def brxState : State := ((((demoBase.setNum 0x2000 4 0x1000).setNum 0x3000 4 2).setNum 0x3004 4 0).setNum 0x3008 4 0).setNum 0x300C 4 0
def brxX : Group := { demoX with v := [(32, 0), (33, 0xFFFFFFFFFFFFFFFF)] }
def brx1 : BFmt := { two with off := 0, vx := 1 }

theorem witness_TableBranch :
    let s := demoWith brxState brxX (.brx brx1)
    Issued s (demoK (.brx brx1)) 0 brxX (.brx brx1) ∧ s.launch? brxX.launch = some demoLaunch ∧
    brxX.enabledSet each 3 0 = [0, 1] ∧ brx1.tbl.toNat < demoLaunch.ntab ∧ s.cstFault 0 0 0x2000 4 = none ∧
    s.cstFault 0 0 0x3000 4 = none ∧ s.cstNum 0 0 0x3000 4 = 2 ∧
    (∀ t ∈ [0, 1], ((brxX.rv t 1).toNat < 2 ∨ (brxX.rv t 1).toNat = 2 ^ 64 - 1) ∧
      s.cstFault 0 0 (if (brxX.rv t 1).toNat = 2 ^ 64 - 1 then 0x3004 else 0x3008) 4 = none) ∧
    LegalTarget s 0 0 := by
  refine ⟨issued_with _ _ _, rfl, by decide +kernel, by decide, by decide +kernel, by decide +kernel, by decide +kernel,
    by decide +kernel, ?_⟩
  unfold LegalTarget; decide +kernel
theorem witness_TableBranch_range : demoLaunch.ntab ≤ ({ brx1 with tbl := 1 } : BFmt).tbl.toNat := by decide

theorem witness_CallAndReturn :
    Issued (demo (.call two)) (demoK (.call two)) 0 demoX (.call two) ∧ LegalTarget (demo (.call { two with off := 0 })) 0 0 ∧
    (demoX.rv 0 9).toNat < 5 * 2 ^ 50 ∧ 5 * 2 ^ 50 = (demoX.rv 1 9).toNat := by
  refine ⟨issued_demo _, ?_, by decide +kernel, by decide +kernel⟩
  unfold LegalTarget; decide +kernel

/-- Thread 1 parked at CONV of unit 0 with the mask of both threads; retired; standing elsewhere. -/
def convX : Group := { demoX with threads := [Thread.mk 0 .runnable, Thread.mk 1 (.conv 0 3)] }
def goneX : Group := { demoX with threads := [Thread.mk 0 .runnable, Thread.mk 1 .retired] }
def conv3 : SFmt := SFmt.mk each 0 0 0 3 0 0 false false 0 0

theorem witness_ConvParksAndReleases :
    convX.nthr ≤ 32 ∧ Issued (demoWith demoBase convX (.conv conv3)) (demoK (.conv conv3)) 0 convX (.conv conv3) ∧
    (convX.thread 1).st = .conv 0 3 ∧ (demoX.thread 1).st = .runnable := ⟨by decide, issued_with _ _ _, rfl, rfl⟩

/-- The block under a request; every thread but one retired. -/
def askedBase : State := { demoBase with blocks := [(0, { loadBlock false 0 with pre := some (PreReq.mk 100 [] false false 1 []) })] }

theorem witness_YieldExitSafe :
    Meets [.yield v0, .exit v0, .safe v0] ∧ (demo (.yield v0)).isGarnet demoX = false ∧
    (∃ b, (demoWith askedBase demoX (.safe v0)).block? 0 = some b ∧ b.pre.isSome = true) ∧ demoX.count .cp = 0 ∧
    (([0, 1] : List Nat).all (fun q => (convX.thread q).st == .runnable || (convX.thread q).st == .conv 0 3)) = true ∧
    (∀ q < goneX.nthr, decide (q ∈ goneX.enabledSet each 3 0) = true ∨ (goneX.thread q).st = .retired) :=
  ⟨meets _ (by decide +kernel), by decide +kernel, ⟨_, rfl, by decide⟩, by decide, by decide +kernel, by decide +kernel⟩

/-- A second group of the set that has not arrived keeps the phase open. -/
def openBase : State := { demoBase with launches := [(0, { demoLaunch with sets := [(8, SetDef.mk [(0, 1)] [])] })] }
def heldBase : State := { demoBase with blocks := [(0, { loadBlock false 0 with sets := [(8, SetState.mk 0 [0])] })] }

theorem witness_Barriers :
    Meets [.bar set8, .bara set8, .barw set8] ∧ (demo (.bar set8)).block? 0 = some (loadBlock false 0) ∧
    (loadBlock false 0).launch = demoX.launch ∧ demoX.nthr ≤ 32 ∧ (∀ t < demoX.nthr, (demoX.thread t).st ≠ .retired) ∧
    (∃ t < demoX.nthr, ¬ ((1 : Mask).getLsbD t = true ∨ (demoX.thread t).st = .barrier 0 ∨ (demoX.thread t).st = .retired)) ∧
    (∀ t < demoX.nthr, (3 : Mask).getLsbD t = true) ∧ ((demo (.bar set8)).setDef 0 8).hasGroup 0 = true ∧
    ((demo (.bar set8)).setState 0 8).arrived.contains 0 = false ∧
    ((demoWith heldBase demoX (.barw set8)).setState 0 8).arrived.contains 0 = true ∧
    1 ∈ ((demoWith openBase demoX (.bar set8)).setDef 0 8).members :=
  ⟨meets _ (by decide +kernel), rfl, rfl, by decide, by decide +kernel, by decide +kernel, by decide, by decide +kernel,
    by decide +kernel, by decide +kernel, by decide +kernel⟩

theorem witness_NopTrapBkpt :
    Meets [.nop v0, .trap { set8 with g := each }, .bkpt { set8 with g := each }] ∧ demoX.enabledSet each 3 0 = [0, 1] ∧
    (match (demo (.bkpt set8)).launch? demoX.launch with | some l => l.bken | none => false) = true ∧
    (demo (.bkpt set8)).ctx? ((demo (.bkpt set8)).ctxOf demoX.launch) = some loadCtx :=
  ⟨meets _ (by decide +kernel), by decide +kernel, by decide +kernel, by decide +kernel⟩

theorem witness_SystemRegisters :
    Meets [.getsr { v0 with src := .imm 0 }, .getsr { v0 with src := .imm 16, g := uni }, .getsr v0, .setsr { v0 with g := uni, d := 10 },
      .setsr { v0 with g := uni, d := 16 }, .setsr { v0 with g := uni, d := 15 }] ∧
    (demo (.getsr v0)).launch? demoX.launch = some demoLaunch ∧ (demo (.getsr v0)).block? demoX.block = some (loadBlock false 0) ∧
    0x10 < ({ demoX with s := [(0, 17)] } : Group).rs 0 ∧ demoX.enabled uni (leader 3) 0 = true ∧
    demoX.enabled { uni with neg := true } (leader 3) 0 = false :=
  ⟨meets _ (by decide +kernel), rfl, rfl, by decide, by decide, by decide⟩

/-! ### Results calculated by hand from the rules -/

/-- Thread 0's V64 and the group's FLAGS after one instruction with V1 = `a` and V2 = `b` in both threads; V64 was zero. -/
def after (i : Instr) (a b : Word) : Option (Nat × Nat) :=
  match exec i (demoWith demoBase { demoX with v := [(32, a), (33, a), (64, b), (65, b)] } i) with
  | .next t => (t.group? 0).map (fun y => ((y.rv 0 64).toNat, y.flags.toNat))
  | _ => none
def ofType (t : BitVec 4) : VFmt := { v32 with type := t, type2 := t }
def f1t : VFmt := { f1 with type := 10, type2 := 10 }

/-- R59, R111: two elements of 32 bits, each modulo 2^32; no carry between them. -/
theorem test_vadd_wraps : after (.vadd (ofType 6)) 0x00000001FFFFFFFF 0x0000000200000002 = some (0x0000000300000001, 0) := by decide +kernel
/-- R59: 127 + 1 in `.s8` with `.sat` stays 127. -/
theorem test_vadd_saturates : after (.vadd { ofType 0 with sat := true }) 0x7F 0x01 = some (0x7F, 0) := by decide +kernel
/-- R59: by zero, the quotient is 0 and the remainder the dividend. -/
theorem test_vdiv_zero : after (.vdiv (ofType 6)) 0x0000000700000009 0 = some (0, 0) := by decide +kernel
theorem test_vrem_zero : after (.vrem (ofType 6)) 0x0000000700000009 0 = some (0x0000000700000009, 0) := by decide +kernel
/-- R59: −7 ÷ 2 is −3, remainder −1. -/
theorem test_vdiv_truncates : after (.vdiv (ofType 3)) (0xFFFFFFFFFFFFFFF9) 2 = some (0xFFFFFFFFFFFFFFFD, 0) := by decide +kernel
theorem test_vrem_sign : after (.vrem (ofType 3)) (0xFFFFFFFFFFFFFFF9) 2 = some (0xFFFFFFFFFFFFFFFF, 0) := by decide +kernel
/-- R59: a shift count of 33 in 32 bits is 1. -/
theorem test_vshl_count : after (.vshl (ofType 6)) 0x40000003 33 = some (0x80000006, 0) := by decide +kernel
/-- R112: the high half of −1 × 1 is −1, and of 0xFFFFFFFF × 1 is 0. -/
theorem test_vmulh_signed : after (.vmulh (ofType 2)) 0xFFFFFFFF 1 = some (0xFFFFFFFF, 0) := by decide +kernel
theorem test_vmulh_natural : after (.vmulh (ofType 6)) 0xFFFFFFFF 1 = some (0, 0) := by decide +kernel
/-- R113: the leading zeros of 0 in 16 bits are 16, of 1 are 15. -/
theorem test_vclz_zero : after (.vclz { v1 with type := 5, type2 := 5 }) 0x0001 0 = some (0x001000100010000F, 0) := by decide +kernel
/-- R117: 4 bits from bit 4 of 0xF0 are −1 in a signed type. -/
theorem test_vbfx_extends : after (.vbfx (ofType 3)) 0xF0 0x0404 = some (0xFFFFFFFFFFFFFFFF, 0) := by decide +kernel
/-- R64, R67: 1 + 2^−24 in `.f32` is a tie and rounds to even, with NX; under `.rp` it rounds up. -/
theorem test_fadd_tie : after (.fadd f32) 0x3F800000 0x33800000 = some (0x3F800000, 16) := by decide +kernel
theorem test_fadd_up : after (.fadd { f32 with rm := 2 }) 0x3F800000 0x33800000 = some (0x3F800001, 16) := by decide +kernel
/-- R65, R67: the largest finite number doubled is ∞, with OF and NX; the other elements are 0 × 0. -/
theorem test_fmul_overflow : after (.fmul f32) 0x7F7FFFFF 0x40000000 = some (0x7F800000, 20) := by decide +kernel
/-- R66, R79: 1 ÷ −0 is −∞ with DZ; the upper elements are 1 ÷ 1. -/
theorem test_fdiv_zero : after (.fdiv f32) 0x3F8000003F800000 0x3F80000080000000 = some (0x3F800000FF800000, 2) := by decide +kernel
/-- R77: the minimum of +0 and −0 is −0. -/
theorem test_fmin_zeros : after (.fmin f32) 0 0x80000000 = some (0x80000000, 0) := by decide +kernel
/-- R79: the square root of −1 is the canonical NaN, with NV. -/
theorem test_fsqrt_negative : after (.fsqrt f1t) 0xBF800000 0 = some (0x7FC00000, 1) := by decide +kernel
/-- R76: −1 as a natural integer is 0, with NV. -/
theorem test_fcvti_clamps : after (.fcvti { f1t with type := 6 }) 0xBF800000 0 = some (0, 1) := by decide +kernel

/-! #### Memory -/

/-- A second page of 1 GiB, not resident. -/
def memBase : State := demoBase.setNum 0x12008 8 (0x40000000 + 0x1B)
/-- Pages of 64 KiB from 0x40000000 on: ordinary, not resident, shared with the device or the host as owner, stamped, settled. -/
def pages (s : State) : State :=
  ([(0x12008, 0x13001), (0x13000, 0x14001), (0x14000, 0x20001F), (0x14008, 0x21001B), (0x14010, 0x22005F), (0x14018, 0x2300DF),
    (0x14020, 0x24003F), (0x14028, 0x25011F)] : List (Nat × Nat)).foldl (fun s p => s.setNum p.1 8 p.2) s
/-- P1 enables thread 0 only; V1 holds addresses of the scratchpad's first line. -/
def spX : Group := { demoX with v := [(32, 0x40), (33, 0x48)], p := [(32, 0xFF)] }
/-- V1 of thread 1 lies in the page that is not resident. -/
def farX : Group := { demoX with v := [(32, 0x4000), (33, 0x40000000)] }
/-- V1 holds the indexes 1 and 2. -/
def idxX : Group := { demoX with v := [(32, 1), (33, 2), (64, 5), (65, 6)] }
def only0 : Guard := Guard.mk false 1 false
def never : Guard := Guard.mk true 15 false
def probe : MFmt := { m64 with fp := 1 }
def mem (x : Group) (i : Instr) : State := demoWith memBase x i

theorem admitted_of (s : State) (x : Group) (f : MFmt) (c : Cls) (es : List (Nat × Nat)) (fails : List Failure)
    (h : (es != [] && decide (x.count c < 63) && f.order != 4 && (f.path != 3 || (s.switchingFor x (mBytes f) es).isNone) && fails.isEmpty) = true) :
    Admitted s x f c es fails := by
  simp only [Bool.and_eq_true, bne_iff_ne, ne_eq, decide_eq_true_eq, Bool.or_eq_true, Option.isNone_iff_eq_none,
    List.isEmpty_iff] at h
  exact ⟨h.1.1.1.1, h.1.1.1.2, fun ho => absurd ho h.1.1.2, fun hp => h.1.2.resolve_left (fun hn => hn hp), h.2⟩

theorem witness_GlobalLoads :
    Meets [.ld m64, .ldc { m64 with path := 1 }, .sld u64, .ldp probe] ∧ demoX.elems { m64 with g := never } 3 (demoX.ea m64) = [] ∧
    Admitted (mem demoX (.ld m64)) demoX m64 .ld (demoX.elems m64 3 (demoX.ea m64))
      ((mem demoX (.ld m64)).elemFailures demoX m64 .read none (demoX.elems m64 3 (demoX.ea m64))) ∧
    Admitted (mem demoX (.sld u64)) demoX u64 .ld (demoX.elems u64 3 (demoX.ea u64))
      ((mem demoX (.sld u64)).elemFailures demoX u64 .read none (demoX.elems u64 3 (demoX.ea u64))) ∧
    Admitted (mem farX (.ldp probe)) farX probe .ld (farX.elems probe 3 (farX.ea probe))
      ((mem farX (.ldp probe)).elemFailures farX probe .probe none (farX.elems probe 3 (farX.ea probe))) ∧
    (mem farX (.ldp probe)).residentSpan 0 (farX.ea probe 0) 8 = true ∧ (mem farX (.ldp probe)).residentSpan 0 (farX.ea probe 1) 8 = false :=
  ⟨meets _ (by decide +kernel), by decide +kernel, admitted_of _ _ _ _ _ _ (by decide +kernel),
    admitted_of _ _ _ _ _ _ (by decide +kernel), admitted_of _ _ _ _ _ _ (by decide +kernel), by decide +kernel, by decide +kernel⟩

def sp64 : MFmt := { m64 with path := 3 }
def sp0 : MFmt := { sp64 with g := only0 }

theorem witness_ScratchpadLoads :
    Meets [.ld sp64, .sld { u64 with path := 3 }, .gath { g64 with path := 3 }] ∧
    Admitted (mem spX (.ld sp0)) spX sp0 .ld (spX.elems sp0 3 (spX.ea sp0))
      ((mem spX (.ld sp0)).elemFailures spX sp0 .read none (spX.elems sp0 3 (spX.ea sp0))) ∧
    spX.elems sp0 3 (spX.ea sp0) = [(0, 0x48)] ∧ spX.ops = [] ∧ 0x48 % 128 + mBytes sp0 ≤ 128 ∧
    (mem spX (.ld sp0)).isFull (spDecode 0 0x48).1 ((spDecode 0 0x48).2 / 128) = true ∧
    (mem spX (.ld sp0)).waitersOn (spDecode 0 0x48).1 ((spDecode 0 0x48).2 / 128) = [] :=
  ⟨meets _ (by decide +kernel), admitted_of _ _ _ _ _ _ (by decide +kernel), by decide +kernel, rfl, by decide +kernel,
    by decide +kernel, by decide +kernel⟩

theorem witness_GlobalStores :
    Meets [.st m64, .sst u64] ∧ demoX.elems { m64 with g := never } 3 (demoX.ea m64) = [] ∧
    Admitted (mem demoX (.st m64)) demoX m64 .st (demoX.elems m64 3 (demoX.ea m64))
      ((mem demoX (.st m64)).elemFailures demoX m64 .write (some false) (demoX.elems m64 3 (demoX.ea m64))) ∧
    (demoX.elems u64 3 (demoX.ea u64) = [(0, 0x4008)] ∧ 0x4008 % 65536 + mBytes u64 ≤ 65536 ∧
      (mem demoX (.sst u64)).pa? ((mem demoX (.sst u64)).ctxOf demoX.launch) 0x4008 = some 0x4008) :=
  ⟨meets _ (by decide +kernel), by decide +kernel, admitted_of _ _ _ _ _ _ (by decide +kernel), by decide +kernel⟩

/-- The two threads meet at byte 0x48. -/
def meetX : Group := { spX with v := [(32, 0x44), (33, 0x40)] }

theorem witness_ScratchpadStores :
    Meets [.st sp64, .st { sp64 with subop := 1 }, .sst { u64 with path := 3 }, .scat { g64 with path := 3, subop := 15 }] ∧
    Admitted (mem meetX (.st sp64)) meetX sp64 .st (meetX.elems sp64 3 (meetX.ea sp64))
      ((mem meetX (.st sp64)).elemFailures meetX sp64 .write (some false) (meetX.elems sp64 3 (meetX.ea sp64))) ∧
    meetX.elems sp64 3 (meetX.ea sp64) = [(0, 0x4C), (1, 0x48)] ∧
    (∀ e2 ∈ meetX.elems sp64 3 (meetX.ea sp64), 1 < e2.1 → ∀ j2 < 8, spDecode 0 (e2.2 + j2) ≠ spDecode 0 (0x48 + 7)) :=
  ⟨meets _ (by decide +kernel), admitted_of _ _ _ _ _ _ (by decide +kernel), by decide +kernel, by decide +kernel⟩

def add64 : MFmt := { g64 with subop := 0 }
def cas64 : MFmt := { m64 with subop := 7, ext := 1 }

theorem witness_GatherScatterAtomicIssue :
    Meets [.gath g64, .scat { g64 with subop := 15 }, .scat add64, .atom { m64 with ext := 1 }, .atom cas64, .amaxr m64] ∧
    (let es := idxX.elems g64 3 (idxX.gatherEa g64)
     Admitted (mem idxX (.gath g64)) idxX g64 .ld es ((mem idxX (.gath g64)).elemFailures idxX g64 .read none es) ∧
     Admitted (mem idxX (.scat { g64 with subop := 15 })) idxX { g64 with subop := 15 } .st es
       ((mem idxX (.scat { g64 with subop := 15 })).elemFailures idxX { g64 with subop := 15 } .write (some false) es)) ∧
    (let es := idxX.elems add64 3 (fun t => idxX.gatherEa add64 t / 8 * 8)
     Admitted (mem idxX (.scat add64)) idxX add64 .st es ((mem idxX (.scat add64)).rmwFailures idxX add64 es)) ∧
    (let es := demoX.elems cas64 3 (fun t => demoX.ea cas64 t / 8 * 8)
     Admitted (mem demoX (.atom cas64)) demoX cas64 .ld es ((mem demoX (.atom cas64)).rmwFailures demoX cas64 es)) ∧
    (let es := demoX.elems m64 3 (fun t => demoX.ea m64 t / 8 * 8)
     Admitted (mem demoX (.atom m64)) demoX m64 .st es ((mem demoX (.atom m64)).rmwFailures demoX m64 es) ∧
     Admitted (mem demoX (.amaxr m64)) demoX m64 .ld es ((mem demoX (.amaxr m64)).rmwFailures demoX m64 es)) :=
  ⟨meets _ (by decide +kernel), ⟨admitted_of _ _ _ _ _ _ (by decide +kernel), admitted_of _ _ _ _ _ _ (by decide +kernel)⟩,
    admitted_of _ _ _ _ _ _ (by decide +kernel), admitted_of _ _ _ _ _ _ (by decide +kernel),
    admitted_of _ _ _ _ _ _ (by decide +kernel), admitted_of _ _ _ _ _ _ (by decide +kernel)⟩

/-- Index 0 in thread 1 leads from S1 to the page that is not resident. -/
def farIdxX : Group := { demoX with v := [(32, 0), (33, 0x3FFFC000)] }
def gprobe : MFmt := { g64 with fp := 1 }

theorem witness_ProbingGather :
    (Instr.gathp gprobe).wf = true ∧ Issued (mem farIdxX (.gathp gprobe)) (demoK (.gathp gprobe)) 0 farIdxX (.gathp gprobe) ∧
    (let es := farIdxX.elems gprobe 3 (farIdxX.gatherEa gprobe)
     Admitted (mem farIdxX (.gathp gprobe)) farIdxX gprobe .ld es ((mem farIdxX (.gathp gprobe)).elemFailures farIdxX gprobe .probe none es) ∧
     es.map (fun e => (mem farIdxX (.gathp gprobe)).residentSpan 0 e.2 8) = [true, false]) :=
  ⟨by decide, issued_with _ _ _, admitted_of _ _ _ _ _ _ (by decide +kernel), by decide +kernel⟩

/-- An older store on .gen, not yet retired; a class that an engine has failed in. -/
def oldStore : Op := Op.mk 0 (.st m64) .st 3 [] [] [] .idle [] [] [] true none 0 0
def busyX : Group := { demoX with ops := [oldStore], nextOp := 1 }
def failedX : Group := { demoX with failed := [(.ld, 0x4000)] }
def fence1 : MFmt := { m0 with order := 1 }
def pfence1 : MFmt := { m0 with ext := 1 }
def wait0 : SFmt := SFmt.mk uni 0 0 0 0 0 0 false false 0 0

theorem witness_FencesAndWait :
    Meets [.fence fence1, .pfence pfence1, .pfence { m0 with ext := 2 }, .wait wait0] ∧
    (∀ i, Issued (demoWith demoBase busyX i) (demoK i) 0 busyX i) ∧ (∀ i, Issued (demoWith demoBase failedX i) (demoK i) 0 failedX i) ∧
    demoX.enabledSet each 3 0 ≠ [] ∧ demoX.enabledSet never 3 0 = [] ∧ demoX.count .ld = 0 ∧ demoX.count .st = 0 ∧
    busyX.count .st ≠ 0 ∧ (∃ o ∈ busyX.ops, o.cls = .st ∧ o.mask &&& 3 ≠ 0 ∧ (memFmt? o.instr).map (·.path) = some pfence1.path) ∧
    demoX.count .st ≤ wait0.imm.toNat / 64 % 64 ∧ ¬ busyX.count .st ≤ wait0.imm.toNat / 64 % 64 ∧
    failedX.failed = [] ++ (.ld, 0x4000) :: [] ∧ wait0.imm.toNat % 64 < 63 :=
  ⟨meets _ (by decide +kernel), fun i => issued_with _ _ i, fun i => issued_with _ _ i, by decide, by decide, by decide, by decide,
    by decide, ⟨oldStore, by decide +kernel, by decide, by decide, by decide⟩, by decide, by decide, by decide, by decide⟩

/-- A group with one operation outstanding, and the machine with that group. -/
def opG (x : Group) (o : Op) : Group := { x with ops := [o], nextOp := 1 }
def op0 (i : Instr) (c : Cls) (w : Work) : Op := Op.mk 0 i c 3 [] [] [] w [] [] [] false none 0 0
def stateOf (s : State) (x : Group) : State := { s with groups := [(0, x)] }
def onOp (s : State) (o : Op) : State := stateOf s (opG demoX o)

/-- Bank 1 as a FIFO with `n` records. -/
def fifoBase (n : Nat) : State := { demoBase with cores := [(0, { demoCore with
  banks := [(0, Bank.fresh .scratch (some 0)), (1, Bank.mk .fifo (some 0) (List.replicate n (some (List.replicate 32 7))) 0 [] false false)] })] }
def q1 : EFmt := { t0 with imm := 1, vx := 1 }
def qTry : EFmt := { q1 with ext := 1, pf := 1 }
/-- Its first word cannot be corrected. -/
def badFifo : State := { fifoBase 1 with cores := (fifoBase 1).cores.map (fun p => (p.1, { p.2 with bad := [.sram 2048] })) }

theorem witness_FifoPushPop :
    Meets [.qpush q1, .qpop q1, .qpush qTry, .qpop qTry] ∧ demoX.enabledSet q1.g 3 0 = [0, 1] ∧ demoX.enabledSet never 3 0 = [] ∧
    ([0, 1, 2, 511, 512].all (fun n => let b := ((fifoBase n).core demoX.core).bank 1
      b.mode == .fifo && !b.switching && b.slots.length == n && (b.slots.takeWhile (·.isSome)).length == n &&
        b.line.isEmpty && (List.range 2).all (fun j => !(fifoBase n).badRecord 0 1 j))) = true ∧
    (mem demoX (.qpop { q1 with imm := 0 })).issue.isSome = true ∧ ((demoBase.core 0).bank 0).mode ≠ .fifo ∧
    ((badFifo.core 0).bank 1).mode = .fifo ∧ badFifo.badRecord 0 1 0 = true ∧ 0 < min 2 ((badFifo.core 0).bank 1).slots.length ∧
    ((demoBase.core 0).bank 0).switching = false ∧ ((badFifo.core 0).bank 1).switching = false :=
  ⟨meets _ (by decide +kernel), by decide +kernel, by decide +kernel, by decide +kernel, by decide +kernel, by decide +kernel,
    by decide +kernel, by decide +kernel, by decide, by decide +kernel, by decide +kernel⟩

/-- The first two lines of bank 0 mapped to 0x4000 in slot 0; the first dirty, the second empty. -/
def mapped : MapSlot := MapSlot.mk 0 0x4000 0x100 0
def mapBase : State := { memBase with cores := [(0, { demoCore with maps := [(0, some mapped)], full := [(0, true)], mask := [(0, 1)] })] }
/-- S1 = 0x100 in the scratchpad, S2 = 0x5000 in memory, S3 = 0x80 bytes, S4 = 0. -/
def mapX : Group := { demoX with v := [(32, 0x40), (33, 0x48)], s := [(1, 0x100), (2, 0x5000), (3, 0x80)] }
def map1 : EFmt := { e0 with sa := 1, sb := 2, sc := 3 }
def emp : MFmt := { m0 with path := 3, addr := 1 }

theorem witness_MapsAndBanks :
    Meets [.spmap map1, .spmap { map1 with sc := 4 }, .spwb e0, .spempty emp, .bankcfg { e0 with imm := 0x40 }] ∧
    (∀ i, Issued (demoWith mapBase mapX i) (demoK i) 0 mapX i) ∧
    Uniform mapX uni 3 .cp (mapBase.mapFailures mapX 0 0x100 0x5000 0x80 ++ mapBase.slotFailures 0 0) ∧
    Uniform mapX uni 3 .cp (mapBase.mapFailures mapX 0 0x100 0x5000 0 ++ mapBase.slotFailures 0 0) ∧
    Admitted mapBase mapX emp .st (([0, 1] : List Nat).map (fun t => (t, mapX.ea emp t))) (([0, 1] : List Nat).map (fun t => (t, mapX.ea emp t)) |>.flatMap
      (fun e => mapBase.spFailures 0 0 e.2 1 (some e.1))) ∧
    ((mapBase.core 0).bank 0).switching = false ∧ ((mapBase.core 0).bank 0).holder = some mapX.block ∧
    Uniform mapX uni 3 .en (((mapBase.core 0).slotsOf 0).flatMap (fun j => mapBase.slotFailures 0 j)) :=
  ⟨meets _ (by decide +kernel), fun i => issued_with _ _ i, ⟨by decide, by decide, by decide +kernel⟩, ⟨by decide, by decide, by decide +kernel⟩,
    admitted_of _ _ _ _ _ _ (by decide +kernel), by decide +kernel, by decide +kernel, ⟨by decide, by decide, by decide +kernel⟩⟩

/-- The same with the first word of bank 0, which is dirty, gone bad. -/
def mapBad : State := { mapBase with cores := mapBase.cores.map (fun p => (p.1, { p.2 with bad := [.sram 0] })) }
theorem witness_MapsAndBanks_errors :
    (mapBase.unmapSlots 0 [0]).2 = true ∧ (mapBase.writeLines 0 mapped mapped.lines).2 = true ∧ mapBase.badSlots 0 [0] = none ∧
    (mapBad.unmapSlots 0 [0]).2 = false ∧ (mapBad.writeLines 0 mapped mapped.lines).2 = false ∧ mapBad.badSlots 0 [0] = some 0x4000 ∧
    Uniform mapX uni 3 .cp (mapBad.mapFailures mapX 0 0x100 0x5000 0x80 ++ mapBad.slotFailures 0 0) ∧
    Uniform mapX uni 3 .cp (mapBad.slotFailures 0 0) :=
  ⟨by decide +kernel, by decide +kernel, by decide +kernel, by decide +kernel, by decide +kernel, by decide +kernel,
    ⟨by decide, by decide, by decide +kernel⟩, ⟨by decide, by decide, by decide +kernel⟩⟩

theorem witness_OperationRetires :
    let o := op0 (.ld m64) .ld .idle
    (∀ p ∈ [{ o with done := true }, { o with done := true, failed := some 0x4000 }, { o with instr := .vacq e0, work := .result 5 }, o],
      (onOp demoBase p).opAt? (OpRef.mk 0 0) = some (opG demoX p, p) ∧ (opG demoX p).ops.find? (fun q => q.cls == p.cls) = some p ∧
      p.id = 0 ∧ (opG demoX p).status ≠ .ended) ∧
    enFmt? (.vacq e0) = some e0 ∧ Work.idle ≠ Work.result 5 := by
  refine ⟨?_, rfl, by decide⟩; decide +kernel

/-- Thread 1 waits to push, or to pop; a bank being switched to a FIFO. -/
def serving (i : Instr) : Group := { demoX with cont := some (.fifo (demoK i) [1]), wait := some .serving }
/-- A load of thread 0 waits on the second line. -/
def touchOp : Op := op0 (.ld sp0) .ld (.spLoad false [SpReq.mk 0 0 1 0 8 0])
def touched (x : Group) : State := { stateOf mapBase x with cores := mapBase.cores.map (fun p => (p.1, { p.2 with stalled := [OpRef.mk 0 0] })) }
def bankOp : Op := op0 (.bankcfg { e0 with imm := 0x40 }) .en (.bank 0 2)

theorem witness_CoreSteps :
    ((stateOf (fifoBase 511) (serving (.qpush q1))).group? 0 = some (serving (.qpush q1)) ∧
      (stateOf (fifoBase 511) (serving (.qpush q1))).mayPush 0 1 (.group 0) = true) ∧
    (((fifoBase 1).core demoX.core).bank 1).slots.head? = some (some (List.replicate 32 7)) ∧ (fifoBase 1).badRecord 0 1 0 = false ∧
    (let s := touched (opG spX touchOp)
     (s.core 0).mapOf 1 = some (0, mapped) ∧ s.isFull 0 1 = false ∧ s.waitersOn 0 1 = OpRef.mk 0 0 :: [] ∧
     (s.as 0 0).spanFailures 0 (mapped.va + 128) 128 .read none none = []) ∧
    mapBase.waitersOn 0 1 = [] ∧ mapBase.flightOn 0 1 = none ∧ mapBase.contextOn 0 1 = none ∧
    ((mapBase.core 0).mapOf 1 = some (0, mapped) ∧ mapBase.isFull 0 1 = false ∧
      mapBase.spanFailures (mapBase.ctxOf mapped.launch) (mapped.va + (1 * 128 - mapped.off)) 128 .read none none = []) ∧
    ((opG demoX bankOp).op? 0 = some bankOp ∧ bankOp.work = .bank 0 2 ∧ (onOp demoBase bankOp).bankBusy 0 0 = false) := by
  decide +kernel

/-- A load of thread 0 waits on a line that is mapped to the page that is not resident. -/
def farMapped : MapSlot := { mapped with va := 0x40000000 }
def farTouched : State := { stateOf memBase (opG spX touchOp) with
  cores := [(0, { demoCore with maps := [(0, some farMapped)], full := [(0, true)], stalled := [OpRef.mk 0 0] })] }

theorem witness_CoreSteps_stops :
    (let s := stateOf badFifo (serving (.qpop q1))
     s.group? 0 = some (serving (.qpop q1)) ∧ (serving (.qpop q1)).status = .ready ∧ ((s.core 0).bank 1).mode = .fifo ∧
     ((s.core 0).bank 1).slots ≠ [] ∧ s.badRecord 0 1 0 = true) ∧
    ((stateOf demoBase (serving (.qpush { q1 with imm := 0 }))).core 0).bank 0 = Bank.fresh .scratch (some 0) ∧
    (farTouched.waitersOn 0 1 = [OpRef.mk 0 0] ∧ (farTouched.core 0).mapOf 1 = some (0, farMapped) ∧ farTouched.isFull 0 1 = false ∧
     farTouched.opAt? (OpRef.mk 0 0) = some (opG spX touchOp, touchOp) ∧ (opG spX touchOp).status = .ready ∧
     (let l := (farTouched.as 0 0).spanFailures 0 (farMapped.va + 128) 128 .read none none
      l.map (·.order) = [3] ∧ (firstFailure l).isSome = true)) ∧
    ((mapBad.as 0 0).badSlots 0 ((mapBad.core 0).slotsOf 0) = some 0x4000 ∧ mapBad.bankBusy 0 0 = false ∧
     (demoBase.as 0 0).badSlots 0 ((demoBase.core 0).slotsOf 0) = none) := by
  decide +kernel

/-- The 128 bytes at 0x4000 are lost. -/
def lostBase : State := demoBase.setDie 0 { Die.reset with lost := [(0x4000, 128)] }
/-- Lanes of threads 0 and 1, and a batch that holds the operation. -/
def lane0 : Lane := Lane.mk 0 0x4000 5 5 none (0, 8)
def lane1 : Lane := Lane.mk 1 0x4008 5 5 none (0, 8)
def batchBase (clk : Nat) (o : Op) : State := { onOp demoBase o with
  clk := clk, cores := [(0, { demoCore with batch := some (Batch.mk 0 [(OpRef.mk 0 0, 1)] [0x80]) })] }

/-- What a check says, as a test that runs. -/
def leafHas (w : Walk) (p : Leaf → Bool) : Bool := match w with | .leaf l => p l | _ => false
theorem leafHas_iff (w : Walk) (p : Leaf → Bool) : leafHas w p = true ↔ ∃ l, w = .leaf l ∧ p l = true := by
  cases w <;> simp [leafHas]
def failsAt (s : State) (n : Nat) (k : Access) (stamped : Option Bool) (o a : Nat) : Bool :=
  let page (p : Nat → Leaf → Bool) : Bool := (pagePieces a n).any (fun q => leafHas (s.leafFor 0 q.1) (p q.1))
  (o == 1 && (canonical a && canonical (wrap64 (a + n - 1))) == false) || (o == 3 && (k != .probe && page (fun _ l => l.bit 2 == false))) ||
  (o == 4 && ((pagePieces a n).any (fun q => s.leafFor 0 q.1 == .unmapped || s.leafFor 0 q.1 == .malformed) ||
    (k == .write && page (fun _ l => l.bit 2 && l.bit 3 == false)))) ||
  (o == 5 && page (fun q l => l.bit 2 && (l.bit 6 && (l.bit 7 || s.releasing 0 q)))) ||
  (o == 6 && (match stamped with | some b => page (fun _ l => l.bit 2 && l.bit 5 == !b) | none => false))
theorem failsAt_iff (s : State) (n : Nat) (k : Access) (st : Option Bool) (o a : Nat) :
    failsAt s n k st o a = true ↔ CheckFails s 0 n k st o a := by
  cases st <;>
    simp only [failsAt, CheckFails, leafHas_iff, Bool.or_eq_true, Bool.and_eq_true, List.any_eq_true, beq_iff_eq, bne_iff_ne, ne_eq, or_assoc,
      reduceCtorEq, false_and, exists_false, and_false, Bool.false_eq_true, Option.some.injEq, exists_eq_left']

/-- Thread 1 at an address that is not canonical, not resident, not mapped, owned by the host, stamped. -/
def bad1 (a : Nat) : Group := { demoX with v := [(32, 0x4000), (33, BitVec.ofNat 64 (a - 8))] }
/-- The state and group of each check with the access that fails it. -/
def failing : List (Nat × Nat × Instr × Access × Option Bool) :=
  [(1, 2 ^ 60, .ld m64, .read, none), (3, 0x40010008, .ld m64, .read, none), (4, 0x80000000, .st m64, .write, some false),
   (5, 0x40030008, .ldp probe, .probe, none), (6, 0x40040008, .st m64, .write, some false)]

theorem witness_FailingChecks :
    (∀ q ∈ failing, q.2.2.1.wf = true ∧ Issued (demoWith (pages demoBase) (bad1 q.2.1) q.2.2.1) (demoK q.2.2.1) 0 (bad1 q.2.1) q.2.2.1 ∧
      (bad1 q.2.1).elems m64 3 ((bad1 q.2.1).ea m64) = [(0, 0x4008)] ++ (1, q.2.1) :: [] ∧ (bad1 q.2.1).count .ld < 63 ∧
      let s := demoWith (pages demoBase) (bad1 q.2.1) q.2.2.1
      CheckFails s (s.ctxOf 0) 8 q.2.2.2.1 q.2.2.2.2 q.1 q.2.1 ∧ ¬ CheckFails s (s.ctxOf 0) 8 q.2.2.2.1 q.2.2.2.2 q.1 0x4008 ∧
      ∀ o < q.1, ¬ CheckFails s (s.ctxOf 0) 8 q.2.2.2.1 q.2.2.2.2 o 0x4008 ∧ ¬ CheckFails s (s.ctxOf 0) 8 q.2.2.2.1 q.2.2.2.2 o q.2.1) ∧
    (let s := demoWith demoBase { spX with v := [(32, 0x40), (33, 0x4048)] } (.st sp64)
     s.spOk 0 0 (0x48 + 7) = true ∧ s.spOk 0 0 0x4050 = false ∧ s.switchingFor spX 8 [(0, 0x48), (1, 0x4050)] = none) := by
  have hc : ∀ q ∈ failing, let s := demoWith (pages demoBase) (bad1 q.2.1) q.2.2.1
      (q.2.2.1.wf && decide ((bad1 q.2.1).count .ld < 63) && (bad1 q.2.1).elems m64 3 ((bad1 q.2.1).ea m64) == [(0, 0x4008), (1, q.2.1)] && s.ctxOf 0 == 0 &&
        failsAt s 8 q.2.2.2.1 q.2.2.2.2 q.1 q.2.1 && !failsAt s 8 q.2.2.2.1 q.2.2.2.2 q.1 0x4008 &&
        (List.range q.1).all (fun o => !failsAt s 8 q.2.2.2.1 q.2.2.2.2 o 0x4008 && !failsAt s 8 q.2.2.2.1 q.2.2.2.2 o q.2.1)) = true := by
    decide +kernel
  refine ⟨fun q hq => ?_, by decide +kernel⟩
  have h := hc q hq
  simp only [Bool.and_eq_true, Bool.not_eq_true', beq_iff_eq, List.all_eq_true, List.mem_range, decide_eq_true_eq] at h
  obtain ⟨⟨⟨⟨⟨⟨hw, hk⟩, he⟩, h0⟩, hf⟩, hn⟩, hl⟩ := h
  refine ⟨hw, issued_with _ _ _, he, hk, ?_⟩
  simp only [h0, ← failsAt_iff]
  exact ⟨hf, by simp [hn], fun o ho => by simp [hl o ho]⟩

theorem witness_GatherAndAtomicSteps :
    (∀ o ∈ [op0 (.gath g64) .ld (.gather [lane1] [(0, lane0)]), op0 (.gath g64) .ld (.gather [] [(0, lane0), (0, lane1)]),
        op0 (.scat { g64 with subop := 15 }) .st (.gather [] [(0, lane0)]), op0 (.scat add64) .st (.gather [] [(0, lane0)]), op0 (.atom cas64) .st (.atoms [lane0, lane1]),
        op0 (.atom { m64 with path := 3, ext := 1 }) .st (.atoms [{ lane0 with addr := 0x40 }])],
      (onOp demoBase o).opAt? (OpRef.mk 0 0) = some (opG demoX o, o) ∧ (memFmt? o.instr).isSome = true) ∧
    (∀ c ∈ [31, 32], ((batchBase c (op0 (.gath g64) .ld (.gather [lane0] []))).core 0).batch.map (·.ops) = some ([] ++ (OpRef.mk 0 0, 1) :: []) ∧
      (batchBase c (op0 (.gath g64) .ld (.gather [lane0] []))).clk = c) ∧
    (let o := op0 (.gath g64) .ld (.gather [] [(0, lane0), (0, lane1)])
     (∀ e ∈ [lane0, lane1], ((onOp demoBase o).as 0 0).laneLost 0 e = false ∧ e.thread < 32 ∧ mOff g64 + e.part.1 + e.part.2 ≤ 8) ∧
     (∀ d ∈ (opG demoX o).ops, d.id ≠ 0 → False) ∧ lane0.thread ≠ lane1.thread) ∧
    (∀ o ∈ [op0 (.gath g64) .ld (.gather [] [(0, lane0)]), op0 (.atom cas64) .st (.atoms [lane0])],
      ((onOp lostBase o).as 0 0).laneLost 0 lane0 = true ∧ ((onOp demoBase o).as 0 0).laneLost 0 lane0 = false ∧
      ((onOp demoBase o).as 0 0).olderAtomic (opG demoX o) o cas64 lane0 = false) ∧
    (let s := onOp demoBase (op0 (.scat add64) .st (.gather [] [(0, lane0)]))
     (s.as 0 0).scatterBefore 0 (OpRef.mk 0 0) ((s.as 0 0).laneLine 0 lane0) = false ∧
     (s.as 0 0).olderAtomic (opG demoX (op0 (.scat add64) .st (.gather [] [(0, lane0)]))) (op0 (.scat add64) .st (.gather [] [(0, lane0)])) add64 lane0 = false) ∧
    (let s := onOp demoBase (op0 (.scat { g64 with subop := 15 }) .st (.gather [] [(0, lane0)]))
     s.scatterBefore 0 (OpRef.mk 0 0) ((s.as 0 0).laneLine 0 lane0) = false ∧
     [lane0].filter (fun e => (s.as 0 0).laneLine 0 e == (s.as 0 0).laneLine 0 lane0) = [lane0] ∧ (s.as 0 0).pa? 0 0x4000 = some 0x4000 ∧
     lane0.addr % 65536 + lane0.part.2 ≤ 65536 ∧ lane0.part.1 + lane0.part.2 ≤ mBytes g64 ∧ s.versions = []) ∧
    (∀ b ∈ ([[], [.sram 8]] : List (List CoreAt)), let s := { onOp demoBase (op0 (.atom { m64 with path := 3, ext := 1 }) .st (.atoms [{ lane0 with addr := 0x40 }])) with
      cores := [(0, { demoCore with bad := b })] }
     ((s.as 0 0).sramFailures 0 0x40 8 none).isEmpty = b.isEmpty) ∧
    returns (.atom cas64) cas64 = true ∧ returns (.atom { m64 with ext := 0 }) { m64 with ext := 0 } = false := by
  decide +kernel
theorem witness_AtomicOperators :
    typeWidth? m64.type = some 64 ∧ typeWidth? ({ m64 with type := 10 } : MFmt).type = some 32 ∧ lane0.half = none ∧
    (∀ o : BitVec 4, o.toNat ≤ 7 → ({ m64 with subop := o } : MFmt).subop = o) ∧ ({ lane0 with half := some 1 } : Lane).half = some 1 :=
  ⟨by decide, by decide, rfl, fun _ _ => rfl, rfl⟩

/-! #### Engines: fibres, deques, bounds, random words -/

/-- Two rows at 0x5000: pointers 0, 2, 1; columns at 0x6000, f32 values at 0x7000; S1 is the descriptor at 0x4000. -/
def fibBase : State := ((((((((memBase.setNum 0x4000 8 0x5000).setNum 0x4008 8 0x6000).setNum 0x4010 8 0x7000).setNum 0x4018 4 2).setNum
  0x401C 4 2).setNum 0x5008 8 2).setNum 0x5010 8 1).setNum 0x6000 4 7).setNum 0x7000 4 9
/-- Thread 0 takes row 0 and thread 1 row 1, whose end lies before its beginning; or row 2, past the last. -/
def fibX (r : Word) : Group := { demoX with v := [(33, r)], fibres := [(0, Fibre.mk 0 2 0x6000 0x7000 2)] }
def fbo : EFmt := { t0 with sa := 1, vx := 1 }
def fbn : EFmt := { t0 with vx := 2, pf := 1 }

theorem witness_Fibres :
    Meets [.fbopen fbo, .fbnext fbn, .fbend { t0 with pf := 1 }, .fbclose t0] ∧
    (∀ r i, Issued (demoWith fibBase (fibX r) i) (demoK i) 0 (fibX r) i) ∧
    (let l := fibBase.vread 0 0x4000 32
     fibBase.spanFailures 0 0x4000 32 .read none none = [] ∧ numAt l 0x1C 4 < 3 ∧ numAt l 0x18 4 = 2 ∧
     (∀ r < 2, fibBase.spanFailures 0 (wrap64 (numAt l 0 8 + 8 * r)) 16 .read none (some r) = []) ∧
     fibBase.vnum 0 0x5008 8 = 2 ∧ fibBase.vnum 0 0x5010 8 = 1 ∧ ([1, 2].map (fun r => ((fibX r).rv 1 1).toNat)) = [1, 2]) ∧
    ((fibX 0).fibre 0 0).cursor < ((fibX 0).fibre 0 0).fin ∧ ((fibX 0).fibre 1 0).cursor = ((fibX 0).fibre 1 0).fin ∧
    fibBase.spanFailures 0 0x6000 4 .read none (some 0) = [] ∧ fibBase.spanFailures 0 0x7000 4 .read none (some 0) = [] :=
  ⟨meets _ (by decide +kernel), fun _ i => issued_with _ _ i, by decide +kernel, by decide +kernel, by decide +kernel,
    by decide +kernel, by decide +kernel⟩

/-- A deque at 0x4000 with ring 0x5000 of two items, TOP `a` and BOT `b`. -/
def deqBase (a b : Nat) : State := (((memBase.setNum 0x4000 8 0x5000).setNum 0x4008 4 1).setNum 0x4010 8 a).setNum 0x4018 8 b
def dq : EFmt := { t0 with type := 7, sa := 1, vx := 1, pf := 1 }
def dqOp (i : Instr) : Op := { op0 i .en (.threads [0, 1]) with sargs := [0x4000], targs := [(0, 8), (1, 9)] }

theorem witness_Deques :
    Meets [.dqpush dq, .dqpop dq, .dqsteal dq] ∧ demoX.enabledSet dq.g 3 0 = [0, 1] ∧
    (∀ p ∈ [(0, 0), (1, 2), (1, 3)], let s := deqBase p.1 p.2
      s.updateFailures 0 0x4000 64 none = [] ∧ s.spanFailures 0 0x4000 64 .read none none = [] ∧ (deqOf (s.vread 0 0x4000 64)).ok = true ∧
      (∀ k ∈ [DqKind.push, .pop, .steal], s.itemFailures 0 k (deqOf (s.vread 0 0x4000 64)) [0, 1] = [] ∧
        atIssue (s.updateFailures 0 0x4000 64 none ++ s.descFailures 0 0x4000 64 (fun l => (deqOf l).ok)
          (fun l => s.itemFailures 0 k (deqOf l) [0, 1])) = [])) ∧
    (∀ i ∈ [Instr.dqpush dq, .dqpop dq, .dqsteal dq], let s := onOp (deqBase 1 2) (dqOp i)
      s.group? 0 = some (opG demoX (dqOp i)) ∧ (opG demoX (dqOp i)).op? 0 = some (dqOp i) ∧ s.spoiled 0 0x4000 64 = false) ∧
    (let s := deqBase 1 2
     let d := deqOf (s.vread 0 0x4000 64)
     d.bot - d.top < 2 ^ d.clog ∧ d.top < d.bot ∧ d.ring % 8 = 0 ∧ (s.as 0 0).badSpan 0 (d.item d.bot) 8 false = none ∧
     (∀ n ∈ [d.top, d.bot - 1], (s.as 0 0).spoiled 0 (d.item n) 8 = false) ∧
     (∀ n ∈ [d.top, d.bot - 1, d.bot], ∀ k ∈ ([(.read, none), (.write, some false)] : List (Access × Option Bool)),
       atIssue ((s.as 0 0).spanFailures 0 (d.item n) 8 k.1 k.2 none) = [])) ∧
    (let s := (deqBase 1 2).setNum 0x4000 8 0x40000000
     atIssue ((s.as 0 0).spanFailures 0 ((deqOf (s.vread 0 0x4000 64)).item 2) 8 .write (some false) none) ≠ [] ∧
     (dqOp (.dqpush dq)).leaves = []) ∧
    (let d := deqOf ((deqBase 5 5).vread 0 0x4000 64); d.bot ≤ d.top) ∧
    (let d := deqOf ((deqBase 1 3).vread 0 0x4000 64); 2 ^ d.clog ≤ d.bot - d.top) :=
  ⟨meets _ (by decide +kernel), by decide +kernel, by decide +kernel, by decide +kernel, by decide +kernel, by decide +kernel,
    by decide +kernel⟩

def bnd0 : EFmt := { t0 with type := 7, vx := 1 }

theorem witness_BoundRegisters :
    Meets [.bndup bnd0, .bndrd { t0 with vx := 2 }, .bndrd { e0 with sd := 3 }] ∧ demoX.enabledSet bnd0.g 3 0 ≠ [] ∧
    demoX.count .en < 63 ∧ (∀ w ∈ [false, true], let o := op0 (.bndup bnd0) .en (.bound w)
      (onOp demoBase o).group? 0 = some (opG demoX o) ∧ (opG demoX o).op? 0 = some o ∧ enFmt? o.instr = some bnd0) ∧
    (({ demoCore with bndQ := [(0, 7, OpRef.mk 0 0)] } : Core).bndQ = (0, 7, OpRef.mk 0 0) :: []) :=
  ⟨meets _ (by decide +kernel), by decide, by decide, by decide +kernel, rfl⟩

/-- Slot 5 of die 0; a replay header at 0x8000 with three words at 0x9000, CURSOR 2, wrapping. -/
def rngBase (y : RngSlot) : State := ((((memBase.setNum 0x8000 8 0x9000).setNum 0x8008 4 3).setNum 0x800C 4 2).setNum 0x8010 4 1).setDie 0
  { Die.reset with slots := [(5, y)] }
def rng : EFmt := { t0 with vx := 1, imm := 5 }
def rngOp : Op := op0 (.rngt rng) .en (.threads [0, 1])

theorem witness_RandomWords :
    Meets [.rngt rng, .rngt { rng with ext := 1, imm := 0 }] ∧ demoX.enabledSet rng.g 3 0 = [0, 1] ∧ demoX.ops = [] ∧ demoX.count .en < 63 ∧
    (((rngBase RngSlot.idle).slot 0 5).claim = none ∧ (demoBase.boundHeader 0 5) = none) ∧
    ((rngBase (RngSlot.mk (some 1) 0 0 [] none)).slot 0 5).claim = some 1 ∧
    (∀ n ∈ [1, 2, 63], (rngBase (RngSlot.mk (some 0) 0 n [] none)).slot 0 5 = RngSlot.mk (some 0) 0 n [] none) ∧
    (let s := stateOf (rngBase (RngSlot.mk (some 0) 0 0 [OpRef.mk 0 0] (some 0x8000))) (opG demoX rngOp)
     s.group? 0 = some (opG demoX rngOp) ∧ (opG demoX rngOp).op? 0 = some rngOp ∧ s.replayFailures 0 0x8000 2 = [] ∧
     s.ticketSlot (OpRef.mk 0 0) = some (0, 5) ∧ (s.slot 0 5).tickets.head? = some (OpRef.mk 0 0) ∧ s.spoiled 0 0x8000 64 = false ∧
     numAt (s.vread 0 0x8000 64) 0x0C 4 = 2 ∧ numAt (s.vread 0 0x8000 64) 0x10 4 % 2 = 1 ∧
     (s.as 0 0).badIn 0 [(0x8000, 64), (0x9008, 4), (0x9000, 4)] true = none) ∧ OnePage 0x8000 64 :=
  ⟨meets _ (by decide +kernel), by decide +kernel, rfl, by decide, by decide +kernel, by decide +kernel, by decide +kernel,
    by decide +kernel, by decide, by decide, by decide⟩

/-! #### Time and stamped memory -/

def onDie (q : Quartz) (s : State) : State := { s with dies := [(0, { Die.reset with quartz := q })] }
/-- A free unit, 1000 to 2000 ns; one whose half-width exceeds QLIM. -/
def freeQ : Quartz := { Quartz.reset with state := .free, e0 := 1000, l0 := 2000 }
def wideQ : Quartz := { freeQ with l0 := 1000000 }
def stampBase (q : Quartz) : State := onDie q (pages demoBase)
/-- V1 holds addresses of the stamped page; S0 is the stamp asked for. -/
def stX : Group := { demoX with v := [(32, 0x40040000), (33, 0x40040080)], s := [(0, 500)] }
def stst1 : MFmt := { m64 with off := 0 }
def elt0 : StampElt := StampElt.mk 0 0x40040000 [1, 2, 3, 4, 5, 6, 7, 8]
def ststX (left : List StampElt) (w : Option (Nat × Nat)) : Group := { opG stX { op0 (.stst stst1) .st (.commits 0) with sargs := [500] } with
  cont := some (.stst (demoK (.stst stst1)) left 0 w), wait := some .serving }
def commit0 : Pending := Pending.mk 999 0x240000 [1, 2, 3, 4, 5, 6, 7, 8] (OpRef.mk 0 0) true

theorem witness_StampedStores :
    Meets [.tnow { e0 with sd := 3, sb := 4 }, .stst stst1] ∧ Issued (demoWith (stampBase freeQ) stX (.stst stst1)) (demoK (.stst stst1)) 0 stX (.stst stst1) ∧
    (let es := stX.elems stst1 3 (stX.ea stst1)
     es ≠ [] ∧ (stampBase freeQ).elemFailures stX stst1 .write (some true) es = []) ∧
    (let s := stateOf (stampBase freeQ) (ststX [elt0] none)
     s.group? 0 = some (ststX [elt0] none) ∧ s.pa? 0 elt0.addr = some 0x240000 ∧ dramDie 0x240000 = some 0 ∧
     s.latest 0 - s.earliest 0 ≤ 2 * (s.die 0).quartz.qlim.toNat ∧ (s.stamped (0x240000 / 128)).pending.length < 16) ∧
    (let s := { stateOf (stampBase freeQ) (ststX [elt0] none) with stamps := [(0x240000 / 128, Stamped.mk 0 999 (List.replicate 16 commit0))] }
     16 ≤ (s.stamped (0x240000 / 128)).pending.length ∧ (s.as 0 0).heldRound 0 (s.groups.length + 1) 0 = false) ∧
    (let s := stateOf (stampBase wideQ) (ststX [elt0] none)
     s.pa? 0 elt0.addr = some 0x240000 ∧ 2 * (s.die 0).quartz.qlim.toNat < s.latest 0 - s.earliest 0) ∧
    (∀ w ∈ [none, some (0, 0x40040000)], (ststX [] w).op? 0 = some { op0 (.stst stst1) .st (.commits 0) with sargs := [500] }) ∧
    (let s := { stampBase freeQ with stamps := [(0x240000 / 128, Stamped.mk 0 999 [commit0, { commit0 with stamp := 1000 }])] }
     (s.stamped (0x240000 / 128)).pending = [commit0, { commit0 with stamp := 1000 }] ∧ commit0.stamp < s.earliest 0 ∧ s.earliest 0 ≤ 1000) :=
  ⟨meets _ (by decide +kernel), issued_with _ _ _, by decide +kernel, by decide +kernel, by decide +kernel, by decide +kernel, by decide +kernel,
    by decide +kernel⟩

def ldas1 : MFmt := { m64 with off := 0, fp := 1 }
def asOfReq : SpReq := SpReq.mk 0 0 (0x40040000 / 128) 0 8 0
def ldasOp : Op := op0 (.ldas ldas1) .ld (.asOf 500 [asOfReq])

theorem witness_AsOfLoads :
    (Instr.ldas ldas1).wf = true ∧ Issued (demoWith (stampBase freeQ) stX (.ldas ldas1)) (demoK (.ldas ldas1)) 0 stX (.ldas ldas1) ∧
    (let es := stX.elems ldas1 3 (stX.ea ldas1)
     es ≠ [] ∧ (stampBase freeQ).elemFailures stX ldas1 .read (some true) es = [] ∧
     (∀ e ∈ es, ∀ p ∈ linePieces e.2 8, (stampBase freeQ).wideAt 0 p.1 = false)) ∧
    (∀ c ∈ [500, 501], let s := { stateOf (stampBase freeQ) (opG stX ldasOp) with stamps := [(0x240000 / 128, Stamped.mk c 501 [{ commit0 with stamp := 501 }])] }
      s.group? 0 = some (opG stX ldasOp) ∧ (opG stX ldasOp).op? 0 = some ldasOp ∧ s.pa? 0 (asOfReq.line * 128 + asOfReq.byte) = some 0x240000 ∧
      s.spoiled 0 (asOfReq.line * 128 + asOfReq.byte) 8 = false ∧ 500 < s.earliest 0 ∧
      (∀ e ∈ (s.stamped (0x240000 / 128)).pending, 500 < e.stamp)) :=
  ⟨by decide, issued_with _ _ _, by decide +kernel, by decide +kernel⟩

/-! #### Copies -/

/-- A record at 0x4000 of a row of 16 elements of 4 bytes at 0x6000; S4 to S7 the origin zero, S8 the place in the scratchpad. -/
def cpyBase (up : Nat) : State :=
  ([(0x4000, 0x6000), (0x4008, 0x100000012 + up), (0x4010, 0x100000010), (0x4018, 0x100000001), (0x4020, 64), (0x4028, 64), (0x4030, 64),
    (0x4038, 0x0001000100010010)] : List (Nat × Nat)).foldl (fun s p => s.setNum p.1 8 p.2) demoBase
def cpyArgs (up a : Nat) : List Word := [0x4000, 0, 0, 0, 0, BitVec.ofNat 64 a] ++
  (List.range 8).map (fun j => BitVec.ofNat 64 (ofLe ((((cpyBase up).cachedRead 0 0 2 0x4000 64).drop (8 * j)).take 8)))
def cpyX : Group := { demoX with s := [(1, 0x4000), (3, 0x5000)] }
def cpy1 : EFmt := { e0 with sa := 1, sb := 4, sc := 8 }
def cpyF : EFmt := { cpy1 with ext := 1, sc := 0, imm := 1 }
def sel1 : EFmt := { e0 with sa := 1, sb := 3, sc := 0, imm := 1 }
def cpyOp (i : Instr) (up : Nat) (w : Work) : Op := { op0 i .cp w with sargs := cpyArgs up 0x40 }
def heldBy (b : Option Nat) (s : State) : State := { s with cores := [(0, { demoCore with holder := b, copies := [OpRef.mk 0 0] })] }

theorem witness_CopyIssue :
    Meets [.cpy cpy1, .cpy cpyF, .cpysel sel1] ∧ (∀ s i, Issued (demoWith s cpyX i) (demoK i) 0 cpyX i) ∧ cpyX.enabled uni (leader 3) 0 = true ∧
    cpyX.enabled never (leader 3) 0 = false ∧ cpyX.count .cp < 63 ∧
    (∀ up ∈ [0, 4], (cpyBase up).copySwitching cpyX false 0 (cpyArgs up 0) = none ∧ (cpyBase up).copyFailures cpyX false 0 (cpyArgs up 0) = []) ∧
    (cpyBase 0).copySwitching cpyX true 1 (cpyArgs 0 0) = none ∧ (cpyBase 0).copyFailures cpyX true 1 (cpyArgs 0 0) = [] ∧
    (cpyBase 0).descBad 0 0 2 0x4000 64 = none ∧ lostBase.descBad 0 0 2 0x4000 64 = some 0x4000 ∧
    ((heldBy (some 0) demoBase).core 0).holder = some cpyX.block ∧ ((heldBy none demoBase).core 0).holder ≠ some cpyX.block ∧
    atIssue (demoBase.selFailures cpyX sel1) = [] :=
  ⟨meets _ (by decide +kernel), fun s i => issued_with s _ i, by decide, by decide, by decide, by decide +kernel, by decide +kernel,
    by decide +kernel, by decide +kernel, by decide +kernel, by decide, by decide, by decide +kernel⟩

theorem witness_CopyCompletes :
    (∀ c ∈ [(cpyOp (.cpy cpy1) 0 (.copy none), 0), (cpyOp (.cpy cpy1) 4 (.copy none), 4), (cpyOp (.cpy cpyF) 0 (.copy none), 0),
        (cpyOp (.cpy cpyF) 0 (.copy (some (List.replicate 2 (List.replicate 32 1)))), 0)],
      let s := heldBy (some 0) (stateOf (cpyBase c.2) (opG cpyX c.1))
      s.group? 0 = some (opG cpyX c.1) ∧ (opG cpyX c.1).op? 0 = some c.1 ∧ s.inEngine 0 (OpRef.mk 0 0) = true ∧
      (recordOf c.1.sargs).total = 64 ∧ (recordOf c.1.sargs).up = (c.2 == 4) ∧ (recordOf c.1.sargs).skew = false ∧
      (s.as 0 0).copyBad 0 0 (recordOf c.1.sargs) (originOf c.1.sargs) 0x40 = none ∧
      (s.as 0 0).copyBad 0 0 (recordOf c.1.sargs) (originOf c.1.sargs) 0 = none ∧ s.mayPush 0 1 (.op 0 0) = true ∧
      copyRuns (recordOf c.1.sargs) (originOf c.1.sargs) = [(0, 0, 0x6000, 64)] ∧ s.pa? 0 0x6000 = some 0x6000) ∧
    (let o := cpyOp (.cpy cpyF) 0 (.copy none)
     (stateOf (fifoBase 512) (opG cpyX o)).mayPush 0 1 (.op 0 0) = false ∧ (((fifoBase 512).core 0).bank 1).line = [] ∧
     ((stateOf ((cpyBase 0).setDie 0 { Die.reset with lost := [(0x6000, 128)] }) (opG cpyX o)).as 0 0).copyBad 0 0 (recordOf o.sargs)
       (originOf o.sargs) 0 = some 0x6000) ∧ OnePage 0x6000 64 := by
  refine ⟨?_, ?_, by decide, by decide, by decide⟩ <;> decide +kernel

def selOp (f : EFmt) (j : Nat) : Op := { op0 (.cpysel f) .cp (.rows j) with sargs := [0x4000, 0x5000, 0] }

theorem witness_SelectRow :
    (∀ c ∈ [(selOp sel1 0, sel1), (selOp { sel1 with imm := 0x4041 } 1, { sel1 with imm := 0x4041 })],
      let s := { stateOf demoBase (opG cpyX c.1) with cores := [(0, { demoCore with copies := [OpRef.mk 0 0], queue := [List.replicate 64 0] })] }
      s.group? 0 = some (opG cpyX c.1) ∧ (opG cpyX c.1).op? 0 = some c.1 ∧ s.inEngine 0 (OpRef.mk 0 0) = true ∧
      s.selBlocked 0 (OpRef.mk 0 0) c.2 = false ∧ (s.core 0).holder = some 0 ∧ s.waitingPoppers 0 = [] ∧
      (s.core 0).queue = List.replicate 64 0 :: [] ∧ (s.core 0).badRow = false ∧ (s.as 0 0).badSpan 0 (0x5000 + (if c.2 = sel1 then 0 else 24)) 32 true = none ∧
      (s.as 0 0).badSpan 0 0x4000 512 false = none ∧ s.pa? 0 0x4100 = some 0x4100) ∧
    OnePage 0x5000 32 ∧ OnePage 0x4000 256 ∧ selRows sel1 = 1 ∧ selRows { sel1 with imm := 0x4041 } = 2 := by
  refine ⟨?_, ⟨by decide, by decide, by decide⟩, ⟨by decide, by decide, by decide⟩, by decide, by decide⟩; decide +kernel

/-! #### The control ring -/

/-- Context `q` of the pages of the machine with command `m` in its control ring at 0x20000. -/
def ctlCtx : Ctx := { loadCtx with ctl := 0x20000, rung := [16] }
def ctlOf (s : State) (q : Ctx) (m : Cmd) : State :=
  let t := ([(0x20000, 0x21000), (0x20008, 4), (0x20010, 0), (0x20018, 1), (0x21000, m.op + m.arg * 2 ^ 32), (0x21008, m.va),
    (0x21010, m.len), (0x21018, m.done)] : List (Nat × Nat)).foldl (fun s p => s.setNum p.1 8 p.2) s
  { t with ctxs := [(0, q)] }
def ctl (m : Cmd) : State := ctlOf (pages demoBase) ctlCtx m

theorem witness_MalformedCommands :
    (∀ m ∈ [Cmd.mk 2 1 0 0 0x3000, .mk 3 0 1 0 0, .mk 4 1 0 0 0, .mk 5 5 0 0 0, .mk 6 0 0 65536 0, .mk 7 0 0 1 0, .mk 8 9 0 0 0,
        .mk 9 1 1 0 0, .mk 10 1 0 99999 0, .mk 11 1 (2 ^ 32) 0 0, .mk 12 0 1 0 0, .mk 13 0 64 0 0], (ctl m).ctlHead 0 = some m) ∧
    (∀ m ∈ [Cmd.mk 8 9 0 0 0, .mk 9 1 1 0 0], m.op = 8 → ((ctl m).cmdLaunch 0 m).isSome = false) ∧
    ((ctl (.mk 9 1 1 0 0)).cmdLaunch 0 (.mk 9 1 1 0 0)).map (fun p => p.2.blocks) = some 1 ∧
    (ctl (.mk 4 1 0 0 0)).resolveOk 0 (.mk 4 1 0 0 0) = false := by decide +kernel

/-- S1 is a base and S2 a length: the page the device owns, the page the host owns, an ordinary page. -/
def ownX (va : Word) : Group := { demoX with s := [(1, va), (2, 0x10000)] }
def own1 : EFmt := { e0 with sd := 3, sa := 1, sb := 2 }

theorem witness_OwnershipIssue :
    Meets [.vacq own1, .vrel own1] ∧ (∀ va i, Issued (demoWith (pages demoBase) (ownX va) i) (demoK i) 0 (ownX va) i) ∧
    (ownX 0).enabled uni (leader 3) 0 = true ∧ (ownX 0).enabled never (leader 3) 0 = false ∧ (ownX 0).count .en < 63 ∧
    (let s := pages demoBase
     s.sharedRange 0 0x40020000 0x10000 = true ∧ s.sharedRange 0 0x40030000 0x10000 = true ∧ s.sharedRange 0 0x40000000 0x10000 = false ∧
     s.ownedBy 0 0x40020000 0x10000 false = true ∧ s.ownPending 0 0x40020000 0x10000 true = false ∧
     s.ownedBy 0 0x40030000 0x10000 false = false ∧ (s.ctx? 0).isSome = true) :=
  ⟨meets _ (by decide +kernel), fun va i => issued_with _ _ i, by decide, by decide, by decide, by decide +kernel⟩

/-- A VREL, or a VACQ, of the page that the device owns, entered in the context's list. -/
def relOp (i : Instr) : Op := op0 i .en (.range 0x40020000 0x10000)
def relCtx : Ctx := { ctlCtx with vacqs := [OpRef.mk 0 0] }
def relS (i : Instr) (m : Cmd) : State := stateOf (ctlOf (pages demoBase) relCtx m) (opG (ownX 0x40020000) (relOp i))

theorem witness_OwnershipCommands :
    (∀ m ∈ [Cmd.mk 2 0 0x40000000 0x10000 0, .mk 2 0 0x40030000 0x10000 0x3000, .mk 3 0 0x40000000 0x10000 0, .mk 3 0 0x40030000 0x10000 0,
        .mk 3 0 0x40020000 0x10000 0, .mk 7 0 0x40020000 0x10000 0], (ctl m).ctlHead 0 = some m ∧
      ((ctl m).ctlTake 0).sharedRange 0 m.va m.len = (m.va != 0x40000000) ∧
      ((ctl m).ctlTake 0).ownedBy 0 m.va m.len true = (m.va == 0x40030000) ∧
      (∀ p ∈ pagesOf m.va m.len, ((ctl m).ctlTake 0).releasing 0 p = false)) ∧
    (let m := Cmd.mk 2 0 0x40020000 0x10000 0
     let s := relS (.vrel own1) m
     s.ctlHead 0 = some m ∧ (s.ctlTake 0).sharedRange 0 m.va m.len = true ∧ (s.ctlTake 0).releasing 0 0x40020000 = true) ∧
    (∀ va ∈ [0x40020000, 0x40030000], let m := Cmd.mk 7 0 va 0x10000 0
      let s := relS (.vacq own1) m
      s.ctlHead 0 = some m ∧ (s.ctlTake 0).ownRange (OpRef.mk 0 0) = some (false, 0x40020000, 0x10000)) ∧
    (let s := relS (.vrel own1) (Cmd.mk 1 0 0 0 0)
     s.group? 0 = some (opG (ownX 0x40020000) (relOp (.vrel own1))) ∧ s.ctx? 0 = some relCtx ∧
     s.rangeInUse 0 0x40020000 0x10000 = false ∧ (relCtx.vacqs.takeWhile (· != OpRef.mk 0 0)).filterMap s.ownRange = [] ∧ relCtx.pend = [] ∧ (s.leafAt 0 (wrap64 0x40020000)).isSome = true) := by decide +kernel

/-! #### Pages and moves -/

def pg1 : MFmt := { m64 with off := 0, type := 6, selD := 0 }
/-- V1 holds an address of the ordinary page and one of the page that is not resident. -/
def pgX : Group := { demoX with v := [(32, 0x40000008), (33, 0x40010008)] }
def pgOp : Op := op0 (.pgreq pg1) .en (.pages [(1, 0x40010000)])

theorem witness_PageRequests :
    Meets [.pgreq pg1] ∧ Issued (demoWith (pages demoBase) pgX (.pgreq pg1)) (demoK (.pgreq pg1)) 0 pgX (.pgreq pg1) ∧
    pgX.elems pg1 3 (pgX.ea pg1) = [(0, 0x40000008), (1, 0x40010008)] ∧
    (let s := pages demoBase
     (s.leafAt 0 0x80000000 = none) ∧
     (s.leafAt 0 0x40030000).map (fun l => (l.bit 6, l.bit 7)) = some (true, true) ∧
     (s.leafAt 0 0x40000008).map (fun l => (l.bit 6, l.bit 2)) = some (false, true) ∧
     (s.leafAt 0 0x40010008).map (fun l => (l.bit 6, l.bit 2)) = some (false, false)) ∧
    (onOp (pages demoBase) pgOp).group? 0 = some (opG demoX pgOp) ∧ (opG demoX pgOp).op? 0 = some pgOp :=
  ⟨meets _ (by decide +kernel), issued_with _ _ _, by decide +kernel, by decide +kernel, rfl, by decide +kernel⟩

/-- An engine operation that pins the ordinary page; a move of it to the host that waits for its frame. -/
def pinned : Group := opG demoX { op0 (.cpy cpy1) .cp (.copy none) with pins := [(0x40000000, 64)] }
def hostMove : Move := Move.mk 0 0x40000000 4 none none true true none
def hostMoved (m : Cmd) : State := { ctl m with moves := [(5, hostMove)], nextId := 6 }
/-- A list of one frame at 0x3000, of die 0; the next entry is none of a frame. -/
def framed (m : Cmd) : State := ((ctl m).setNum 0x3000 8 0x300000).setNum 0x3008 8 0x8000

theorem witness_PageCommands :
    (∀ m ∈ [Cmd.mk 0 0 0 0 0, .mk 14 0 0 0 0, .mk 1 0 0x40000000 0x10000 0, .mk 4 0 0x40010000 0 0, .mk 4 3 0x40010000 0 0,
        .mk 5 4 0x40000000 0 0, .mk 5 0 0x40000000 0x20000 0], (ctl m).ctlHead 0 = some m ∧ ((ctl m).ctx? 0).map (·.pend) = some []) ∧
    ((ctl (.mk 1 0 0x40000000 0x10000 0)).ctlTake 0).rangeInUse 0 0x40000000 0x10000 = false ∧
    ((stateOf (ctl (.mk 1 0 0x40000000 0x10000 0)) pinned).ctlTake 0).rangeInUse 0 0x40000000 0x10000 = true ∧
    ((ctl (.mk 4 0 0x40010000 0 0)).resolveOk 0 (.mk 4 0 0x40010000 0 0) = true ∧
      ((ctl (.mk 4 0 0x40010000 0 0)).ctlTake 0).hostMove? 0 0x40010000 = none) ∧
    (∀ m ∈ [Cmd.mk 4 0 0x40000000 0x10000000000 0, .mk 4 3 0x40000000 0 0], (hostMoved m).ctlHead 0 = some m ∧
      (hostMoved m).resolveOk 0 m = true ∧ ((hostMoved m).ctlTake 0).hostMove? 0 0x40000000 = some (5, hostMove)) ∧
    (((ctl (.mk 5 4 0x40000000 0 0)).ctlTake 0).movePages 0 0x40000000 0 = [] ∧
      ((ctl (.mk 5 0 0x40000000 0x20000 0)).ctlTake 0).movePages 0 0x40000000 0x20000 = [0x40000000, 0x40010000]) ∧
    (∀ n ∈ [1, 2], let m := Cmd.mk 6 0 0x3000 n 0
      (framed m).ctlHead 0 = some m ∧ ((framed m).ctlTake 0).spanFailures 0 0x3000 (8 * n) .read none none = []) ∧
    (framed (Cmd.mk 6 0 0x3000 1 0)).vnum 0 0x3000 8 = 0x300000 ∧ dramDie 0x300000 = some 0 ∧
    (framed (Cmd.mk 6 0 0x3000 2 0)).vnum 0 0x3008 8 % 65536 ≠ 0 := by decide +kernel

/-- A move to a die or to the host, of a page with a history. -/
def moved (va target : Nat) (granted : Bool) (times : List Nat) (settle : Nat) (pool : List Nat) : State := { pages demoBase with
  moves := [(5, Move.mk 0 va target none none granted false none)], nextId := 6,
  history := [(pageKey 0 0x40000000, History.mk times settle), (pageKey 0 0x40050000, History.mk times settle)],
  dies := [(0, { Die.reset with quartz := freeQ }), (1, { Die.reset with frames := pool })] }

theorem witness_PageMoves :
    (∀ va ∈ [0x80000000, 0x8, 0x40030000, 0x40040000, 0x40000000, 0x40050000],
      (Sparse.find? (moved va 1 false [] 0 []).moves 5).map (fun m => (m.granted, m.posted, (moved va 1 false [] 0 []).moving 5 m)) =
        some (false, false, false)) ∧
    (moved 0x80000000 1 false [] 0 []).leafAt 0 0x80000000 = none ∧
    ((moved 8 1 false [] 0 []).leafAt 0 8).map (·.log) = some 30 ∧
    ((moved 0x40040000 4 false [] 0 []).leafAt 0 0x40040000).map (·.bit 5) = some true ∧
    (∀ va ∈ [0x40000000, 0x40050000], ∀ times ∈ [[], [1000, 1000, 1000], [1000, 1000, 1000, 1000]], ∀ settle ∈ [0, 1000, 1001],
      let s := moved va 1 false times settle []
      (s.leafAt 0 va).map (fun l => [l.bit 6, l.bit 5, l.bit 2, l.bit 8]) = some [false, false, true, va == 0x40050000] ∧
      (s.leafAt 0 va).map (fun l => [l.log, l.home, (s.hist 0 va).settle, ((s.hist 0 va).moves.filter (fun u =>
        s.earliest l.home < u + 65536000 && u ≤ s.earliest l.home)).length, s.earliest 0]) = some [16, 0, settle, times.length, 1000]) ∧
    (let s := moved 0x40000000 1 true [] 0 [0x2000300000]
     (s.die 1).frames.find? (fun p => p % 2 ^ 16 == 0) = some 0x2000300000 ∧ dramDie 0x2000300000 = some 1 ∧
     (s.leafAt 0 0x40000000).map (fun l => (l.bit 2, l.log, s.pageBusy 0 0x40000000 l)) = some (true, 16, false) ∧ Memory.wf s.mem = true ∧
     s.badSpan 0 0x40000000 65536 true = none ∧
     (s.setDie 0 { s.die 0 with lost := [(0x200000, 128)] }).badSpan 0 0x40000000 65536 true = some 0x40000000) ∧
    (moved 0x40000000 1 true [] 0 []).die 1 = Die.reset := by decide +kernel

/-! #### Rings and steering -/

/-- A ring at 0x20000 of 16 slots with TAIL `n`, for fault and request records. -/
def rec0 : FaultRec := FaultRec.mk (mkFault 9 0x4000 none) 1 0 0 0 none 0 1 0 1 0
def ringCtx : Ctx := { loadCtx with fault := 0x20000, req := 0x20000, faults := [rec0], reqs := [ReqRec.mk 1 0 0 0] }
def ringS (n : Nat) : State := { (((demoBase.setNum 0x20000 8 0x21000).setNum 0x20008 4 4).setNum 0x20018 8 n) with ctxs := [(0, ringCtx)] }

theorem witness_RecordsPosted : ∀ n ∈ [0, 15, 16], (ringS n).ctx? 0 = some ringCtx ∧ ringCtx.faults = [rec0] ∧
    ringCtx.reqs = [ReqRec.mk 1 0 0 0] ∧ (ringS n).ringRoom 0x20000 = decide (n < 16) ∧
    (∀ z ∈ [32, 64], (ringS n).badAt (0x21000 + z * (n % 16)) z (coveredBy [(0x21000 + z * (n % 16), z)]) = none) := by decide +kernel

/-- The launch named by identity 1, its block and its group. -/
def steer (l : Launch) (k : Block) (x : Group) (m : Cmd) : State := { ctl m with launches := [(0, l)], blocks := [(0, k)], groups := [(0, x)] }
def blk : Block := loadBlock false 0
def asked : PreReq := PreReq.mk 100 [] false false 1 []
def faultX : Group := { demoX with status := .faulted rec0 none }
def safeX : Group := { demoX with threads := List.replicate 2 (Thread.mk 0 (.safe 0)) }
/-- A slot claimed by the launch; a well-formed replay header at 0x8000. -/
def claimed (m : Cmd) : State := { ctl m with dies := [(0, { Die.reset with slots := [(5, RngSlot.mk (some 0) 0 0 [] none)] })] }
def headed (m : Cmd) : State := ((ctl m).setNum 0x8000 8 0x9000).setNum 0x8008 4 3

theorem witness_SteeringCommands :
    (∀ m ∈ [Cmd.mk 8 1 5 0 0, .mk 8 1 0 0 0, .mk 8 1 0 10 0, .mk 9 1 (2 ^ 64 - 1) 0 0, .mk 10 1 5 0 0, .mk 10 1 0 0 0, .mk 10 1 0 100000 0,
        .mk 11 1 0 0 0], let s := steer demoLaunch blk demoX m
      s.ctlHead 0 = some m ∧ s.cmdLaunch 0 m = some (0, demoLaunch) ∧ (s.ctlTake 0).cmdLaunch 0 m = some (0, demoLaunch)) ∧
    (let m := Cmd.mk 8 1 0 10 0
     targetOk m.va = true ∧ m.len < 5 * 2 ^ 50 ∧ bitAt m.va 47 = false ∧ bits m.va 32 11 = 0 ∧ (ctl m).blockBy 0 5 = none) ∧
    (∀ x ∈ [demoX, faultX], let s := (steer demoLaunch blk x (.mk 8 1 0 10 0)).ctlTake 0
      s.blockBy 0 0 = some (0, blk) ∧ s.block? 0 = some blk ∧ blk.groups[0]? = some 0 ∧ s.group? 0 = some x ∧ blk.st = .running) ∧
    (demoLaunch.outcome = none ∧ demoLaunch.doom = none ∧ ({ demoLaunch with outcome := some (0, 0) } : Launch).outcome.isSome = true) ∧
    (limitOk 0 = true ∧ limitOk 100000 = true ∧ blk.pre = none ∧ ({ blk with pre := some asked } : Block).pre = some asked ∧
      asked.taking = false ∧ ({ blk with st := .ended } : Block).st ≠ .running) ∧
    ((safeX.thread 1).st = .safe 0) ∧
    (∀ m ∈ [Cmd.mk 12 0 0x40000000 0x10000 0, .mk 12 0 0x40010000 0x10000 0], (ctl m).ctlHead 0 = some m ∧
      (ctl m).coversWhole 0 m.va 0x10000 = true ∧
      (((ctl m).ctlTake 0).spanFailures 0 m.va 65536 .write none none).isEmpty = (m.va == 0x40000000)) ∧
    (ctl (Cmd.mk 12 0 0x10000 0x10000 0)).coversWhole 0 0x10000 0x10000 = false ∧
    (∀ m ∈ [Cmd.mk 13 5 0 0 0, .mk 13 (2 ^ 31 + 5) 0x8000 0 0], replayFields m = true ∧ (ctl m).ctlHead 0 = some m ∧
      ((ctl m).ctlTake 0).slotClaimed 0 5 = false ∧ ((claimed m).ctlTake 0).slotClaimed 0 5 = true) ∧
    (let m := Cmd.mk 13 (2 ^ 31 + 5) 0x8000 0 0
     ((ctl m).ctlTake 0).headerOk 0 0x8000 = false ∧ ((headed m).ctlTake 0).headerOk 0 0x8000 = true) := by
  refine ⟨by decide +kernel, by decide +kernel, by decide +kernel, by decide, ⟨by decide, by decide, rfl, rfl, rfl, by decide⟩, rfl, by decide +kernel,
    by decide +kernel, by decide +kernel, by decide +kernel⟩

/-! #### Launches and blocks -/

/-- A record at 0x4000 of one block of the kernel at 0x5000: one group of one thread, 64 registers; a queue at 0x20000 whose first
slot is at 0x4000. -/
def launchMem (tail : Nat) : State :=
  ([(0x4010, 0x5000), (0x4030, 1), (0x5028, 0x100010040), (0x20000, 0x4000), (0x20008, 4), (0x20018, tail)] : List (Nat × Nat)).foldl
    (fun s p => s.setNum p.1 8 p.2) demoBase
def queueCtx : Ctx := { loadCtx with hostQ := [0x20000], devQ := [0x20000, 0], rung := [0] }
def launchS (tail : Nat) : State := { launchMem tail with ctxs := [(0, queueCtx)] }
def launch1 : EFmt := { e0 with sd := 3, sa := 1 }

/-- A second launch that waits on the first, which failed. -/
def depLaunch : Launch := { demoLaunch with lid := 2, next := 0, placed := 0, strict := true, deps := [1] }
def depS (o : Option (Nat × Nat)) (l : Launch) : State := { demoBase with launches := [(0, { demoLaunch with outcome := o }), (1, l)] }

theorem witness_LaunchAndQueues :
    Meets [.launch launch1, .launch { launch1 with imm := 1 }] ∧
    (∀ n i, Issued (demoWith (launchS n) demoX i) (demoK i) 0 demoX i) ∧ (launchS 1).ctx? 0 = some queueCtx ∧
    (launchS 1).ctxOf demoX.launch = 0 ∧ (demoX.rs 1).toNat % 64 = 0 ∧ (demoX.rs 0x7F).toNat = 0 ∧
    (launchS 0).spanFailures 0 0x4000 64 .read none none = [] ∧ (launchS 0).ringRoom 0x20000 = true ∧ (launchS 16).ringRoom 0x20000 = false ∧
    (match ((launchS 0).hold 0 0x4000 64).judge 0 queueCtx ((launchS 0).vread 0 0x4000 64) with | .ok _ => true | .error _ => false) = true ∧
    (match ((launchS 0).hold 0 0x7000 64).judge 0 queueCtx ((launchS 0).vread 0 0x7000 64) with | .ok _ => false | .error e => e == 2) = true ∧
    (launchS 1).ringReady 0x20000 = true ∧ (launchS 0).ringReady 0x20000 = false ∧ 0 ∈ queueCtx.rung ∧
    (let s := launchS 0
     let l := s.vread 0 0x4000 64
     (s.fullLaunch 0 queueCtx (s.vread 0 0x7000 64)).isNone = true ∧
     (s.fullLaunch 0 queueCtx l).map (fun m => (m.deps, m.coop, s.capacity m == 0)) = some ([], false, false) ∧
     numAt (s.vread 0 0x7000 64) 0x30 4 = 0 ∧
     (depS none depLaunch).depOk 0 2 1 = true ∧ (depS none depLaunch).depOk 0 2 0 = false ∧
     s.capacity { demoLaunch with coop := true, blocks := 2 ^ 31 } < 2 ^ 31 ∧
     (s.capacity { demoLaunch with ngroups := 2048 } = 0)) :=
  ⟨meets _ (by decide +kernel), fun n i => issued_with _ _ i, by decide +kernel, by decide +kernel, by decide, by decide, by decide +kernel,
    by decide +kernel, by decide +kernel, by decide +kernel, by decide +kernel, by decide +kernel, by decide +kernel, by decide,
    by decide +kernel⟩

def overBase (l : Launch) (st : BlockSt) : State := { demoBase with launches := [(0, l)], blocks := [(0, { blk with st := st })], clk := 80000000 }

theorem witness_LaunchEnds :
    (let l := { demoLaunch with finished := 1, done := 0x6000 }
     (overBase l .ended).launch? 0 = some l ∧ l.outcome = none ∧ l.doom = none ∧ l.placed ≠ 0 ∧ l.finished = l.blocks ∧ OnePage l.done 16 ∧
     (overBase l .ended).spanFailures l.ctx l.done 16 .write (some false) none = [] ∧ (overBase l .ended).pa? l.ctx l.done = some 0x6000) ∧
    ((depS (some (1, 0x21)) depLaunch).depFailed depLaunch = true ∧ (depS (some (0, 0)) depLaunch).depFailed depLaunch = false ∧
      depLaunch.placed = 0 ∧ depLaunch.doom = none) ∧
    (let l := { demoLaunch with doom := some (1, 0x21) }
     (overBase l .ended).blocksOver 0 = true ∧ (overBase l .aborting).blocksOver 0 = false) ∧
    (let l := { demoLaunch with blocks := 2, boost := 5 }
     (overBase l .running).waiting 0 l = true ∧ l.boost < 6 ∧ l.waitFrom + 80000000 ≤ (overBase l .running).clk ∧
     (overBase demoLaunch .running).waiting 0 demoLaunch = false) := by
  unfold OnePage; decide +kernel

/-- Two blocks of which the first stands on core 0; core 1 is free. -/
def twoBlocks : Launch := { demoLaunch with blocks := 2 }
def placeS : State := { demoBase with launches := [(0, twoBlocks)] }

theorem witness_BlockPlaced :
    placeS.launch? 0 = some twoBlocks ∧ twoBlocks.coop = false ∧ placeS.mstat.fatal = false ∧ placeS.queued 0 twoBlocks = true ∧
    placeS.takenBlocks 0 = [] ∧ twoBlocks.next < twoBlocks.blocks ∧ placeS.mayPass 0 twoBlocks [1] = true ∧
    (let rooms := (allCores.filter (fun c => placeS.mayPass 0 twoBlocks [c])).map placeS.room
     (placeS.fit 0 twoBlocks (fun _ => twoBlocks.banks) 0 [(1, 0)] rooms).isSome = true ∧
     (placeS.fit 0 twoBlocks (fun _ => twoBlocks.banks) 0 [(0, 1)] rooms).isNone = true) ∧
    ([(1, 0)] : List (Nat × Nat)).length = twoBlocks.ngroups := by decide +kernel

/-- Every core but core 0 retired; a launch of higher priority waits for core 0. -/
def high : Launch := { demoLaunch with lid := 2, prio := 7, next := 0, placed := 0 }
def fullS : State := { demoBase with
  launches := [(0, demoLaunch), (1, high)],
  cores := (0, demoCore) :: (List.range 127).map (fun j => (j + 1, { Core.idle with retired := true })) }
def leaseS (therm : BitVec 2) : State := { demoBase with
  tiles := [(0, startTile 0 0 0 0 (loadLaunch true))],
  dies := [(0, { Die.reset with asking := [.tile 0] })],
  mstat := MStat.mk false therm false false false true }

theorem witness_DistributorSteps :
    (let s := { demoBase with cores := [(0, { demoCore with powered := false }), (3, { Core.idle with powered := true })], clk := 16000 }
     (s.core 3).powered = true ∧ s.occupied 3 = false ∧ (s.core 3).idleAt + 16000 ≤ s.clk ∧
     (s.core 0).powered = false ∧ s.occupied 0 = true ∧ (s.core 0).idleAt + 3200 ≤ s.clk) ∧
    (fullS.firstWaiting = some (1, high) ∧ fullS.block? 0 = some blk ∧ (fullS.blocks.all (fun e => e.2.pre.isNone)) = true ∧
      fullS.mstat.fatal = false ∧ fullS.placeable 1 high = false ∧ fullS.victims high (fullS.effPrio 8 1) = [(0, blk)] ∧
      fullS.goesFirst (0, blk) (0, blk) = true ∧ demoLaunch.coop = false) ∧
    (∀ w ∈ [0, 1, 2], (leaseS w).nextLease 0 = some (.tile 0) ∧ ((leaseS w).tile? 0).isSome = true) := by decide +kernel

/-- The block asked for, its threads at safe points, with a save area large enough or none; taken; being aborted. -/
def preS (st : BlockSt) (p : Option PreReq) (save : Option (Nat × Nat)) (x : Group) : State := { demoBase with
  blocks := [(0, { blk with pre := p, st := st })], groups := [(0, x)], ctxs := [(0, { loadCtx with save := save })], clk := 100 }
def image : Saved := Saved.mk [] [] [] [] [] [] [] [] [] [0] 0x100000 []
def awayX : Group := { safeX with resident := false, active := false }
def takenS : State := { preS (.taken image) none none awayX with cores := [] }

theorem witness_PreemptionSteps :
    (∀ save ∈ [none, some (0, 0x100000)], let s := preS .running (some asked) save safeX
      let k := { blk with pre := some asked, st := .running }
      s.block? 0 = some k ∧ s.launch? k.launch = some demoLaunch ∧ k.groups = [0] ∧ s.group? 0 = some safeX ∧ k.tiles = [] ∧
      demoLaunch.coop = false ∧ s.blockSafe k = true ∧ s.notIssuing k = true ∧
      s.imageFits demoLaunch.ctx (s.imageSize 0 k demoLaunch) = save.isSome ∧ safeX.ops = [] ∧ safeX.cont = none ∧
      asked.deadline ≤ s.clk ∧ s.owedRecords k = [] ∧ demoLaunch.outcome = none ∧ demoLaunch.doom = none ∧ s.blocks = [(0, k)]) ∧
    (preS .running (some { asked with deadline := 101 }) none safeX).clk < 101 ∧
    (let k := { blk with pre := none, st := .taken image }
     takenS.block? 0 = some k ∧ takenS.group? 0 = some awayX ∧ takenS.mstat.fatal = false ∧ takenS.queued 0 demoLaunch = true ∧
     takenS.restoreSet 0 demoLaunch = [0] ∧ awayX.status ≠ .ended ∧ takenS.mayPass 0 demoLaunch [1] = true ∧
     (takenS.fitBack 0 demoLaunch k image [(1, 0)] (takenS.baseCore k image [(1, 0)] 1)
       ((allCores.filter (fun c => takenS.mayPass 0 demoLaunch [c])).map takenS.room)).isSome = true) ∧
    (({ asked with taking := true, owed := [rec0] } : PreReq).owed = [rec0] ∧ rec0 ∈ ringCtx.faults) ∧
    (preS .aborting none none demoX).groupSpent 0 demoX = true ∧
    demoX.ops.find? ((preS .aborting none none demoX).blockedOp 0 demoX) = none ∧
    (let x := opG demoX (op0 (.ld sp0) .ld (.spLoad false [SpReq.mk 0 0 1 0 8 0]))
     (x.ops.find? ((touched x).blockedOp 0 x)).isSome = true) := by decide +kernel

/-! #### The tile stream -/

/-- Context 0 of the block: operand tiles in bank 0, the target at 0x40000 with its tag at 0x30000, an image at 0x50000. -/
def tileX : Tile := { startTile 0 0 0 0 (loadLaunch true) with
  lease := .held, t := [(1, 5), (2, 3883), (3, 0), (4, 256), (6, 0), (7, 256), (9, 0x40000), (10, 256), (11, 0x30000), (12, 1), (14, 0x50000)] }
/-- Bank 0 is full, the queue and the lists are the block's, list 0 has one entry a row. -/
def tileCore : Core := { demoCore with
  full := (List.range 128).map (fun l => (l, true)), lists := [(0, WList.mk 1 (List.replicate 64 [unfilled]) (List.replicate 64 0) none none)] }
def tileBase : State := { (demoBase.setNum 0x50000 8 1) with
  cores := [(0, { tileCore with holder := some 0 })],
  launches := [(0, { demoLaunch with sets := [(8, SetDef.mk [(0, 0)] [0])] })] }
def tileK (i : Instr) : Issue := Issue.mk (.tile 0) 0 0 i none false
def tileS (x : Tile) (i : Instr) : State := { tileBase with tiles := [(0, x)], issue := some (tileK i) }
theorem tiled (x : Tile) (i : Instr) : Tiled (tileS x i) (tileK i) 0 x i := ⟨rfl, rfl, rfl, rfl⟩
def mma1 : TFmt := { mm with tc := 9, td := 12 }

/-- The instructions are well formed and issue in the context. -/
def MeetsT (x : Tile) (l : List Instr) : Prop := ∀ i ∈ l, i.wf = true ∧ Tiled (tileS x i) (tileK i) 0 x i
theorem meetsT (x : Tile) (l : List Instr) (h : l.all Instr.wf = true) : MeetsT x l :=
  fun i hi => ⟨List.all_eq_true.mp h i hi, tiled x i⟩

theorem witness_TileScalars :
    MeetsT tileX [.nop v0, .tsmov { ts with td := 2, ta := 1 }, .tsmovi ts, .tsmovi { ts with mod := 1 }, .tsmovi { ts with mod := 2 },
      .tsadd ts, .tsadd { ts with mod := 1 }, .tloop ts, .tloop { ts with ta := 1, imm := 0xFFFFFFFF }, .tbra { ts with mod := 6 }, .tfmt { ts with ta := 2 },
      .tfmt { ts with mod := 1, imm := 0x3FFFFF }] ∧
    LegalTarget (tileS tileX (.tbra { ts with mod := 6 })) 0 0 ∧ 0 < (tileX.rt 1).toInt ∧ ¬ 0 < (tileX.rt 0).toInt ∧
    (0 : Int) + (BitVec.toInt (0xFFFFFFFF : BitVec 32)) < 0 ∧ fmtRegOk (tileX.rt 2).toNat = true ∧ fmtRegOk 0x3FFFFF = false := by
  refine ⟨meetsT _ _ (by decide +kernel), ?_, by decide +kernel, by decide +kernel, by decide +kernel, by decide +kernel, by decide +kernel⟩
  unfold LegalTarget; decide +kernel

/-- It still reads the first two lines of bank 0. -/
def flying (i : Instr) : Inflight := Inflight.mk i 0 tileX.t tileX.f 0xFF800000 false [] [] 0 [] [(0, 0), (0, 1)] [] [] false
def busyT (n : Nat) : Tile := { tileX with flight := List.replicate n (flying (.mma mma1)) }

theorem witness_TileSetsAndEnd :
    (∀ x, MeetsT x [.tarr { ts with imm := 8 }, .twait { ts with imm := 8 }, .tarr ts, .tend ts]) ∧ (busyT 1).flight ≠ [] ∧ tileX.flight = [] ∧
    (let s := tileS tileX (.tarr { ts with imm := 8 })
     s.block? tileX.block = some blk ∧ blk.launch = tileX.launch ∧ tileX.number ∈ (s.setDef 0 8).tiles ∧ tileX.number ∉ (s.setDef 0 0).tiles ∧
     2048 + tileX.number ∉ (s.setState 0 8).arrived) ∧
    (2048 + tileX.number ∈ (({ tileS tileX (.twait { ts with imm := 8 }) with
      blocks := [(0, { blk with sets := [(8, SetState.mk 0 [2048])] })] } : State).setState 0 8).arrived) :=
  ⟨fun x => meetsT x _ (by decide +kernel), by decide, rfl, by decide +kernel, by decide +kernel⟩

/-! Operand tiles in bank 0 of core 0, whose every line is full and holds zeros, pass their checks and read as zeros. -/

/-- The scratchpad of core 0 as those tiles need it. -/
structure Plain (s : State) : Prop where
  banks : (s.core 0).banks = demoCore.banks
  full : (s.core 0).full = (List.range 128).map (fun l => (l, true))
  sp : (s.core 0).sp = []
  bad : (s.cores.all (fun p => p.2.bad.isEmpty)) = true

theorem decode_plain {a : Nat} (h : a < 16384) : spDecode 0 a = (0, a) := by
  have h1 : a / 2 ^ 19 = 0 := by omega
  have h2 : a % 2 ^ 19 = a := by omega
  simp only [spDecode, bits, Nat.shiftRight_eq_div_pow, h1, h2, Nat.pow_zero, Nat.div_one]; rfl
theorem spOk_plain {s : State} (h : Plain s) {a : Nat} (ha : a < 16384) : s.spOk 0 0 a = true := by
  have hb : (s.core 0).bank 0 = Bank.fresh .scratch (some 0) := by unfold Core.bank; rw [h.banks]; rfl
  have h1 : a / 16384 = 0 := by omega
  have h2 : a < 2 ^ 22 := by omega
  simp [State.spOk, decode_plain ha, h1, hb, Bank.fresh] <;> omega
theorem spFailures_plain {s : State} (h : Plain s) {a n : Nat} (ha : a + n ≤ 16384) (th : Option Nat) : s.spFailures 0 0 a n th = [] := by
  unfold State.spFailures
  rw [if_pos]
  refine List.all_eq_true.mpr (fun i hi => spOk_plain h ?_)
  have := List.mem_range.mp (List.mem_filter.mp hi).1; omega
theorem isFull_plain {s : State} (h : Plain s) {l : Nat} (hl : l < 128) : s.isFull 0 l = true := by
  unfold State.isFull; rw [h.full]; revert l; decide +kernel
theorem spLines_plain {a n : Nat} (ha : a + n ≤ 16384) {l : Nat × Nat} (hl : l ∈ spLines 0 a n) : l.1 = 0 ∧ l.2 < 128 := by
  unfold spLines at hl
  obtain ⟨i, hi, rfl⟩ := List.mem_map.mp hl
  have := List.mem_range.mp (List.mem_filter.mp hi).1
  rw [decode_plain (by omega)]; exact ⟨rfl, by dsimp only; omega⟩
theorem touch_plain {s : State} (h : Plain s) {a n : Nat} (ha : a + n ≤ 16384) (th : Option Nat) : s.touchFailures 0 a n th = [] := by
  have hs : s.sramFailures 0 a n th = [] := by unfold State.sramFailures; rw [if_pos h.bad]
  unfold State.touchFailures
  rw [hs, List.append_nil]
  refine List.flatMap_eq_nil_iff.mpr (fun l hl => ?_)
  obtain ⟨h1, h2⟩ := spLines_plain ha hl
  rw [h1, if_pos (isFull_plain h h2)]
theorem mem_tileCells {p : Nat × Nat} (h : p ∈ tileCells) : p.1 < 64 ∧ p.2 < 8 := by
  unfold tileCells at h
  obtain ⟨i, hi, h⟩ := List.mem_flatMap.mp h
  obtain ⟨q, hq, rfl⟩ := List.mem_map.mp h
  exact ⟨List.mem_range.mp hi, List.mem_range.mp hq⟩
/-- The descriptor of both tiles. -/
def desc0 : Desc := Desc.mk 0 256 0 0 0 0
theorem chunk_plain {i q : Nat} (hi : i < 64) (hq : q < 8) : desc0.chunk i q = some (i * 256 + 32 * q) := by
  have : 0 + i * 256 + 32 * q = i * 256 + 32 * q := by omega
  have h : i * 256 + 32 * q < 2 ^ 64 := by omega
  simp only [Desc.chunk, desc0, if_true, this, wrap64, Nat.mod_eq_of_lt h]
theorem chunks_plain {s : State} (h : Plain s) {x : Tile} (hc : x.core = 0) (hb : x.block = 0) : s.chunkFailures x desc0 = [] := by
  refine List.flatMap_eq_nil_iff.mpr (fun p hp => ?_)
  obtain ⟨h1, h2⟩ := mem_tileCells hp
  rw [chunk_plain h1 h2, hc, hb]; dsimp only; rw [spFailures_plain h (by omega)]; rfl
theorem touches_plain {s : State} (h : Plain s) {x : Tile} (hc : x.core = 0) {l : List (Nat × Nat)} (hl : ∀ q ∈ l, q.1 + q.2 ≤ 16384) :
    s.spansTouch x l = [] := by
  refine List.flatMap_eq_nil_iff.mpr (fun q hq => ?_)
  rw [hc, touch_plain h (hl q hq)]; rfl
theorem spans_plain : ∀ q ∈ desc0.spans, q.1 + q.2 ≤ 16384 := by
  intro q hq
  obtain ⟨p, hp, h⟩ := List.mem_filterMap.mp hq
  obtain ⟨h1, h2⟩ := mem_tileCells hp
  rw [chunk_plain h1 h2] at h
  cases h; dsimp only; omega
theorem sideSpans_plain : ∀ q ∈ desc0.sideSpans, q.1 + q.2 ≤ 16384 := by
  intro q hq
  obtain ⟨i, hi, rfl⟩ := List.mem_map.mp hq
  have := List.mem_range.mp hi
  simp only [desc0, wrap64]; omega
theorem desc_tileX : descOf tileX.t 3 = desc0 ∧ descOf tileX.t 6 = desc0 := by decide +kernel
theorem side_plain {s : State} (h : Plain s) {x : Tile} (hc : x.core = 0) (hb : x.block = 0) (w : Bool) : s.sideFailures x desc0 w = [] := by
  unfold State.sideFailures; rw [hc, hb, spFailures_plain h (by decide)]; rfl
theorem operands_plain {s : State} (h : Plain s) {f : TFmt} (ha : f.ta = 3) (hg : gaOf f = false) (side : Bool) :
    s.operandA tileX f side = [] ∧ (f.tb = 6 → s.operandB tileX f side = []) := by
  have hc := chunks_plain h (x := tileX) rfl rfl
  have hs := side_plain h (x := tileX) rfl rfl false
  have h1 := touches_plain h (x := tileX) rfl spans_plain
  have h2 := touches_plain h (x := tileX) rfl sideSpans_plain
  have hda : descOf tileX.t f.ta.toNat = desc0 := by rw [ha]; exact desc_tileX.1
  have hf : s.gaFailures tileX f = [] := by unfold State.gaFailures; rw [hg]; rfl
  have hd : ∀ ga, desc0.failures ga = [] := by decide
  constructor
  · simp only [State.operandA, hda, hf, hg, hd, hc, hs, h1, h2]; cases side <;> rfl
  · intro hb
    have hdb : descOf tileX.t f.tb.toNat = desc0 := by rw [hb]; exact desc_tileX.2
    simp only [State.operandB, hdb, hd, hc, hs, h1, h2]; cases side <;> rfl

/-! A first page of 1 GiB that maps its addresses on themselves. -/

/-- The tables of the machine, and dies without a lost unit. -/
structure Flat (s : State) : Prop where
  ctx : (s.ctx? 0).map (fun x => (x.root, x.held, x.vacqs)) = some (0x10000, [], [])
  t0 : s.num 0x10000 8 = 0x11001
  t1 : s.num 0x11000 8 = 0x12001
  t2 : s.num 0x12000 8 = 0x1F
  dies : s.dies = []
  trans : s.trans = []

theorem lostOn_flat {s : State} (h : Flat s) (a m : Nat) : s.lostOn a m = [] := by
  unfold State.lostOn State.die; rw [h.dies]; cases dramDie a
  · dsimp only; split <;> rfl
  · rfl
theorem lost_flat {s : State} (h : Flat s) (a m : Nat) : s.lostIn a m = false := by unfold State.lostIn; rw [lostOn_flat h]; rfl
theorem peer_flat {s : State} {a m : Nat} (ha : a + m ≤ 2 ^ 55) : s.peerLost a m = none := by
  unfold State.peerLost
  exact if_pos (by omega)
theorem sound_flat {s : State} (h : Flat s) {a m : Nat} (ha : a + m ≤ 2 ^ 55) : s.sound a m = true := by
  simp only [State.sound, lost_flat h, peer_flat ha]; rfl
theorem leaf_flat {s : State} (h : Flat s) {va : Nat} (hv : va < 2 ^ 30) : s.leafFor 0 va = .leaf (Leaf.mk 0x1F 0x12000 30) := by
  have hc := h.ctx
  unfold State.leafFor
  cases hx : s.ctx? 0 with
  | none => rw [hx] at hc; simp at hc
  | some x =>
    rw [hx] at hc
    simp only [Option.map_some, Option.some.injEq, Prod.mk.injEq] at hc
    have e (lo n : Nat) (hl : 30 ≤ lo) : bits va lo n = 0 := by
      have h1 : va / 2 ^ lo = 0 := Nat.div_eq_of_lt (Nat.lt_of_lt_of_le hv (Nat.pow_le_pow_right (by decide) hl))
      simp only [bits, Nat.shiftRight_eq_div_pow, h1, Nat.zero_mod]
    have hw : s.walk x.root va = .leaf (Leaf.mk 0x1F 0x12000 30) := by
      have n0 := h.t0
      have n1 := h.t1
      have n2 := h.t2
      have s0 := sound_flat h (a := 0x10000) (m := 8) (by decide)
      have s1 := sound_flat h (a := 0x11000) (m := 8) (by decide)
      have s2 := sound_flat h (a := 0x12000) (m := 8) (by decide)
      simp only [State.walk, levels, walkFrom, hc.1, s0, s1, s2, e 48 9 (by decide), e 39 9 (by decide), e 30 9 (by decide), n0, n1, n2, Nat.mul_zero, Nat.add_zero,
        show bits 0x11001 12 44 * 4096 = 0x11000 from by decide, show bits 0x12001 12 44 * 4096 = 0x12000 from by decide]
      rfl
    have ht : s.ownTrans 0 va = none := by unfold State.ownTrans; rw [h.trans]; rfl
    simp only [ht, hc.2.1, Ctx.heldLeaf, Sparse.get, List.findSome?_nil, hw]
theorem page_flat {s : State} (h : Flat s) {va n : Nat} (hv : va < 2 ^ 30) (hn : n ≤ 2 ^ 30) (k : Access) (st : Option Bool) (hs : st ≠ some true) (th : Option Nat) :
    s.pageFailures 0 va n k st th = [] := by
  have hp : (Leaf.mk 0x1F 0x12000 30).pa va < 2 ^ 30 := by
    have : (Leaf.mk 0x1F 0x12000 30).frame = 0 := by decide
    simp only [Leaf.pa, this, Nat.zero_add]; exact Nat.mod_lt _ (by decide)
  have hl := lost_flat h
  have hu : s.peerLost ((Leaf.mk 0x1F 0x12000 30).pa va) n = none := peer_flat (by omega)
  simp only [State.pageFailures, leaf_flat h hv, hl, hu]
  rcases st with _ | _ | _ <;> first | (cases k <;> rfl) | exact absurd rfl hs
theorem span_flat {s : State} (h : Flat s) {va n : Nat} (hv : va + n ≤ 2 ^ 30) (hn : 0 < n) (k : Access) (st : Option Bool) (hs : st ≠ some true)
    (th : Option Nat) : s.spanFailures 0 va n k st th = [] := by
  have c (a : Nat) (ha : a < 2 ^ 30) : canonical a = true := by
    have : a >>> 56 = 0 := by rw [Nat.shiftRight_eq_div_pow]; omega
    simp [canonical, this]
  have hw : wrap64 (va + n - 1) < 2 ^ 30 := by unfold wrap64; omega
  unfold State.spanFailures
  rw [c va (by omega), c _ hw]
  refine List.flatMap_eq_nil_iff.mpr (fun p hp => ?_)
  have hn0 : n ≠ 0 := by omega
  simp only [pagePieces, hn0, if_false] at hp
  obtain ⟨i, hi, rfl⟩ := List.mem_map.mp hp
  have := List.mem_range.mp hi
  dsimp only
  have : max va ((va / 65536 + i) * 65536) < 2 ^ 30 := by omega
  exact page_flat h (by omega) (by omega) k st hs th
theorem add_flat {s : State} (h : Flat s) {va n : Nat} (hv : va + n ≤ 2 ^ 30) (hn : 0 < n) : s.addFailures 0 va n = [] := by
  simp only [State.addFailures, span_flat h hv hn .write (some false) (by decide), span_flat h hv hn .read none (by decide)]; rfl

/-- No bank of the machine is being switched. -/
theorem still_tileBase (l : List (Nat × Nat)) : tileBase.switchingOf l = none := by
  unfold State.switchingOf
  refine List.find?_eq_none.mpr (fun q _ => ?_)
  have hc : ∀ c, (tileBase.core c).banks = demoCore.banks ∨ (tileBase.core c).banks = [] := by
    intro c
    by_cases h : c = 0
    · subst h; exact .inl rfl
    · right; simp only [State.core, tileBase, Sparse.get]; rw [if_neg (Ne.symm h)]; rfl
  have hb : ∀ n, (Sparse.get Bank.idle demoCore.banks n).switching = false := by
    intro n
    simp only [demoCore, Sparse.get]
    split
    · rfl
    · split <;> rfl
  unfold Core.bank
  rcases hc q.1 with h | h
  · rw [h]; simp [hb]
  · rw [h]; simp [Sparse.get, Bank.idle, Bank.fresh]

theorem plain_tileBase : Plain tileBase := ⟨rfl, rfl, rfl, rfl⟩
theorem flat_tileBase : Flat tileBase := ⟨by decide +kernel, by decide +kernel, by decide +kernel, by decide +kernel, rfl, rfl⟩

def wl1 : TFmt := { ts with ta := 14 }

theorem witness_MatrixIssue :
    (∀ x, MeetsT x [.tnorm { mm with tb := 0 }, .mma { mm with mod := 3 }, .mmac mma1, .mmk { mm with tc := 13 }, .wlinit { ts with imm := 1 }, .wlflr ts, .wlst wl1,
      .wlmrg wl1]) ∧ 4 ≤ (busyT 4).flight.length ∧ tileX.flight.length < 4 ∧ ({ tileX with lease := .none } : Tile).lease = .none ∧
    (∀ l, tileBase.switchingOf l = none) ∧
    (let s := tileBase
     s.operandA tileX { mm with tb := 0 } false ++ s.sideFailures tileX (descOf tileX.t 3) true = [] ∧
     s.operandA tileX { mm with mod := 3 } false ++ s.operandB tileX { mm with mod := 3 } false ++ formatFailures tileX { mm with mod := 3 } = [] ∧
     s.holdsMatrix 0 0 = true ∧
     s.operandA tileX mma1 false ++ s.operandB tileX mma1 false ++ formatFailures tileX mma1 = [] ∧
     (targetOf tileX.t mma1).ok = true ∧ (∀ p ∈ (targetOf tileX.t mma1).spans, s.addFailures 0 p.1 p.2 = []) ∧
     s.operandA tileX { mm with tc := 13 } true ++ s.operandB tileX { mm with tc := 13 } true ++ formatFailures tileX { mm with tc := 13 } ++
       s.listFailures tileX 0 true = [] ∧ (tileX.rt 13).toNat + 63 < 2 ^ 32 - 1 ∧
     s.listFailures tileX 0 false = [] ∧ s.imageFailures tileX false true 0x50000 (320 + 512 * (s.listAhead tileX 0).1) = [] ∧
     s.imageFailures tileX false false 0x50000 64 = [] ∧ ofLe (s.imageRead tileX false 0x50000 4) = 1 ∧
     s.imageFailures tileX false false 0x50000 832 = []) := by
  have hp := plain_tileBase
  have hf := flat_tileBase
  have a (f : TFmt) (ha : f.ta = 3) (hg : gaOf f = false) (side : Bool) := (operands_plain hp ha hg side).1
  have b (f : TFmt) (ha : f.ta = 3) (hb : f.tb = 6) (hg : gaOf f = false) (side : Bool) := (operands_plain hp ha hg side).2 hb
  have hl : (tileBase.listAhead tileX 0).1 = 1 := by decide +kernel
  refine ⟨fun x => meetsT x _ (by decide +kernel), by decide +kernel, by decide +kernel, rfl, still_tileBase, ?_, ?_, by decide +kernel, ?_, by decide +kernel, ?_, ?_,
    by decide +kernel, by decide +kernel, ?_, ?_, by decide +kernel, ?_⟩
  · rw [a _ rfl rfl, desc_tileX.1, side_plain hp rfl rfl true]; rfl
  · rw [a _ rfl rfl, b _ rfl rfl rfl]; rfl
  · rw [a _ rfl rfl, b _ rfl rfl rfl]; rfl
  · have h : (targetOf tileX.t mma1).spans.all (fun p => decide (p.1 + p.2 ≤ 2 ^ 30) && decide (0 < p.2)) = true := by decide +kernel
    intro p hp
    have := List.all_eq_true.mp h p hp
    simp only [Bool.and_eq_true, decide_eq_true_eq] at this
    exact add_flat hf this.1 this.2
  · rw [a _ rfl rfl, b _ rfl rfl rfl]; decide +kernel
  · unfold State.imageFailures; rw [hl]
    have hb : tileBase.badSpan (tileBase.ctxOf tileX.launch) 0x50000 (320 + 512 * 1) false = none := by decide +kernel
    simp only [if_true, Bool.false_eq_true, if_false, hb, List.append_nil]
    exact congrArg asGlobal (span_flat hf (by decide) (by decide) .write (some false) (by decide) none)
  · exact congrArg asGlobal (span_flat hf (by decide) (by decide) .read none (by decide) none)
  · exact congrArg asGlobal (span_flat hf (by decide) (by decide) .read none (by decide) none)

/-- One instruction in flight; a queue of `q` rows. -/
def commitX (i : Instr) : Tile := { tileX with flight := [flying i] }
def commitS (q : Nat) (i : Instr) : State := { tileS (commitX i) i with cores := [(0, { tileCore with holder := some 0, queue := List.replicate q [] })] }

theorem flying_full {s : State} (h : (s.core 0).full = tileCore.full) {i : Instr} : s.operandsFull (flying i) = true := by
  simp only [State.operandsFull, State.isFull, flying, List.all_cons, List.all_nil, h]; decide +kernel

/-- The first word of bank 0 and winner list 0 cannot be corrected. -/
def spoil (s : State) : State := { s with cores := s.cores.map (fun p => (p.1, { p.2 with bad := [.sram 0, .list 0] })) }

theorem witness_MatrixCommits :
    (∀ i, (commitS 0 i).tile? 0 = some (commitX i) ∧ (commitX i).discarded.head? = some (flying i) ∧ (commitX i).live = true) ∧
    (∀ i ∈ [Instr.tnorm { mm with tb := 0 }, .mma mma1, .mmk { mm with tc := 13 }, .wlinit { ts with imm := 1 }, .wlflr { ts with mod := 1 }, .wlmrg wl1, .wlst wl1],
      (commitS 0 i).operandsFull (flying i) = true ∧ (commitS 0 i).operandBad (commitX i) (flying i) = none) ∧
    (∀ i ∈ [Instr.tnorm { mm with tb := 0 }, .mma mma1, .mmk { mm with tc := 13 }, .wlflr { ts with mod := 1 }, .wlmrg wl1, .wlst wl1],
      (spoil (commitS 0 i)).operandBad (commitX i) (flying i) = some 0) ∧
    (∀ q ∈ [192, 193], ((commitS q (.mma mma1)).core 0).queue.length = q) ∧
    (OnePage (tReg tileX.t 14) ((commitS 0 (.wlst wl1)).list 0 0).image.length ∧
      (commitS 0 (.wlst wl1)).pa? 0 (tReg tileX.t 14) = some 0x50000) := by
  refine ⟨fun _ => ⟨rfl, rfl, rfl⟩, fun i _ => ⟨flying_full rfl, rfl⟩, by decide +kernel, by decide +kernel, by unfold OnePage; decide +kernel,
    by decide +kernel⟩

/-- A contribution with number 1, its tag before it; two contributions of which the first has not reached the line. -/
def mmac1 (ord : BitVec 16) : Instr := .mmac { mma1 with mod := ord }
def macS (tag : Nat) (i : Instr) : State := (commitS 0 i).setNum 0x30000 128 tag
def lineE (r : Nat) : Inflight := { flying (mmac1 0) with applied := true, lines := [0x40000], words := List.replicate 4096 0, release := r }
def lineS (l : List Inflight) : State := { tileS { tileX with flight := l } (mmac1 0) with issue := none }

theorem witness_MatrixAccumulates :
    (∀ n, ∀ m ∈ [0, 8], (macS n (mmac1 m)).tile? 0 = some (commitX (mmac1 m)) ∧ (commitX (mmac1 m)).discarded.head? = some (flying (mmac1 m)) ∧
      (commitX (mmac1 m)).live = true ∧ (macS n (mmac1 m)).operandsFull (flying (mmac1 m)) = true) ∧ (macS 0 (mmac1 8)).spanFailures 0 0x30000 128 .read none none = [] ∧
    (∀ m : BitVec 16, (targetOf (flying (mmac1 m)).t { mma1 with mod := m }).n = 1) ∧
    (∀ v ∈ [0, 1, 2], (macS v (mmac1 8)).vnum 0 0x30000 128 = v) ∧
    ((lineS [lineE 1]).tile? 0).map (·.flight) = some [lineE 1] ∧ (lineS [lineE 1]).pa? 0 0x40000 = some 0x40000 ∧
    (lineS [lineE 1]).earlierOn 0x40000 1 = false ∧ (lineS [lineE 2, lineE 1]).earlierOn 0x40000 2 = true ∧ OnePage 0x40000 128 ∧
    ((lineE 1).sumsOn (targetOf (lineE 1).t mma1) 0x40000).length = 32 := by
  refine ⟨fun n m hm => ⟨rfl, rfl, rfl, flying_full rfl⟩, by decide +kernel, fun m => rfl, by decide +kernel, rfl, by decide +kernel, by decide +kernel, by decide +kernel,
    ⟨by decide, by decide, by decide⟩, by decide +kernel⟩

def pop1 : VFmt := { v0 with d := 4, type := 10, type2 := 10, selD := 15, selA := 15, selB := 15, src := .regs 0 0 0 15 }
def wlr1 : VFmt := { pop1 with type := 7, type2 := 7 }
def heldQ (q : List (List (BitVec 32))) (h : Option Nat) : State := { demoBase with cores := [(0, { tileCore with queue := q, holder := h })] }

theorem witness_QueueAndListReads :
    Meets [.aqpop pop1, .wlrd wlr1] ∧ (∀ q h i, Issued (demoWith (heldQ q h) demoX i) (demoK i) 0 demoX i) ∧
    demoX.enabledSet pop1.g 3 0 = [0, 1] ∧ demoX.enabledSet never 3 0 = [] ∧ ((heldQ [] none).core 0).holder ≠ some demoX.block ∧
    ((heldQ [] (some 0)).core 0).holder = some demoX.block ∧ ((heldQ [[1]] (some 0)).core 0).queue = [[1]] ∧
    (heldQ [[1]] (some 0)).popTurn 0 0 = true ∧ ((heldQ [] (some 0)).list 0 0).k ≠ 0 ∧ ((heldQ [] (some 0)).list 0 1).k = 0 :=
  ⟨meets _ (by decide +kernel), fun q h i => issued_with _ _ i, by decide, by decide, by decide, rfl, rfl, by decide +kernel,
    by decide +kernel, by decide +kernel⟩

/-! #### Neighbour lists, KV table, prefix index, collectives -/

/-- Words of 4 bytes put into the memory of the machine. -/
def words4 (l : List (Nat × Nat)) : State := l.foldl (fun s p => s.setNum p.1 4 p.2) demoBase
/-- A grid of one cell at 0x4000, its status binned; with `x`, its one particle was binned elsewhere. -/
def gridMem (x : Nat) : State := words4 ([(0x400C, 0x3F800000), (0x4010, 0x3F800000), (0x4014, 0x3F800000), (0x401C, 0x00010001),
  (0x4020, 0x00080001), (0x4024, 0x3E800000), (0x402C, 1), (0x4030, 0x6000), (0x4038, 0x7000), (0x4040, 0x5000), (0x5000, 1),
  (0x7000, 1), (0x7030, x)])
def grid1 : Grid := gridOf ((gridMem 0).vread 0 0x4000 128)
def nl1 : EFmt := { e0 with sa := 1 }
def sweep1 : EFmt := { nl1 with imm := 1, ext := 1 }
def nlS (x : Nat) (i : Instr) (w : Work) : State :=
  let o := op0 i .cp w
  { stateOf (gridMem x) (opG demoX o) with dies := [(0, { Die.reset with neigh := [(OpRef.mk 0 0, 0x4000)], granted := [.op (OpRef.mk 0 0)] })] }

theorem witness_Neighbours :
    Meets [.nlbin nl1, .nlsweep sweep1, .nlstat { nl1 with sd := 3 }] ∧ (∀ i, Issued (demoWith (gridMem 0) demoX i) (demoK i) 0 demoX i) ∧
    demoX.enabled uni (leader 3) 0 = true ∧ (gridMem 0).gridFailures demoX 0x4000 false = [] ∧ (gridMem 0).gridFailures demoX 0x4000 true = [] ∧
    ((gridMem 0).core 0).bank 1 = Bank.fresh .fifo (some 0) ∧ (gridMem 0).spanFailures 0 0x4040 8 .read none none = [] ∧
    (gridMem 0).spanFailures 0 0x5000 8 .read none none = [] ∧ (gridMem 0).cacheFailures 0 0 2 0x4040 8 none = [] ∧
    (gridMem 0).descBad 0 0 2 0x4000 128 = none ∧
    (let s := (gridMem 0).setDie 0 { Die.reset with lost := [(0x4000, 128)] }
     s.descBad 0 0 2 0x4000 128 = some 0x4000 ∧ s.gridFailures demoX 0x4000 true = []) ∧
    (∀ p ∈ ([(Instr.nlbin nl1, Work.bin grid1), (.nlsweep sweep1, .sweep grid1 1 [0] [] 0 none), (.nlsweep sweep1, .sweep grid1 1 [] [(0, none)] 0 none),
        (.nlsweep sweep1, .sweep grid1 1 [] [(0, some [List.replicate 32 1])] 0 none), (.nlsweep sweep1, .sweep grid1 1 [] [] 0 none)] : List (Instr × Work)),
      let s := nlS 0 p.1 p.2
      s.group? 0 = some (opG demoX (op0 p.1 .cp p.2)) ∧ (opG demoX (op0 p.1 .cp p.2)).op? 0 = some (op0 p.1 .cp p.2) ∧
      s.neighTurn 0 (OpRef.mk 0 0) = true ∧ (s.as 0 0).badSpan 0 grid1.pos 16 true = none ∧ (s.as 0 0).badIn 0 ((grid1.status, 64) :: (List.range grid1.cells).flatMap (fun j => grid1.cellSpans j 1)) false = none ∧ (s.as 0 0).visitBad 0 grid1 0 = none ∧
      (s.as 0 0).badSpan 0 grid1.status 64 true = none ∧ s.mayPush 0 1 (.op 0 0) = true ∧ Leaser.op (OpRef.mk 0 0) ∈ (s.die 0).granted) ∧
    ((gridMem 0).visitCell 0 grid1 0).1 = [] ∧ least ((gridMem 0x3F000000).visitCell 0 grid1 0).1 = some 0 ∧ OnePage grid1.status 64 := by
  refine ⟨meets _ (by decide +kernel), fun i => issued_with _ _ i, by decide, by decide +kernel, by decide +kernel, by decide +kernel,
    by decide +kernel, by decide +kernel, by decide +kernel, by decide +kernel, by decide +kernel, by decide +kernel, by decide +kernel,
    by decide +kernel, ?_⟩
  unfold OnePage; decide +kernel

/-- A KV table of 64 entries at 0x40000: entry 0 is sequence 1, block 0, with REF `r`; entry 1 is pinned. -/
def kvMem (r : Nat) : State := words4 [(0x40008, 64), (0x4000C, 128), (0x40040, 1), (0x40048, r + 0x10000), (0x40058, 0x20000), (0x40440, 0xFFFFFFFF)]
def kvX (v : Word) : Group := { demoX with v := [(32, v)], s := [(1, 0x40000)] }
def kv1 : EFmt := { t0 with sa := 1, vx := 1, pf := 1 }
def kvOp (i : Instr) : Op := { op0 i .en (.threads [0, 1]) with sargs := [0x40000] }

theorem witness_KvTable :
    Meets [.kvx kv1, .kvins kv1, .kvref kv1, .kvref { kv1 with ext := 1 }] ∧ (∀ v i, Issued (demoWith (kvMem 2) (kvX v) i) (demoK i) 0 (kvX v) i) ∧
    (kvMem 2).kvFailures 0 0x40000 false = [] ∧ (kvMem 2).kvFailures 0 0x40000 true = [] ∧
    (∀ r v i, (stateOf (kvMem r) (opG (kvX v) (kvOp i))).group? 0 = some (opG (kvX v) (kvOp i)) ∧
      (opG (kvX v) (kvOp i)).op? 0 = some (kvOp i)) ∧
    (([1, 2, 0, 64].all (fun v => [Instr.kvx kv1, .kvins kv1, .kvref kv1, .kvref { kv1 with ext := 1 }].all (fun i =>
      let own := (stateOf (kvMem 2) (opG (kvX (BitVec.ofNat 64 v)) (kvOp i))).as 0 0
      (own.badIn 0 ((0x40000, 64) :: ((Kv.mk own 0 0x40000 64 []).touched i v).map (fun q => (wrap64 (0x40000 + q.1), q.2))) true).isNone))) = true) ∧
    (∀ r ∈ [0, 2, 0xFFFD], let at_ := fun (off q : Nat) => (kvMem r).vnum 0 (0x40000 + off) q
      at_ 8 4 = 64 ∧ at_ 0x40 4 = 1 ∧ at_ 0x44 4 = 0 ∧ at_ 0x48 2 = r ∧ at_ 0x4A 2 = 1 ∧ at_ 0x5A 2 = 2 ∧ at_ 0x6A 2 = 0 ∧
      at_ 0x440 4 = 2 ^ 32 - 1) ∧ ((1 : Nat) * 64 + 0 * 5) % 64 = 0 ∧ ((2 : Nat) * 64) % 64 = 0 ∧ OnePage 0x40048 2 ∧
      (kvMem 2).pa? 0 0x40048 = some 0x40048 := by
  refine ⟨meets _ (by decide +kernel), fun v i => issued_with _ _ i, by decide +kernel, by decide +kernel, fun _ _ _ => ⟨rfl, rfl⟩,
    by decide +kernel, by decide +kernel, by decide, by decide, ⟨by decide, by decide, by decide⟩, by decide +kernel⟩

/-- A prefix index of 64 entries at 0x4000, whose entries stand at 0x8000; slots 5 to 5 + `n` − 1 are taken. -/
def pfxMem (n : Nat) : State :=
  let t := words4 ([(0x4000, 0x8000), (0x4008, 64), (0x4010, 0x40000), (0x40008, 64), (0x4000C, 128)] ++
    (List.range n).flatMap (fun j => [(0x8000 + 32 * (5 + j), 5 + j), (0x8004 + 32 * (5 + j), 1), (0x8008 + 32 * (5 + j), 1), (0x800C + 32 * (5 + j), 7)]))
  { t with launches := [(0, demoLaunch)] }
def pfxX (v : Word) : Group := { demoX with v := [(32, v)], s := [(1, 0x4000), (2, 0x6000)] }
def pfh : EFmt := { e0 with sa := 2, vx := 2 }
def pfl : EFmt := { e0 with sd := 3, sa := 1, sb := 2, vx := 2 }
def pfi : EFmt := { t0 with sa := 1, vx := 1, pf := 1 }
def pfOp (i : Instr) : Op := { op0 i .en (.threads [0, 1]) with sargs := [0x4000, 0x6000], targs := [(0, 0), (1, 0)] }

theorem witness_PrefixIndex :
    Meets [.pfxh pfh, .pfxl pfl, .pfxi pfi] ∧ (∀ v i, Issued (demoWith (pfxMem 1) (pfxX v) i) (demoK i) 0 (pfxX v) i) ∧
    (pfxX 0).enabled uni (leader 3) 0 = true ∧ ((pfxX 0).rs 2).toNat % 4 = 0 ∧ (pfxMem 1).spanFailures 0 0x6000 64 .read none none = [] ∧
    (pfxMem 1).badSpan 0 0x6000 64 true = none ∧ (pfxMem 1).pfxlFailures 0 0 0x4000 0x6000 1 = [] ∧ (pfxMem 1).spanFailures 0 0x4000 64 .read none none = [] ∧
    prefixOk ((pfxMem 1).vread 0 0x4000 64) = true ∧ (pfxMem 1).updateFailures 0 0x8000 (32 * 64) none = [] ∧
    (∀ n v i, let x := opG (pfxX v) (pfOp i)
      (stateOf (pfxMem n) x).group? 0 = some x ∧ x.op? 0 = some (pfOp i)) ∧
    ([0x700010005, 0x10005, 65521, 5].map (fun v => ((pfxX v).rv 0 1).toNat) = [5 + 65536 + 7 * 2 ^ 32, 5 + 65536, 65521, 5]) ∧
    ((pfxMem 1).spoiled 0 0x4000 64 = false) ∧
    (let s := stateOf (pfxMem 1) (opG (pfxX 0) (pfOp (.pfxl pfl)))
     let out := (s.as 0 0).prefixLookup 0 0 0x4000 0x6000 1
     (s.as 0 0).vnum 0 0x4010 8 = 0x40000 ∧ (s.as 0 0).badIn 0 [(0x4000, 64), (0x40000, 64), (0x6000, 64)] true = none ∧
     (s.as 0 0).badIn 0 (out.ents.map (fun a => (a, 32)) ++ out.read.map (fun a => (a, 64))) true = none ∧
     (s.as 0 0).newFailures 0 (pfOp (.pfxl pfl)) out.read = []) ∧
    ([1, 4].all (fun n => let own := (stateOf (pfxMem n) (opG (pfxX 0) (pfOp (.pfxi pfi)))).as 0 0
     (own.badIn 0 ((0x4000, 64) :: (own.insertSeen (own.pfxTab 0 0x4000) 5 1 7 [0, 1, 2, 3]).map (fun a => (a, 32))) true).isNone)) = true ∧
    (∀ n ∈ [1, 4], ∀ r < 5, ((pfxMem n).vnum 0 (0x8000 + 32 * (5 + r) + 8) 4).testBit 0 = decide (r < n)) ∧
    ((pfxMem 1).vnum 0 (0x8000 + 32 * 5) 4 = 5 ∧ (pfxMem 1).vnum 0 (0x8000 + 32 * 5 + 4) 4 = 1 ∧ (pfxMem 1).vnum 0 (0x8000 + 32 * 5 + 12) 4 = 7) ∧
    OnePage (0x8000 + 32 * 6) 32 ∧ (pfxMem 1).pa? 0 (0x8000 + 32 * 6) = some (0x8000 + 32 * 6) := by
  refine ⟨meets _ (by decide +kernel), fun v i => issued_with _ _ i, by decide, by decide, by decide +kernel, by decide +kernel,
    by decide +kernel, by decide +kernel, by decide +kernel, by decide +kernel, fun _ _ _ => ⟨rfl, rfl⟩, by decide +kernel, by decide +kernel,
    by decide +kernel, by decide +kernel, by decide +kernel, by decide +kernel, ⟨by decide, by decide, by decide⟩, by decide +kernel⟩

/-- A descriptor of four sums at 0x4000: contributors 0 and 1 expected, generation `gen`, contributions `pend`, a deadline. -/
def collMem (gen pend deadline : Nat) : State := onDie freeQ (words4 [(0x4000, 1), (0x4004, 4), (0x4008, 3), (0x400C, gen), (0x4010, 0x6000),
  (0x4018, deadline), (0x4028, pend)])
def coll1 : EFmt := { e0 with sd := 3, sa := 1, sb := 2, sc := 4 }
def collOp (who : BitVec 16) : Op := { op0 (.coll { coll1 with imm := who }) .en (.threads [0]) with sargs := [0x4000, 0x5000, 9] }

theorem witness_Collectives :
    Meets [.coll coll1, .collw { nl1 with sd := 3 }] ∧ (∀ a b d i, Issued (demoWith (collMem a b d) demoX i) (demoK i) 0 demoX i) ∧
    demoX.enabled uni (leader 3) 0 = true ∧
    (let s := collMem 0 0 0
     s.updateFailures 0 0x4000 64 none = [] ∧ s.spanFailures 0 0x4000 64 .read none none = [] ∧ collOk (s.vread 0 0x4000 64) = true ∧
     s.spanFailures 0 0x6000 (collOf (s.vread 0 0x4000 64)).bytes .write (some false) none = []) ∧
    (∀ gen ∈ [0, 1], numAt ((collMem gen 0 0).vread 0 0x4000 64) 0x0C 4 = gen) ∧
    (∀ w, let o := collOp w
      (stateOf (collMem 0 1 0) (opG demoX o)).group? 0 = some (opG demoX o) ∧ (opG demoX o).op? 0 = some o) ∧
    ((collMem 0 1 0).spoiled 0 0x4000 64 = false ∧ OnePage 0x4000 64 ∧ (collMem 0 1 0).pa? 0 0x4000 = some 0x4000 ∧
      (collMem 0 1 0).pa? 0 0x4028 = some 0x4028 ∧ (collOf ((collMem 0 1 0).vread 0 0x4000 64)).expect = 3 ∧
      (collOf ((collMem 0 1 0).vread 0 0x4000 64)).pending = 1) ∧
    (∀ p ∈ [(0, 0), (1, 1000), (1, 999), (3, 1000)], let s := collMem 0 p.1 p.2
      let d := collOf (s.vread 0 0x4000 64)
      (s.collView 0 0x4000).spoiled 0 0x4000 64 = false ∧
      [d.expect, d.pending, d.deadline, s.earliest (s.homeDie 0 0x4000)] = [3, p.1, p.2, 1000]) := by
  refine ⟨meets _ (by decide +kernel), fun a b d i => issued_with _ _ i, by decide, by decide +kernel, by decide +kernel, fun _ => ⟨rfl, rfl⟩,
    by unfold OnePage; decide +kernel, by decide +kernel⟩

/-! #### Fetches, exchanges and the step -/

/-- A word placed where a group or a context fetches; the instruction whose word it is. -/
def fetchS (tile : Bool) (i : Instr) : State := State.reset.loadWord tile (encode i).toNat
def fetchX : Group := startGroup 0 0 0 0 0 (loadLaunch false) true 0
def fetchT : Tile := startTile 0 0 0 0 (loadLaunch true)
/-- A word of no instruction, and an older operation that holds V64. -/
def badS (tile : Bool) : State := State.reset.loadWord tile 0x093C00000000000000000000
def lockX : Group := { fetchX with ops := [{ op0 (.ld m64) .ld .idle with holds := [.v 64] }], nextOp := 1 }

theorem error_of {ε α : Type} {e : Except ε α} {p : ε → Bool} (h : (match e with | .error f => p f | .ok _ => false) = true) :
    ∃ f, e = .error f ∧ p f = true := by
  cases e with
  | error f => exact ⟨f, rfl, h⟩
  | ok i => cases h
theorem ok_of {ε α : Type} [DecidableEq α] {e : Except ε α} {j : α} (h : (match e with | .ok i => decide (i = j) | .error _ => false) = true) :
    e = .ok j := by
  cases e with
  | error f => cases h
  | ok i => rw [of_decide_eq_true h]

theorem witness_GroupFetches :
    (∀ s x, (s, x) ∈ [(fetchS false (.vadd v32), fetchX), (badS false, fetchX), (stateOf (fetchS false (.vadd v32)) lockX, lockX)] →
      s.group? 0 = some x ∧ s.issue = none ∧ x.active = true ∧ s.groupReady 0 x = true ∧ s.blockRuns x.block = true ∧
      s.holds x = true ∧ x.placedAt ≤ s.clk ∧ x.undefer.selectFetch = some (0, Rotation.mk 0 0 0 0) ∧ x.issuedAt ≠ some s.clk ∧
      (s.groups.filter (fun p => p.2.core == x.core && p.2.part == x.part && p.2.issuedAt == some s.clk)).length < 2 ∧
      s.fetchTurn 0 x = true) ∧
    ((fetchS false (.vadd v32)).fetchAlone 0).isSome = true ∧
    (fetchS false (.vadd v32)).readUnit 0 false (some 2048) 0 true = .ok (.vadd v32, none) ∧ fetchX.mayIssue 1 (.vadd v32) = true ∧
    lockX.mayIssue 1 (.vadd v32) = false ∧
    (∃ f, (badS false).readUnit 0 false (some 2048) 0 true = .error f ∧ (f.info.cause == 1) = true) := by
  refine ⟨?_, by decide +kernel, ok_of (by decide +kernel), by decide +kernel, by decide +kernel, error_of (by decide +kernel)⟩
  intro s x h
  simp only [List.mem_cons, List.not_mem_nil, or_false, Prod.mk.injEq] at h
  rcases h with ⟨rfl, rfl⟩ | ⟨rfl, rfl⟩ | ⟨rfl, rfl⟩ <;>
    exact ⟨rfl, rfl, rfl, by decide +kernel, by decide +kernel, by decide +kernel, by decide +kernel, by decide +kernel, by decide, by decide +kernel,
      by decide +kernel⟩

theorem witness_ContextFetches :
    (∀ s ∈ [fetchS true (.tend ts), badS true], s.tile? 0 = some fetchT ∧ s.issue = none ∧ fetchT.status = .ready ∧
      fetchT.resident = true ∧ s.blockRuns fetchT.block = true ∧ s.tileWaits fetchT = false) ∧
    (fetchS true (.tend ts)).readUnit 0 true none 0 true = .ok (.tend ts, none) ∧
    (∃ f, (badS true).readUnit 0 true none 0 true = .error f ∧ (f.info.cause == 1) = true) := by
  refine ⟨?_, ok_of (by decide +kernel), error_of (by decide +kernel)⟩
  intro s h
  simp only [List.mem_cons, List.not_mem_nil, or_false] at h
  rcases h with rfl | rfl <;> exact ⟨rfl, rfl, rfl, rfl, by decide +kernel, by decide +kernel⟩

/-- `n` active groups, of which group 0 waits or not, and a pending group that has been Ready since clock 0. -/
def crowd (n : Nat) (wait : Option Wait) (clk : Nat) : State := { fetchS false (.nop v0) with
  groups := (List.range n).map (fun g => (g, { fetchX with wait := if g = 0 then wait else none })) ++
    [(n, { fetchX with active := false, readyAt := some 0 })]
  clk := clk }

theorem witness_Exchanges :
    (∀ c ∈ [0, 1], let x : Group := { fetchX with wait := some (.deferral 0), lastIssue := 1 - c }
      (stateOf { demoBase with clk := 1 } x).group? 0 = some x ∧ (x.lastIssue < 1 ↔ c = 1) ∧
      ((stateOf { demoBase with clk := 1 } x).exchange 0 0).isNone = true) ∧
    (((crowd 8 (some (.deferral 0)) 1024).exchange 0 0).isSome = true) ∧
    (∀ p ∈ [(0, 8), (1, 8), (7, 8), (8, 8)], let s := crowd p.1 (some (.deferral 0)) 1024
      let l := s.partGroups 0 0
      let pend := l.filter (fun p => !p.2.active && s.groupReady p.1 p.2)
      let act := l.filter (fun p => p.2.active)
      pend.map (·.1) = [p.1] ∧ act.length = p.1 ∧ (p.1 ≠ 0 → (act.any (fun o => !s.groupReady o.1 o.2)) = true)) ∧
    (let s := crowd 8 none 1024
     let act := (s.partGroups 0 0).filter (fun p => p.2.active)
     act.all (fun o => s.groupReady o.1 o.2) = true) ∧
    (∀ c ∈ [1023, 1024], let s := crowd 8 none c
      let pend := (s.partGroups 0 0).filter (fun p => !p.2.active && s.groupReady p.1 p.2)
      pend.filter (fun p => match p.2.readyAt with | some t => decide (max t p.2.placedAt + 1024 ≤ s.clk) | none => false) ≠ [] ↔ c = 1024) ∧
    (∀ p ∈ ((crowd 8 none 1024).partGroups 0 0).filter (fun p => p.2.active), p.2.placedAt ≠ 1024 + 2) := by
  refine ⟨?_, by decide +kernel, by decide +kernel, by decide +kernel, by decide +kernel, by decide +kernel⟩
  intro c h; simp only [List.mem_cons, List.not_mem_nil, or_false] at h; rcases h with rfl | rfl <;> exact ⟨rfl, by decide, by decide +kernel⟩

/-- The active set may be the whole of a group, and its last fetch unit any. -/
theorem witness_FetchSelection :
    fetchX.selectFetch = some (0, fetchX.rot) ∧ fetchX.rot.e = 0 ∧
    (let x : Group := { demoX2 with rot := Rotation.mk 0 0 0 3 }
     x.candidates.filter (fun t => x.rot.e.getLsbD t) ≠ [] ∧ x.selectFetch = some (2, Rotation.mk 0 0 0 0)) ∧
    (let x : Group := { demoX2 with rot := Rotation.mk 0 0 0 4 }
     x.candidates.filter (fun t => x.rot.e.getLsbD t) = [] ∧ (∃ r, x.selectFetch = some (2, r))) := by
  refine ⟨by decide +kernel, rfl, by decide +kernel, by decide +kernel, ⟨_, rfl⟩⟩

/-- Nothing else is due, and the one group is the one that fetches. -/
theorem fetch_own : (fetchS false (.vadd v32)).firstOf (fetchS false (.vadd v32)).ownSteps = none :=
  Option.isNone_iff_eq_none.mp (by decide +kernel)
theorem fetch_first (s : State) (p : Nat × Group) (h : s.stepNo % 2 = 0) (hg : issueOrder (s.groups.filter (fun p => p.2.active)) = [p])
    (hs : (s.fetchGroup p.1).isSome = true) : s.someFetch = s.fetchGroup p.1 := by
  obtain ⟨t, ht⟩ := Option.isSome_iff_exists.mp hs
  simp only [State.someFetch, State.someGroup, if_pos h, hg, List.findSome?, ht]

theorem witness_StepRunsDecoded :
    (demo (.vadd v32)).issue = some (demoK (.vadd v32)) ∧
    (let s : State := { demoBase with agenda := [Act.mk 0 (.coreGate 0)] }
     s.issue = none ∧ s.agenda = [Act.mk 0 (.coreGate 0)]) ∧
    (let s := fetchS false (.vadd v32)
     let l := s.vread 0 0 64
     s.issue = none ∧ s.agenda = [] ∧ s.firstOf s.ownSteps = none ∧ s.someFetch = s.fetchGroup 0 ∧
     s.promisedFetch.isNone = true ∧ s.upkeep.isNone = true ∧ s.fetchTurn 0 fetchX = true ∧ s.issueFree fetchX = true ∧ fetchX.bad = [] ∧
     s.spanFailures 0 0 64 .fetch none none = [] ∧ lineOk l = true ∧ bitAt (ofLe (l.take 4)) 0 = true ∧
     0 ∉ linePairs (ofLe (l.take 4)) ∧ decodeIn false (slotWord l 0) = .ok (.vadd v32) ∧
     (∀ r ∈ vNamed (.vadd v32), r < fetchX.vregs) ∧ s.group? 0 = some fetchX ∧ fetchX.active = true ∧ s.groupReady 0 fetchX = true ∧
     s.blockRuns 0 = true ∧ s.holds fetchX = true ∧ fetchX.placedAt ≤ s.clk ∧
     fetchX.undefer.selectFetch = some (0, Rotation.mk 0 0 0 0) ∧ fetchX.undefer.mayIssue 1 (.vadd v32) = true) := by
  refine ⟨rfl, ⟨rfl, rfl⟩, rfl, rfl, fetch_own, fetch_first _ (0, fetchX) rfl rfl (by decide +kernel), by decide +kernel,
    by decide +kernel, by decide +kernel, by decide +kernel, rfl, by decide +kernel, by decide +kernel, by decide +kernel, by decide +kernel,
    ok_of (by decide +kernel), by decide +kernel, rfl, rfl, by decide +kernel, by decide +kernel, by decide +kernel, by decide +kernel,
    by decide +kernel, by decide +kernel⟩

/-! #### Outside, Quartz, errors -/

/-- Ready, with the mailbox given; command `n` stands at 0x40 of host memory. -/
def fwS (n : Nat) (q : List Nat) : State := { demoBase.setNum (0x10000000000 + 0x40) 4 n with
  mstat := MStat.mk false 0 false false false true, mbox := Mailbox.mk q none none }
def coldS (n : Nat) : State := { fwS n [] with mstat := MStat.mk false 0 false false false false }

theorem witness_Mailbox :
    (∃ s : State, s.mstat.bootfail = true) ∧
    (∀ n ∈ [1, 10], (fwS n []).mstat.bootfail = false ∧ (fwS n []).fwVerdict 0x40 = none ∧ (fwS n [0x40]).mbox.queue = [0x40] ∧
      (fwS n [0x40]).fwVerdict 0x40 = none) ∧
    (∀ n ∈ [0, 11], (fwS n []).fwVerdict 0x40 = some 1) ∧ (fwS 1 []).mbox.queue = [] ∧
    (0x40 % 64 = 0 ∧ hostSpan 0x40 64 = true) ∧ ¬ (0x41 % 64 = 0 ∧ hostSpan 0x41 64 = true) ∧
    hostSpan (2 ^ 55 - 2 ^ 40) 64 = false ∧ hostSpan (2 ^ 55 - 2 ^ 40 - 64) 64 = true ∧
    (∀ n ∈ [2, 5], (coldS n).mstat.ready = false ∧ (coldS n).fwNumber 0x40 = n) ∧ (coldS 3).fwNumber 0x40 = 3 := by
  refine ⟨⟨{ fwS 0 [] with mstat := MStat.mk true 0 false false false true }, rfl⟩, by decide +kernel, by decide +kernel, rfl,
    by decide +kernel, by decide +kernel, by decide +kernel, by decide +kernel, by decide +kernel, by decide +kernel⟩

def ctxArgs (root : Nat) : FwCtxArgs := FwCtxArgs.mk root 0x40 0x80 0xC0 [0x100] [0x140]

theorem witness_ContextCommands :
    (fwS 1 [0x40]).fwHead 1 = some 0x40 ∧ ctxArgsOk (ctxArgs 0x1000) = true ∧ (fwS 1 [0x40]).freeCtx = some 1 ∧
    ctxArgsOk (ctxArgs 0x1040) = false ∧ (fwS 2 [0x40]).fwHead 1 = none ∧ (fwS 2 [0x40]).fwHead 2 = some 0x40 ∧
    (fwS 2 [0x40]).mbox.destroying = none ∧ (fwS 2 [0x40]).ctx? 1 = none ∧ (fwS 2 [0x40]).ctx? 0 = some loadCtx ∧
    (∀ o ∈ [none, some (0, 0)], let s : State := { fwS 2 [0x40] with
      mbox := Mailbox.mk [0x40] (some 0) none, launches := [(0, { demoLaunch with outcome := o })] }
      s.fwHead 2 = some 0x40 ∧ s.mbox.destroying = some 0 ∧ s.ctxOver 0 = o.isSome) := by
  refine ⟨by decide +kernel, by decide, by decide +kernel, by decide, by decide +kernel, by decide +kernel, rfl, by decide +kernel, rfl,
    by decide +kernel⟩

theorem witness_FirmwareSettings :
    (∀ n ∈ [3, 4, 5, 6, 7, 8, 9, 10], (fwS n [0x40]).fwHead n = some 0x40 ∧ (fwS 0 [0x40]).fwHead n = none ∧
      (fwS n [0x40]).mbox.queue.length ≤ 1) ∧
    (fwS 7 [0x40]).ctx? 0 = some loadCtx ∧ (fwS 7 [0x40]).ctx? 1 = none ∧ (∃ h : Nat, 1 ≤ h ∧ h ≤ 168) ∧ 168 < 169 := by
  refine ⟨by decide +kernel, rfl, by decide +kernel, ⟨168, by decide, by decide⟩, by decide⟩

def openCtx : State := { fwS 0 [] with ctxs := [(0, { loadCtx with readback := true })], launches := [(0, { demoLaunch with readback := true })] }

theorem witness_OutsideAccesses :
    (fwS 0 []).mstat.ready = true ∧ (coldS 0).mstat.ready = false ∧ (2 ^ 34 - 1 < 2 ^ 34) ∧ (2 ^ 34 ≤ 2 ^ 34) ∧
    ((dramDie 0x17FFFFFFFF).isSome = true ∧ dramDie 0x1800000000 = none) ∧
    (∀ a ∈ [8, 0xFF, 0x108, 0xFFF, 0x2000], 8 ≤ a ∧ (a < 0x100 ∨ 0x108 ≤ a) ∧ (a < 0x1000 ∨ 0x2000 ≤ a)) ∧
    openCtx.ctx? 0 = some { loadCtx with readback := true } ∧ openCtx.readObject 0 (.sreg 0 1) = some 0x4000 ∧
    Readback.sreg 0 1 ≠ .qstat 0 ∧ (∀ x, (fwS 0 []).ctx? 0 = some x → x.readback = false) ∧
    openCtx.group? 0 = some demoX ∧ openCtx.ctxOf demoX.launch = 0 ∧ openCtx.opened 0 0 = true ∧
    (({ demoX with wait := some (.phase 3) } : Group).status = .ready ∧ ({ demoX with status := .faulted rec0 none } : Group).status = .faulted rec0 none) := by
  refine ⟨rfl, rfl, by decide, by decide, by decide, by decide, rfl, by decide +kernel, by decide, ?_, rfl, by decide +kernel, by decide +kernel, rfl, rfl⟩
  intro x h; cases h; rfl

/-- Die 0 with the Quartz unit given, at clock `clk`, with one peer behind port 2. -/
def quartzS (q : Quartz) (clk : Nat) : State := { onDie q demoBase with clk := clk, peers := [(5, 2)], ptmBound := some 3 }
def asked0 (p : Party) (sent : Nat) (open_ : Bool) (a : Option (Nat × Nat)) : Quartz := { freeQ with probes := [Probe.mk p sent open_ a] }

theorem witness_QuartzProbes :
    (∀ p ∈ [Party.die 1, .peer 5, .control], (quartzS freeQ 0).partyOk 0 p = true) ∧
    (∀ p ∈ [Party.die 3, .die 0, .peer 6], (quartzS freeQ 0).partyOk 0 p = false) ∧
    (∀ p ∈ [Party.die 1, .peer 5, .control], ∀ clk ∈ [8000, 7999],
      (∀ r ∈ ((quartzS (asked0 p 0 true none) clk).die 0).quartz.probes, r.party = p → r.sent + 800 * 10 ≤ clk) ↔ clk = 8000) ∧
    ((quartzS freeQ 0).die 0).quartz.period = 10 ∧ 3 < 4 := by decide +kernel

theorem witness_QuartzSamples :
    (∀ p ∈ [Party.die 1, .peer 5, .control], ∀ q ∈ [asked0 p 0 true (some (1000, 2000)), asked0 p 0 true (some (2000, 2500)),
      asked0 p 0 true (some (2001, 2500)), asked0 p 0 true none, { asked0 p 0 true (some (1, 2)) with state := .unset }],
      (((quartzS q 0).die 0).quartz.probes.find? (fun r => r.party == p && r.open_)).isSome = true) ∧
    ((quartzS freeQ 0).earliest 0 = 1000 ∧ (quartzS freeQ 0).latest 0 = 2000) := by decide +kernel

theorem witness_QuartzStates :
    (∀ p ∈ [(8000000, true), (7999999, false)], let s := quartzS { freeQ with state := .locked } p.1
      ((s.die 0).quartz.state = .locked) ∧ (decide (1000 * 10 ≤ min (2 ^ 46 - 1) ((s.clk - (s.die 0).quartz.sampled) / 800)) = p.2)) ∧
    (∀ st ∈ [QState.locked, .free], ∀ p ∈ [(401001, true), (401000, false)], let s := quartzS { freeQ with state := st, l0 := p.1 } 0
      (s.die 0).quartz.state = st ∧ decide (2 * (s.die 0).quartz.qlim.toNat < s.latest 0 - s.earliest 0) = p.2) ∧
    ((quartzS Quartz.reset 0).die 0).quartz.state = .unset ∧ ((quartzS wideQ 0).die 0).quartz.state ≠ .unset := by decide +kernel

/-- A log with one record of a row's error, and `n` errors counted for that row. -/
def rowS (n : Nat) : State := { demoBase with
  log := [LogRec.mk 1 0x4000 0x40 0 1], rowErrors := [(Config.rowOf 0x40 * 4, n)] }
def linkS (n : Nat) (down : List Link) : State := { demoBase with linkErrs := [(.dieToDie 0 1, n)], downs := down }

theorem witness_LoggedErrors :
    ((0x5000 : BitVec 32).toNat / 4096 % 16 ≠ 4 ∧ (0x4000 : BitVec 32).toNat / 4096 % 16 = 4 ∧ dramDie 0x40 = some 0 ∧
      dramDie 0x1800000000 = none) ∧
    ((rowS 0).log.map (·.kind) = [1] ∧ (rowS 0).earliest 0 ≤ 0 + 1000000000) ∧
    (∀ n, (((rowS n).rowErrors.find? (fun p => p.1 == Config.rowOf 0x40 * 4 + 0)).map (·.2)).getD 0 = n) ∧ (14 + 1 < 16 ∧ 16 ≤ 15 + 1) ∧
    (∀ n ∈ [0, 15, 16], linkOk (.dieToDie 0 1) = true ∧ Link.dieToDie 0 1 ∉ (linkS n []).downs ∧ (linkS n []).retries (.dieToDie 0 1) = n) ∧
    (linkOk (.stolvin 15) = true ∧ linkOk (.stolvin 16) = false ∧ linkOk (.dieToDie 0 3) = false) ∧
    Link.dieToDie 0 1 ∈ (linkS 0 [.dieToDie 0 1]).downs := by
  refine ⟨by decide, by decide, ?_, by decide, by decide, by decide, by decide⟩
  intro n; simp [rowS]

/-- Die 0 with `n` lost units. -/
def lossS (n : Nat) : State := { fwS 0 [] with dies := [(0, { Die.reset with lost := (List.range n).map (fun k => (64 * k, 64)) })] }

theorem witness_LostUnits :
    (∀ n ∈ [63, 64], ((lossS n).die 0).lost.length = n ∧ (0, 64) ∈ ((lossS n).die 0).lost ∧ (0x2000, 64) ∉ ((lossS n).die 0).lost) ∧
    (0x2000 % 64 = 0 ∧ dramDie 0x2000 = some 0 ∧ 0x2000 % 128 = 0 ∧ ¬ (0x2001 % 64 = 0)) ∧
    ((lossS 63).mstat.ready = true ∧ (∀ a ∈ [0x2000], a % 128 = 0 ∧ dramDie a = some 0)) ∧
    (let s := demoBase
     s.launch? 0 = some demoLaunch ∧ s.block? 0 = some blk ∧ blk.launch = 0 ∧ blk.st = .running ∧ demoLaunch.outcome = none ∧
       demoLaunch.doom = none) := by
  refine ⟨by decide +kernel, by decide, by decide +kernel, rfl, rfl, rfl, rfl, rfl, rfl⟩

theorem witness_Consumers :
    (let s := fetchS false (.nop v0)
     s.group? 0 = some fetchX ∧ s.issue = none ∧ s.groupReady 0 fetchX = true ∧ s.blockRuns fetchX.block = true ∧
       fetchX.undefer.selectFetch = some (0, Rotation.mk 0 0 0 0)) ∧
    (let s := fetchS true (.tend ts)
     s.tile? 0 = some fetchT ∧ s.issue = none ∧ fetchT.status = .ready ∧ fetchT.resident = true ∧ s.blockRuns fetchT.block = true) ∧
    (∀ o ∈ [op0 (.cpy cpy1) .cp (.copy none), oldStore], (stateOf demoBase (opG demoX o)).opAt? (OpRef.mk 0 0) = some (opG demoX o, o)) ∧
    (op0 (.cpy cpy1) .cp (.copy none)).engine = true ∧ oldStore.engine = false := by
  refine ⟨⟨rfl, rfl, by decide +kernel, by decide +kernel, by decide +kernel⟩, ⟨rfl, rfl, rfl, rfl, by decide +kernel⟩, ?_, by decide, by decide⟩
  intro o h
  simp only [List.mem_cons, List.not_mem_nil, or_false] at h
  rcases h with rfl | rfl <;> rfl

/-- Core 0 with errors at two clocks. -/
def errS (a b : Nat) : State := { demoBase with cores := [(0, { demoCore with errors := [a, b] })] }

theorem witness_RepairsAndHeat :
    ((errS 0 69120000000000).core 0).retired = false ∧
    (∃ a b, List.Sublist [a, b] ((errS 0 69120000000000).core 0).errors ∧ a ≤ b + 69120000000000 ∧ b ≤ a + 69120000000000) ∧
    (∀ a b, List.Sublist [a, b] ((errS 0 69120000000001).core 0).errors → ¬ (b ≤ a + 69120000000000)) ∧
    (errS 0 0).block? 0 = some blk ∧ blk.st = .running ∧ 0 ∈ blk.cores ∧
    ((fwS 0 []).mstat.therm ≠ 1 ∧ (fwS 0 []).mstat.therm ≠ 3 ∧ (1 : BitVec 2) ≠ 3 ∧ (fwS 0 []).mstat.therm = 0) := by
  refine ⟨rfl, ⟨0, 69120000000000, .refl _, by decide, by decide⟩, ?_, rfl, rfl, by decide, by decide⟩
  intro a b h
  cases h.eq_of_length (by rfl)
  decide

/-! #### The machine as a whole -/

/-- The frame is met by an instruction of registers and by one that stores. -/
theorem witness_RegisterAndMemoryFrame :
    (∀ i, Issued (demo i) (demoK i) 0 demoX i) ∧ Instr.wf (.vadd v32) = true ∧ Instr.wf (.st m64) = true ∧
    (match exec (.vadd v32) (demo (.vadd v32)) with
      | .next t => (t.group? 0).any (fun y => decide (y.status ≠ .ended)) | _ => false) = true ∧
    (Reg.v 3 ∉ (regUse (.vadd v32)).writes ∧ Reg.v 64 ∈ (regUse (.vadd v32)).writes) := by
  refine ⟨issued_demo, by decide, by decide, by decide +kernel, by decide⟩

/-- A state of canonical memory from which a step leads on, and the word of a well-formed instruction. -/
theorem witness_StepKeepsMemoryCanonical : Memory.wf (demo (.vadd v32)).mem = true ∧ ∃ t, step (demo (.vadd v32)) = .next t := by
  refine ⟨by decide +kernel, ?_⟩
  have h : (match exec (.vadd v32) (demo (.vadd v32)) with | .next _ => true | _ => false) = true := by decide +kernel
  have e : step (demo (.vadd v32)) = settled (exec (.vadd v32) (demo (.vadd v32))) := rfl
  rw [e]
  cases hx : exec (.vadd v32) (demo (.vadd v32)) with
  | next t => exact ⟨_, rfl⟩
  | fault f => rw [hx] at h; cases h
  | refused r => rw [hx] at h; cases h

theorem witness_DecodeEncode : (Instr.vadd v32).opcode? ≠ none ∧ (Instr.vadd v32).wf = true ∧
    decode (encode (.vadd v32)) = .ok (.vadd v32) := by
  refine ⟨by decide, by decide, ok_of (by decide +kernel)⟩

theorem witness_OpcodesAndStreams :
    (∀ o ∈ [0x012, 0x03F, 0x1E0, 0x1FF], ((BitVec.ofNat 96 (o * 2 ^ 87)).extractLsb' 87 9).toNat = o) ∧
    (((encode (.vadd v32)).extractLsb' 87 9).toNat < 0x180 ∧ 0x180 ≤ ((encode (.tend ts)).extractLsb' 87 9).toNat) ∧
    decode (encode (.tend ts)) = .ok (.tend ts) ∧ decode (encode (.nop v0)) = .ok (.nop v0) := by
  refine ⟨by decide +kernel, by decide +kernel, ok_of (by decide +kernel), ok_of (by decide +kernel)⟩

theorem witness_FetchLineLayout : (lineFor 7).length = 64 ∧ (4 : Nat) % 5 = 4 ∧ 5 * 2 ^ 50 - 1 < 5 * 2 ^ 50 := by decide

end Sys2Proof.Tests
end

section
/-! # YIELD, EXIT and SAFE (O12), and the frame of an instruction (O60)

The threads of a group as instructions move, park and release them; what leaves the groups of a state as they are; then the
statements. -/
namespace Sys2Proof.Machine

open Sys2Proof.Safety

/-! ### Masks and the threads of a group -/

/-- A mask made of a list holds the threads of the list, below 32. -/
theorem getLsbD_maskOf (l : List Nat) (t : Nat) : (maskOf l).getLsbD t = (decide (t < 32) && decide (t ∈ l)) := by
  have gen : ∀ (l : List Nat) (m : Mask), (l.foldl (fun m t => m ||| BitVec.ofNat 32 (2 ^ t)) m).getLsbD t =
      (m.getLsbD t || (decide (t < 32) && decide (t ∈ l))) := by
    intro l
    induction l with
    | nil => simp
    | cons a r ih =>
      intro m
      rw [List.foldl_cons, ih, BitVec.getLsbD_or, BitVec.getLsbD_ofNat, Nat.testBit_two_pow, Bool.or_assoc,
        ← Bool.and_or_distrib_left]
      simp [eq_comm]
  simpa [maskOf] using gen l 0

theorem Group.lt_of_mem_enabledSet {x : Group} {g : Guard} {m : Mask} {e t : Nat} (h : t ∈ x.enabledSet g m e) : t < 32 :=
  (mem_threadsOf.mp (List.mem_filter.mp h).1).1

/-- The mask of the enabled threads (R88). -/
theorem Group.getLsbD_onSet (x : Group) (g : Guard) (m : Mask) (t : Nat) :
    (x.onSet g m).getLsbD t = decide (t ∈ x.enabledSet g m 0) := by
  unfold Group.onSet
  rw [getLsbD_maskOf]
  by_cases h : t ∈ x.enabledSet g m 0
  · simp [h, Group.lt_of_mem_enabledSet h]
  · simp [h]

/-- It is zero where no thread is enabled. -/
theorem Group.onSet_eq_zero_iff (x : Group) (g : Guard) (m : Mask) : x.onSet g m = 0 ↔ x.enabledSet g m 0 = [] := by
  constructor
  · intro h
    refine List.eq_nil_iff_forall_not_mem.mpr (fun t ht => ?_)
    have hb := x.getLsbD_onSet g m t
    simp [h, ht] at hb
  · intro h
    simp [Group.onSet, h, maskOf]

@[simp] theorem Group.nthr_mapThreads (x : Group) (m : Mask) (k : Thread → Thread) : (x.mapThreads m k).nthr = x.nthr := by
  simp [Group.nthr, Group.mapThreads]

@[simp] theorem Group.nthr_advance (x : Group) (i : Issue) : (x.advance i).nthr = x.nthr := x.nthr_mapThreads _ _

theorem Group.thread_mapThreads (x : Group) (m : Mask) (k : Thread → Thread) {t : Nat} (h : t < x.nthr) :
    (x.mapThreads m k).thread t = if m.getLsbD t then k (x.thread t) else x.thread t := by
  unfold Group.nthr at h
  simp [Group.thread, Group.mapThreads, List.getD_eq_getElem?_getD, h]

/-- Past the count of threads every thread reads as retired. -/
theorem Group.thread_of_nthr_le (x : Group) {t : Nat} (h : x.nthr ≤ t) : x.thread t = Thread.mk 0 .retired := by
  rw [Group.thread, List.getD_eq_getElem?_getD, List.getElem?_eq_none h, Option.getD_none]

/-- An active set that goes on while the threads of `on` change their state. -/
theorem Group.thread_advance_mapThreads (x : Group) (i : Issue) (on : Mask) (st : TState) {t : Nat} (h : t < x.nthr) :
    ((x.advance i).mapThreads on (fun y => { y with st := st })).thread t =
      Thread.mk (if i.active.getLsbD t then i.unit + 1 else (x.thread t).tpc)
        (if on.getLsbD t then st else (x.thread t).st) := by
  rw [Group.thread_mapThreads _ _ _ (by simpa using h), Group.thread_advance x i h]
  split <;> split <;> rfl

theorem Group.thread_eq_getElem (x : Group) {t : Nat} (h : t < x.threads.length) : x.thread t = x.threads[t] := by
  rw [Group.thread, List.getD_eq_getElem?_getD, List.getElem?_eq_getElem h, Option.getD_some]

/-- Every thread of a group passes a test on its list of threads. -/
theorem Group.all_threads_iff (x : Group) (p : Thread → Bool) :
    x.threads.all p = true ↔ ∀ t < x.nthr, p (x.thread t) = true := by
  rw [List.all_eq_true]
  constructor
  · intro h t ht
    rw [x.thread_eq_getElem ht]
    exact h _ (List.getElem_mem ht)
  · intro h y hy
    obtain ⟨t, ht, rfl⟩ := List.mem_iff_getElem.mp hy
    rw [← x.thread_eq_getElem ht]
    exact h t ht

/-! ### Release of parked threads (R98, R100, R102) -/

/-- Thread `t` is parked at the CONV of unit `u`. -/
def Group.ParkedAt (x : Group) (u : Unit53) (t : Nat) : Prop := ∃ m, (x.thread t).st = .conv u m

/-- Every thread that the masks of the CONV of unit `u` name has parked there or exited (R98). -/
def Group.Gathered (x : Group) (u : Unit53) : Prop :=
  ∀ t < x.nthr, ∀ m, (x.thread t).st = .conv u m → ∀ v, m.getLsbD v = true →
    x.ParkedAt u v ∨ (x.thread v).st = .retired

/-- `y` is `x` with some of the threads parked at a CONV made runnable. -/
def Group.Eases (x y : Group) : Prop :=
  y.nthr = x.nthr ∧ ∀ t, y.thread t = x.thread t ∨
    ((∃ u, x.ParkedAt u t) ∧ y.thread t = { x.thread t with st := .runnable })

theorem Group.ParkedAt.lt {x : Group} {u : Unit53} {t : Nat} (h : x.ParkedAt u t) : t < x.nthr := by
  obtain ⟨m, hm⟩ := h
  refine Nat.lt_of_not_le (fun hn => ?_)
  rw [x.thread_of_nthr_le hn] at hm
  cases hm

theorem Group.ParkedAt.unique {x : Group} {u v : Unit53} {t : Nat} (h : x.ParkedAt u t) (h' : x.ParkedAt v t) : u = v := by
  obtain ⟨m, hm⟩ := h
  obtain ⟨n, hn⟩ := h'
  rw [hm] at hn
  cases hn
  rfl

/-- A thread that is as it was is parked where it was. -/
theorem Group.parkedAt_congr {x y : Group} {t : Nat} (h : y.thread t = x.thread t) (u : Unit53) :
    y.ParkedAt u t ↔ x.ParkedAt u t := by
  unfold Group.ParkedAt
  rw [h]

theorem Group.Eases.refl (x : Group) : x.Eases x := ⟨rfl, fun _ => .inl rfl⟩

theorem Group.Eases.trans {x y z : Group} (h : x.Eases y) (h' : y.Eases z) : x.Eases z := by
  refine ⟨h'.1.trans h.1, fun t => ?_⟩
  rcases h.2 t with e | ⟨p, e⟩
  · rcases h'.2 t with e' | ⟨⟨u, p'⟩, e'⟩
    · exact .inl (e'.trans e)
    · exact .inr ⟨⟨u, (Group.parkedAt_congr e u).mp p'⟩, by rw [e', e]⟩
  · rcases h'.2 t with e' | ⟨_, e'⟩
    · exact .inr ⟨p, e'.trans e⟩
    · exact .inr ⟨p, by rw [e', e]⟩

theorem Group.Eases.tpc {x y : Group} (h : x.Eases y) (t : Nat) : (y.thread t).tpc = (x.thread t).tpc := by
  rcases h.2 t with e | ⟨_, e⟩ <;> rw [e]

theorem Group.Eases.retired_iff {x y : Group} (h : x.Eases y) (t : Nat) :
    (y.thread t).st = .retired ↔ (x.thread t).st = .retired := by
  rcases h.2 t with e | ⟨⟨u, m, hm⟩, e⟩
  · rw [e]
  · simp [e, hm]

/-- Where a thread has been made runnable it is not parked. -/
theorem Group.Eases.thread_eq_of_parkedAt {x y : Group} (h : x.Eases y) {u : Unit53} {t : Nat} (hp : y.ParkedAt u t) :
    y.thread t = x.thread t := by
  rcases h.2 t with e | ⟨_, e⟩
  · exact e
  · obtain ⟨m, hm⟩ := hp
    simp [e] at hm

theorem Group.not_parkedAt_of_runnable {x : Group} {t : Nat} (h : (x.thread t).st = .runnable) (u : Unit53) :
    ¬ x.ParkedAt u t := by
  simp [Group.ParkedAt, h]

/-- No release parks a thread. -/
theorem Group.Eases.parkedAt {x y : Group} (h : x.Eases y) {u : Unit53} {t : Nat} (hp : y.ParkedAt u t) : x.ParkedAt u t :=
  (Group.parkedAt_congr (h.thread_eq_of_parkedAt hp) u).mp hp

/-- The test by which `Group.releaseAt` finds the threads parked at the CONV of unit `u`. -/
def Group.isParkedAt (x : Group) (u : Unit53) (t : Nat) : Bool := match (x.thread t).st with | .conv v _ => v == u | _ => false

/-- The threads that it finds. -/
def Group.parkedList (x : Group) (u : Unit53) : List Nat := (List.range x.nthr).filter (x.isParkedAt u)

/-- The threads that the masks of a list of parked threads name. -/
def Group.namedBy (x : Group) (l : List Nat) : Mask :=
  l.foldl (fun m t => match (x.thread t).st with | .conv _ k => m ||| k | _ => m) 0

theorem Group.releaseAt_eq (x : Group) (u : Unit53) :
    x.releaseAt u =
      if (threadsOf (x.namedBy (x.parkedList u))).all (fun t => x.isParkedAt u t || (x.thread t).st == .retired) then
        x.mapThreads (maskOf (x.parkedList u)) (fun y => { y with st := .runnable })
      else x := rfl

theorem Group.isParkedAt_iff (x : Group) (u : Unit53) (t : Nat) : x.isParkedAt u t = true ↔ x.ParkedAt u t := by
  unfold Group.isParkedAt Group.ParkedAt
  cases (x.thread t).st <;> simp

theorem Group.mem_parkedList (x : Group) (u : Unit53) (t : Nat) : t ∈ x.parkedList u ↔ x.ParkedAt u t := by
  unfold Group.parkedList
  rw [List.mem_filter, List.mem_range, x.isParkedAt_iff]
  exact ⟨fun h => h.2, fun h => ⟨h.lt, h⟩⟩

theorem Group.getLsbD_namedBy (x : Group) (l : List Nat) (v : Nat) :
    (x.namedBy l).getLsbD v = true ↔ ∃ t ∈ l, ∃ u m, (x.thread t).st = .conv u m ∧ m.getLsbD v = true := by
  have gen : ∀ (l : List Nat) (a : Mask),
      (l.foldl (fun m t => match (x.thread t).st with | .conv _ k => m ||| k | _ => m) a).getLsbD v = true ↔
        a.getLsbD v = true ∨ ∃ t ∈ l, ∃ u m, (x.thread t).st = .conv u m ∧ m.getLsbD v = true := by
    intro l
    induction l with
    | nil => simp
    | cons t r ih =>
      intro a
      rw [List.foldl_cons, ih]
      cases hst : (x.thread t).st
      case conv u m =>
        have here : (∃ u' m', (x.thread t).st = .conv u' m' ∧ m'.getLsbD v = true) ↔ m.getLsbD v = true := by
          constructor
          · rintro ⟨u', m', he, hv⟩
            rw [hst] at he
            cases he
            exact hv
          · exact fun hv => ⟨u, m, hst, hv⟩
        rw [BitVec.getLsbD_or, Bool.or_eq_true, or_assoc]
        simp only [List.mem_cons, exists_eq_or_imp, here]
      all_goals simp [hst]
  simpa [Group.namedBy] using gen l 0

/-- The test of `Group.releaseAt` says that the threads have gathered. -/
theorem Group.gathered_iff (x : Group) (u : Unit53) :
    (threadsOf (x.namedBy (x.parkedList u))).all (fun t => x.isParkedAt u t || (x.thread t).st == .retired) = true ↔
      x.Gathered u := by
  simp only [List.all_eq_true, mem_threadsOf, x.getLsbD_namedBy, x.mem_parkedList, Bool.or_eq_true, x.isParkedAt_iff,
    beq_iff_eq]
  constructor
  · intro h t _ m hm v hv
    exact h v ⟨BitVec.lt_of_getLsbD hv, t, ⟨m, hm⟩, u, m, hm, hv⟩
  · rintro h v ⟨-, t, ⟨m, hm⟩, u', m', hm', hv⟩
    have hlt : t < x.nthr := Group.ParkedAt.lt ⟨m, hm⟩
    rw [hm] at hm'
    cases hm'
    exact h t hlt m hm v hv

/-- Threads that have not gathered stay parked. -/
theorem Group.releaseAt_of_not_gathered {x : Group} {u : Unit53} (h : ¬ x.Gathered u) : x.releaseAt u = x := by
  rw [x.releaseAt_eq, if_neg (fun hc => h ((x.gathered_iff u).mp hc))]

/-- Threads that have gathered become runnable; a mask names threads below 32. -/
theorem Group.thread_releaseAt_of_gathered {x : Group} {u : Unit53} (h : x.Gathered u) {t : Nat} (hp : x.ParkedAt u t)
    (ht : t < 32) : (x.releaseAt u).thread t = { x.thread t with st := .runnable } := by
  rw [x.releaseAt_eq, if_pos ((x.gathered_iff u).mpr h), Group.thread_mapThreads _ _ _ hp.lt, getLsbD_maskOf]
  simp [ht, x.mem_parkedList, hp]

/-- A release at `u` leaves the threads that are not parked there. -/
theorem Group.thread_releaseAt_of_not_parkedAt {x : Group} {u : Unit53} {t : Nat} (hp : ¬ x.ParkedAt u t) :
    (x.releaseAt u).thread t = x.thread t := by
  rw [x.releaseAt_eq]
  split
  · by_cases hlt : t < x.nthr
    · rw [Group.thread_mapThreads _ _ _ hlt, getLsbD_maskOf]
      simp [x.mem_parkedList, hp]
    · rw [Group.thread_of_nthr_le _ (by simpa using hlt), Group.thread_of_nthr_le _ (by omega)]
  · rfl

theorem Group.nthr_releaseAt (x : Group) (u : Unit53) : (x.releaseAt u).nthr = x.nthr := by
  rw [x.releaseAt_eq]
  split <;> simp

theorem Group.eases_releaseAt (x : Group) (u : Unit53) : x.Eases (x.releaseAt u) := by
  refine ⟨x.nthr_releaseAt u, fun t => ?_⟩
  by_cases hp : x.ParkedAt u t
  · rw [x.releaseAt_eq]
    split
    · rw [Group.thread_mapThreads _ _ _ hp.lt]
      split
      · exact .inr ⟨⟨u, hp⟩, rfl⟩
      · exact .inl rfl
    · exact .inl rfl
  · exact .inl (Group.thread_releaseAt_of_not_parkedAt hp)

/-- One step of `Group.releaseConv`: the CONV at which a thread is parked, if any, is tried. -/
def Group.releaseOf (x : Group) (t : Nat) : Group := match (x.thread t).st with | .conv u _ => x.releaseAt u | _ => x

theorem Group.releaseConv_eq (x : Group) : x.releaseConv = (List.range x.nthr).foldl Group.releaseOf x := rfl

theorem Group.releaseOf_of_parkedAt {x : Group} {u : Unit53} {t : Nat} (h : x.ParkedAt u t) : x.releaseOf t = x.releaseAt u := by
  obtain ⟨m, hm⟩ := h
  simp [Group.releaseOf, hm]

theorem Group.releaseOf_of_not_parkedAt {x : Group} {t : Nat} (h : ∀ u, ¬ x.ParkedAt u t) : x.releaseOf t = x := by
  unfold Group.releaseOf
  split
  · next u m hm => exact absurd ⟨m, hm⟩ (h u)
  · rfl

theorem Group.eases_foldl_releaseOf (l : List Nat) (x : Group) : x.Eases (l.foldl Group.releaseOf x) := by
  induction l generalizing x with
  | nil => exact Group.Eases.refl x
  | cons t r ih =>
    refine Group.Eases.trans ?_ (ih _)
    by_cases h : ∃ u, x.ParkedAt u t
    · obtain ⟨u, hu⟩ := h
      rw [Group.releaseOf_of_parkedAt hu]
      exact x.eases_releaseAt u
    · rw [Group.releaseOf_of_not_parkedAt (fun u hu => h ⟨u, hu⟩)]
      exact Group.Eases.refl x

theorem Group.eases_releaseConv (x : Group) : x.Eases x.releaseConv := by
  rw [x.releaseConv_eq]
  exact Group.eases_foldl_releaseOf _ x

/-- `y` is `x` after some releases: at each CONV all threads parked there still stand, or they had gathered and are
runnable. -/
def Group.Releases (x y : Group) : Prop :=
  x.Eases y ∧ ∀ u, (∀ t, x.ParkedAt u t → y.thread t = x.thread t) ∨
    (x.Gathered u ∧ ∀ t, x.ParkedAt u t → (y.thread t).st = .runnable)

/-- While the threads of a CONV all stand, what its masks ask for is what they asked for at first. -/
theorem Group.gathered_iff_of_eases {x y : Group} (h : x.Eases y) {u : Unit53}
    (hu : ∀ t, x.ParkedAt u t → y.thread t = x.thread t) : y.Gathered u ↔ x.Gathered u := by
  have park : ∀ t, y.ParkedAt u t ↔ x.ParkedAt u t := fun t =>
    ⟨h.parkedAt, fun hp => (Group.parkedAt_congr (hu t hp) u).mpr hp⟩
  unfold Group.Gathered
  rw [h.1]
  simp only [park, h.retired_iff]
  refine forall₂_congr (fun t _ => forall_congr' (fun m => ?_))
  have : (y.thread t).st = .conv u m ↔ (x.thread t).st = .conv u m := by
    constructor
    · intro hm
      rw [← h.thread_eq_of_parkedAt ⟨m, hm⟩, hm]
    · intro hm
      rw [hu t ⟨m, hm⟩, hm]
  rw [this]

theorem Group.Releases.releaseAt {x y : Group} (h : x.Releases y) (hn : x.nthr ≤ 32) {u : Unit53} {q : Nat}
    (hq : y.ParkedAt u q) : x.Releases (y.releaseAt u) := by
  obtain ⟨he, hall⟩ := h
  refine ⟨he.trans (y.eases_releaseAt u), fun v => ?_⟩
  by_cases hv : v = u
  · subst hv
    -- `q` still stands at the CONV, so that nothing has been released there
    have stand : ∀ t, x.ParkedAt v t → y.thread t = x.thread t := by
      rcases hall v with hs | ⟨-, hr⟩
      · exact hs
      · exact absurd hq (Group.not_parkedAt_of_runnable (hr q (he.parkedAt hq)) v)
    by_cases hg : y.Gathered v
    · refine .inr ⟨(Group.gathered_iff_of_eases he stand).mp hg, fun t ht => ?_⟩
      have hy : y.ParkedAt v t := (Group.parkedAt_congr (stand t ht) v).mpr ht
      rw [Group.thread_releaseAt_of_gathered hg hy (by have := ht.lt; omega)]
    · rw [Group.releaseAt_of_not_gathered hg]
      exact .inl stand
  · have other : ∀ t, x.ParkedAt v t → (y.releaseAt u).thread t = y.thread t := by
      intro t ht
      exact Group.thread_releaseAt_of_not_parkedAt (fun hp => hv (ht.unique (he.parkedAt hp)))
    rcases hall v with hs | ⟨hg, hr⟩
    · exact .inl (fun t ht => (other t ht).trans (hs t ht))
    · exact .inr ⟨hg, fun t ht => by rw [other t ht, hr t ht]⟩

theorem Group.Releases.releaseOf {x y : Group} (h : x.Releases y) (hn : x.nthr ≤ 32) (t : Nat) : x.Releases (y.releaseOf t) := by
  by_cases hp : ∃ u, y.ParkedAt u t
  · obtain ⟨u, hu⟩ := hp
    rw [Group.releaseOf_of_parkedAt hu]
    exact h.releaseAt hn hu
  · rw [Group.releaseOf_of_not_parkedAt (fun u hu => hp ⟨u, hu⟩)]
    exact h

/-- A runnable thread stays so in later releases. -/
theorem Group.Eases.runnable {x y : Group} (h : x.Eases y) {t : Nat} (hr : (x.thread t).st = .runnable) :
    (y.thread t).st = .runnable := by
  rcases h.2 t with e | ⟨_, e⟩ <;> simp [e, hr]

/-- A pass over threads that tries a thread parked where all have gathered makes it runnable. -/
theorem Group.Releases.foldl_runnable {x : Group} (hn : x.nthr ≤ 32) {u : Unit53} (hg : x.Gathered u) {q : Nat}
    (hq : x.ParkedAt u q) (l : List Nat) (y : Group) (hy : x.Releases y) (hl : q ∈ l) :
    ((l.foldl Group.releaseOf y).thread q).st = .runnable := by
  induction l generalizing y with
  | nil => cases hl
  | cons t r ih =>
    by_cases ht : q = t
    · subst ht
      refine (Group.eases_foldl_releaseOf r _).runnable ?_
      rcases hy.2 u with hs | ⟨-, hr⟩
      · have hp : y.ParkedAt u q := (Group.parkedAt_congr (hs q hq) u).mpr hq
        have hlt := hq.lt
        rw [Group.releaseOf_of_parkedAt hp,
          Group.thread_releaseAt_of_gathered ((Group.gathered_iff_of_eases hy.1 hs).mpr hg) hp (by omega)]
      · rw [Group.releaseOf_of_not_parkedAt (Group.not_parkedAt_of_runnable (hr q hq))]
        exact hr q hq
    · exact ih _ (hy.releaseOf hn t) (List.mem_of_ne_of_mem ht hl)

theorem Group.releases_releaseConv {x : Group} (hn : x.nthr ≤ 32) : x.Releases x.releaseConv := by
  have gen : ∀ (l : List Nat) (y : Group), x.Releases y → x.Releases (l.foldl Group.releaseOf y) := by
    intro l
    induction l with
    | nil => exact fun y hy => hy
    | cons t r ih => exact fun y hy => ih _ (hy.releaseOf hn t)
  exact gen _ x ⟨Group.Eases.refl x, fun _ => .inl (fun _ _ => rfl)⟩

/-- R98: where the threads have gathered, those parked are runnable. -/
theorem Group.st_releaseConv_of_gathered {x : Group} (hn : x.nthr ≤ 32) {u : Unit53} (hg : x.Gathered u) {q : Nat}
    (hq : x.ParkedAt u q) : (x.releaseConv.thread q).st = .runnable :=
  Group.Releases.foldl_runnable hn hg hq _ x ⟨Group.Eases.refl x, fun _ => .inl (fun _ _ => rfl)⟩
    (List.mem_range.mpr hq.lt)

/-- R98: where they have not, those parked stay. -/
theorem Group.thread_releaseConv_of_not_gathered {x : Group} (hn : x.nthr ≤ 32) {u : Unit53} (hg : ¬ x.Gathered u) {q : Nat}
    (hq : x.ParkedAt u q) : x.releaseConv.thread q = x.thread q := by
  rcases (Group.releases_releaseConv hn).2 u with hs | ⟨hg', -⟩
  · exact hs q hq
  · exact absurd hg' hg

/-- What a released barrier makes of a thread (R102). -/
def Thread.wake (y : Thread) : Thread := if y.st = .retired then y else { y with st := .runnable }

theorem Thread.wake_tpc (y : Thread) : y.wake.tpc = y.tpc := by unfold Thread.wake; split <;> rfl

theorem Thread.wake_st_retired_iff (y : Thread) : y.wake.st = .retired ↔ y.st = .retired := by
  unfold Thread.wake
  split
  · rfl
  · next h => simp [h]

/-- A barrier is released for every thread or for none (R102). -/
theorem Group.releaseBarrier_cases (x : Group) :
    x.releaseBarrier = x ∨
      (x.releaseBarrier = { x with threads := x.threads.map Thread.wake } ∧
        ∃ u, ∀ t < x.nthr, (x.thread t).st = .retired ∨ (x.thread t).st = .barrier u) := by
  unfold Group.releaseBarrier
  split
  · exact .inl rfl
  · next u _ =>
    split
    · next h =>
      refine .inr ⟨rfl, u, fun t ht => ?_⟩
      simpa using (x.all_threads_iff _).mp h t ht
    · exact .inl rfl

theorem Group.thread_map_wake (x : Group) (t : Nat) :
    Group.thread { x with threads := x.threads.map Thread.wake } t = (x.thread t).wake := by
  simp only [Group.thread, List.getD_eq_getElem?_getD, List.getElem?_map]
  cases x.threads[t]? <;> rfl

theorem Group.nthr_releaseBarrier (x : Group) : x.releaseBarrier.nthr = x.nthr := by
  rcases x.releaseBarrier_cases with h | ⟨h, -⟩ <;> rw [h]
  exact List.length_map _

theorem Group.tpc_releaseBarrier (x : Group) (t : Nat) : (x.releaseBarrier.thread t).tpc = (x.thread t).tpc := by
  rcases x.releaseBarrier_cases with h | ⟨h, -⟩ <;> rw [h]
  rw [x.thread_map_wake, Thread.wake_tpc]

theorem Group.retired_releaseBarrier_iff (x : Group) (t : Nat) :
    (x.releaseBarrier.thread t).st = .retired ↔ (x.thread t).st = .retired := by
  rcases x.releaseBarrier_cases with h | ⟨h, -⟩ <;> rw [h]
  rw [x.thread_map_wake, Thread.wake_st_retired_iff]

/-- A thread that neither stands at a barrier nor has exited keeps every barrier (R102). -/
theorem Group.releaseBarrier_of_other {x : Group} {t : Nat} (ht : t < x.nthr) (h1 : (x.thread t).st ≠ .retired)
    (h2 : ∀ u, (x.thread t).st ≠ .barrier u) : x.releaseBarrier = x := by
  rcases x.releaseBarrier_cases with h | ⟨-, u, h⟩
  · exact h
  · rcases h t ht with h | h
    · exact absurd h h1
    · exact absurd h (h2 u)

/-! ### EXIT (R100) -/

/-- A group whose threads of `on` have exited, before anything is released. -/
def Group.leave (x : Group) (i : Issue) (on : Mask) : Group :=
  (x.advance i).mapThreads on (fun th => { th with st := .retired })

theorem Group.exit_eq (x : Group) (i : Issue) (on : Mask) :
    x.exit_ i on = (x.leave i on).releaseConv.releaseBarrier := rfl

@[simp] theorem Group.nthr_leave (x : Group) (i : Issue) (on : Mask) : (x.leave i on).nthr = x.nthr := by
  simp [Group.leave]

theorem Group.thread_leave (x : Group) (i : Issue) (on : Mask) {t : Nat} (h : t < x.nthr) :
    (x.leave i on).thread t = Thread.mk (if i.active.getLsbD t then i.unit + 1 else (x.thread t).tpc)
      (if on.getLsbD t then .retired else (x.thread t).st) := x.thread_advance_mapThreads i on _ h

theorem Group.nthr_exit (x : Group) (i : Issue) (on : Mask) : (x.exit_ i on).nthr = x.nthr := by
  rw [x.exit_eq, Group.nthr_releaseBarrier, (Group.eases_releaseConv _).1, Group.nthr_leave]

/-- The active threads go on; what is released stays where it is. -/
theorem Group.tpc_exit (x : Group) (i : Issue) (on : Mask) {t : Nat} (h : t < x.nthr) :
    ((x.exit_ i on).thread t).tpc = if i.active.getLsbD t then i.unit + 1 else (x.thread t).tpc := by
  rw [x.exit_eq, Group.tpc_releaseBarrier, (Group.eases_releaseConv _).tpc, x.thread_leave i on h]

/-- Exited are the threads of `on` and those that had exited. -/
theorem Group.retired_exit_iff (x : Group) (i : Issue) (on : Mask) {t : Nat} (h : t < x.nthr) :
    ((x.exit_ i on).thread t).st = .retired ↔ on.getLsbD t = true ∨ (x.thread t).st = .retired := by
  rw [x.exit_eq, Group.retired_releaseBarrier_iff, (Group.eases_releaseConv _).retired_iff, x.thread_leave i on h]
  cases on.getLsbD t <;> simp

/-- A thread that is parked at a CONV and does not exit keeps the barriers closed. -/
theorem Group.thread_exit_of_parked (x : Group) (i : Issue) (on : Mask) {u : Unit53} {t : Nat}
    (hp : (x.leave i on).ParkedAt u t) : (x.exit_ i on).thread t = (x.leave i on).releaseConv.thread t := by
  rw [x.exit_eq]
  have hst : ((x.leave i on).releaseConv.thread t).st = .runnable ∨
      ∃ m, ((x.leave i on).releaseConv.thread t).st = .conv u m := by
    obtain ⟨m, hm⟩ := hp
    rcases (Group.eases_releaseConv (x.leave i on)).2 t with e | ⟨-, e⟩
    · exact .inr ⟨m, by rw [e, hm]⟩
    · exact .inl (by rw [e])
  have hlt : t < (x.leave i on).releaseConv.nthr := by
    rw [(Group.eases_releaseConv _).1]
    exact hp.lt
  rcases hst with h | ⟨m, h⟩
  · rw [Group.releaseBarrier_of_other hlt (by simp [h]) (by simp [h])]
  · rw [Group.releaseBarrier_of_other hlt (by simp [h]) (by simp [h])]

theorem Group.parkedAt_leave_iff (x : Group) (i : Issue) (on : Mask) {u : Unit53} {t : Nat} (h : t < x.nthr) :
    (x.leave i on).ParkedAt u t ↔ on.getLsbD t = false ∧ x.ParkedAt u t := by
  unfold Group.ParkedAt
  rw [x.thread_leave i on h]
  cases on.getLsbD t <;> simp

/-- What the threads parked at `u` wait for once the threads of `on` have exited (R98, R100). -/
theorem Group.gathered_leave_iff (x : Group) (i : Issue) (on : Mask) (u : Unit53) :
    (x.leave i on).Gathered u ↔ ∀ t < x.nthr, ∀ m, on.getLsbD t = false → (x.thread t).st = .conv u m → ∀ v < x.nthr,
      m.getLsbD v = true → (on.getLsbD v = false ∧ x.ParkedAt u v) ∨ on.getLsbD v = true ∨ (x.thread v).st = .retired := by
  unfold Group.Gathered
  rw [x.nthr_leave]
  refine forall₂_congr (fun t ht => forall_congr' (fun m => ?_))
  rw [x.thread_leave i on ht]
  cases hon : on.getLsbD t
  case true => simp
  case false =>
    simp only [Bool.false_eq_true, if_false, forall_const]
    refine imp_congr_right (fun _ => forall_congr' (fun v => ?_))
    by_cases hv : v < x.nthr
    · rw [x.parkedAt_leave_iff i on hv, x.thread_leave i on hv]
      cases on.getLsbD v <;> simp [hv]
    · rw [Group.thread_of_nthr_le (x.leave i on) (by simpa using hv)]
      simp [hv]

/-! ### What leaves the groups as they are -/

/-- A fold of steps that leave the groups as they are leaves them so. -/
theorem foldl_groups {α : Type} {f : State → α → State} (hf : ∀ s a, (f s a).groups = s.groups) (l : List α) (s : State) :
    (l.foldl f s).groups = s.groups := by
  induction l generalizing s with
  | nil => rfl
  | cons a r ih => rw [List.foldl_cons, ih, hf]

theorem State.group?_of_groups {s t : State} (h : s.groups = t.groups) (g : Nat) : s.group? g = t.group? g := by
  unfold State.group?
  rw [h]

@[simp] theorem State.setBytes_groups (s : State) (pa : Nat) (l : List Byte) : (s.setBytes pa l).groups = s.groups := by
  induction l generalizing s pa with
  | nil => rfl
  | cons b r ih => exact ih (s.setByte pa b) (pa + 1)

@[simp] theorem State.mend_groups (s : State) (l : List (Nat × Nat)) : (s.mend l).groups = s.groups := by
  unfold State.mend; split <;> rfl

@[simp] theorem State.heal_groups (s : State) (pa n : Nat) : (s.heal pa n).groups = s.groups := s.mend_groups _

@[simp] theorem State.healAll_groups (s : State) (c : Nat) (l : List (Nat × Nat)) : (s.healAll c l).groups = s.groups :=
  s.mend_groups _

@[simp] theorem State.putBytes_groups (s : State) (path core : Nat) (die : Option Nat) (pa : Nat) (l : List Byte) :
    (s.putBytes path core die pa l).groups = s.groups := State.setBytes_groups _ _ _

@[simp] theorem State.vwrite_groups (s : State) (c va : Nat) (l : List Byte) : (s.vwrite c va l).groups = s.groups := by
  refine foldl_groups (fun s p => ?_) _ s
  split <;> simp

@[simp] theorem State.logError_groups (s : State) (kind : Nat) (w : BitVec 32) (a : Nat) :
    (s.logError kind w a).groups = s.groups := by
  obtain ⟨l, h⟩ := s.logError_rest kind w a
  rw [h]

@[simp] theorem State.logPa_groups (s : State) (pa n : Nat) : (s.logPa pa n).groups = s.groups := by
  obtain ⟨l, h⟩ := s.logPa_rest pa n
  rw [h]

@[simp] theorem State.writeOut_groups (s : State) (pa : Nat) (l : List Byte) : (s.writeOut pa l).groups = s.groups := by
  unfold State.writeOut; split <;> simp

@[simp] theorem State.answer_groups (s : State) (done status : Nat) : (s.answer done status).groups = s.groups := by
  unfold State.answer; split <;> simp

@[simp] theorem State.acquire_groups (s : State) (core scope : Nat) : (s.acquire core scope).groups = s.groups := by
  unfold State.acquire
  dsimp only
  split <;> split <;> rfl

/-! ### Sets and banks -/

@[simp] theorem State.putSet_groups (s : State) (b set : Nat) (x : SetState) : (s.putSet b set x).groups = s.groups := by
  unfold State.putSet; split <;> rfl

/-- A set that settles completes a phase and acquires; no group changes (R101, R104). -/
@[simp] theorem State.settleSet_groups (s : State) (b set : Nat) : (s.settleSet b set).groups = s.groups := by
  unfold State.settleSet
  dsimp only
  split
  · rfl
  · split
    · rw [foldl_groups (fun s c => s.acquire_groups c 2), State.putSet_groups]
    · rfl

@[simp] theorem State.settleSets_groups (s : State) (b : Nat) : (s.settleSets b).groups = s.groups := by
  unfold State.settleSets
  split
  · rfl
  · exact foldl_groups (fun s (p : Nat × SetState) => s.settleSet_groups b p.1) _ s

@[simp] theorem State.loseLine_groups (s : State) (core line c va : Nat) : (s.loseLine core line c va).groups = s.groups := by
  unfold State.loseLine
  dsimp only
  split
  · rfl
  · split <;> simp

@[simp] theorem State.writeBackLine_groups (s : State) (core : Nat) (m : MapSlot) (line : Nat) :
    (s.writeBackLine core m line).groups = s.groups := by
  unfold State.writeBackLine
  dsimp only
  split
  · rfl
  · split
    · simp
    · rw [State.setCore_groups, State.healAll_groups]
      exact foldl_groups (fun s i => s.vwrite_groups _ _ _) _ s

@[simp] theorem State.unmapSlot_groups (s : State) (core slot : Nat) : (s.unmapSlot core slot).groups = s.groups := by
  unfold State.unmapSlot
  split
  · rfl
  · next m _ => exact foldl_groups (fun s l => s.writeBackLine_groups core m l) _ s

@[simp] theorem State.switchBank_groups (s : State) (core bank : Nat) (mode : BankMode) (holder : Option Nat) :
    (s.switchBank core bank mode holder).groups = s.groups :=
  foldl_groups (fun s i => s.unmapSlot_groups core i) _ s

@[simp] theorem State.drainBank_groups (s : State) (core bank : Nat) : (s.drainBank core bank).groups = s.groups := by
  unfold State.drainBank; split
  · rfl
  · simp

@[simp] theorem State.releaseBanks_groups (s : State) (core block : Nat) : (s.releaseBanks core block).groups = s.groups := by
  refine foldl_groups (fun s i => ?_) _ s
  split <;> simp

/-! ### The end of a block (R100, R247, R314) -/

@[simp] theorem State.dropMatrix_groups (s : State) (core block : Nat) : (s.dropMatrix core block).groups = s.groups := by
  unfold State.dropMatrix; dsimp only; split <;> rfl

@[simp] theorem State.dropLeases_groups (s : State) (l : List Nat) : (s.dropLeases l).groups = s.groups := by
  refine foldl_groups (fun s t => ?_) _ s
  split <;> rfl

@[simp] theorem State.noteIdle_groups (s : State) (l : List Nat) : (s.noteIdle l).groups = s.groups := by
  refine foldl_groups (fun s t => ?_) _ s
  split <;> rfl

@[simp] theorem State.releaseBlock_groups (s : State) (b : Nat) (k : Block) : (s.releaseBlock b k).groups = s.groups := by
  unfold State.releaseBlock
  rw [State.noteIdle_groups, State.dropLeases_groups]
  exact foldl_groups (fun s c => by rw [State.dropMatrix_groups, State.releaseBanks_groups]) _ s

@[simp] theorem State.endRequest_groups (s : State) (b status : Nat) : (s.endRequest b status).groups = s.groups := by
  unfold State.endRequest
  split
  · rfl
  · split
    · rfl
    · exact foldl_groups (fun s (d : Nat × Nat) => s.answer_groups d.2 status) _ _

/-- There is a group under a handle, and it passes a test. -/
def State.Holds (s : State) (g : Nat) (P : Group → Prop) : Prop := ∃ y, s.group? g = some y ∧ P y

theorem State.Holds.of_groups {s t : State} {g : Nat} {P : Group → Prop} (h : s.Holds g P) (e : t.groups = s.groups) :
    t.Holds g P := by
  obtain ⟨y, hy, hP⟩ := h
  exact ⟨y, (State.group?_of_groups e g).trans hy, hP⟩

theorem State.Holds.updGroup {s : State} {g : Nat} {P : Group → Prop} (h : s.Holds g P) {k : Group → Group}
    (hk : ∀ y, P y → P (k y)) (n : Nat) : (s.updGroup n k).Holds g P := by
  obtain ⟨y, hy, hP⟩ := h
  unfold State.updGroup
  split
  · next z hz =>
    by_cases hg : g = n
    · subst hg
      rw [hy] at hz
      cases hz
      exact ⟨k y, by rw [State.group?_setGroup, if_pos rfl], hk y hP⟩
    · exact ⟨y, by rw [State.group?_setGroup, if_neg hg, hy], hP⟩
  · exact ⟨y, hy, hP⟩

/-- What a kernel loses at its end are the groups' registers and threads (R6). -/
theorem State.Holds.loseKernel {s : State} {g : Nat} {P : Group → Prop} (h : s.Holds g P) (hk : ∀ y, P y → P y.lost)
    (groups tiles : List Nat) (b : Nat) : (s.loseKernel groups tiles b).Holds g P := by
  have h1 : (groups.foldl (fun s g => s.updGroup g Group.lost) s).Holds g P := by
    induction groups generalizing s with
    | nil => exact h
    | cons n r ih => exact ih (h.updGroup hk n)
  refine h1.of_groups ?_
  unfold State.loseKernel
  dsimp only
  split
  · rw [State.setBlock_groups]
    exact foldl_groups (fun s t => by split <;> rfl) _ _
  · exact foldl_groups (fun s t => by split <;> rfl) _ _

theorem State.Holds.endBlock {s : State} {g : Nat} {P : Group → Prop} (h : s.Holds g P) (hk : ∀ y, P y → P y.lost)
    (b : Nat) : (s.endBlock b).Holds g P := by
  unfold State.endBlock
  split
  · exact h
  · next k _ =>
    have h1 := (h.of_groups (t := (s.releaseBlock b k).setBlock b { k with st := .ended }) (by simp)).loseKernel hk
      k.groups k.tiles b
    dsimp only
    split
    · exact h1.of_groups (by simp)
    · exact h1.of_groups (by simp)

theorem State.Holds.settleBlock {s : State} {g : Nat} {P : Group → Prop} (h : s.Holds g P) (hk : ∀ y, P y → P y.lost)
    (b : Nat) : (s.settleBlock b).Holds g P := by
  unfold State.settleBlock
  split
  · exact h
  · dsimp only
    split
    · exact h.endBlock hk b
    · exact h

/-- R100: a group that has ended is freed at once if nothing is outstanding; what a lost group keeps is kept. -/
theorem State.Holds.freeGroup {s : State} {g : Nat} {y : Group} {P : Group → Prop} (hy : s.group? g = some y)
    (hend : y.status = .ended) (hP : P y) (hk : ∀ z, P z → P z.lost)
    (hf : P { y with resident := false, active := false }) :
    (s.freeGroup g).Holds g (fun z => P z ∧ (y.ops = [] → z.resident = false)) := by
  unfold State.freeGroup
  simp only [hy]
  split
  · refine State.Holds.settleBlock ?_ (fun z hz => ⟨hk z hz.1, hz.2⟩) _
    refine State.Holds.of_groups ?_ (State.noteIdle_groups _ _)
    exact ⟨_, by rw [State.group?_setGroup, if_pos rfl], hf, fun _ => rfl⟩
  · next h =>
    refine ⟨y, hy, hP, fun ho => ?_⟩
    simpa [hend, ho] using h

/-- R100: a group whose last thread has exited ends. -/
theorem State.Holds.endGroup {s : State} {g : Nat} {y : Group} {P : Group → Prop} (hy : s.group? g = some y)
    (hP : P { y with status := .ended, wait := none, readyAt := none, active := false }) (hk : ∀ z, P z → P z.lost)
    (hf : ∀ z, P z → P { z with resident := false, active := false }) :
    (s.endGroup g).Holds g (fun z => P z ∧ (y.ops = [] → z.resident = false)) := by
  unfold State.endGroup
  simp only [hy]
  refine State.Holds.freeGroup (y := { y with status := .ended, wait := none, readyAt := none, active := false }) ?_ rfl
    hP hk (hf _ hP)
  rw [State.group?_of_groups (State.settleSets_groups _ _), State.group?_setGroup, if_pos rfl]

/-! ### YIELD (R99, R244) -/

@[simp] theorem State.group?_completeAt (s : State) (i : Issue) (g : Nat) (x : Group) :
    (s.completeAt i g x).group? g = some x := by
  unfold State.completeAt; rw [State.group?_setGroup, if_pos rfl]

theorem Group.runnable_isEmpty_iff (x : Group) :
    x.runnable.isEmpty = true ↔ ∀ t < x.nthr, (x.thread t).st ≠ .runnable := by
  simp [Group.runnable]

theorem Group.deferredThreads_isEmpty_iff (x : Group) :
    x.deferredThreads.isEmpty = false ↔ ∃ t < x.nthr, (x.thread t).st = .deferred := by
  simp [Group.deferredThreads]

/-- The group that a YIELD leaves, its wait apart: the active set has gone on and the threads of `on` are deferred. -/
def Group.deferred (x : Group) (i : Issue) (on : Mask) : Group :=
  (x.advance i).mapThreads on (fun th => { th with st := .deferred })

@[simp] theorem Group.nthr_deferred (x : Group) (i : Issue) (on : Mask) : (x.deferred i on).nthr = x.nthr := by
  simp [Group.deferred]

theorem Group.thread_deferred (x : Group) (i : Issue) (on : Mask) {t : Nat} (h : t < x.nthr) :
    (x.deferred i on).thread t = Thread.mk (if i.active.getLsbD t then i.unit + 1 else (x.thread t).tpc)
      (if on.getLsbD t then .deferred else (x.thread t).st) := x.thread_advance_mapThreads i on _ h

/-- R99: the group waits where no thread is left runnable and some thread is deferred, and only there. -/
theorem Group.yield_cases (x : Group) (i : Issue) (on : Mask) (now : Nat) :
    let y := x.deferred i on
    let idle := (∀ t < y.nthr, (y.thread t).st ≠ .runnable) ∧ ∃ t < y.nthr, (y.thread t).st = .deferred
    (idle ∧ x.yield_ i on now = { y with wait := some (.deferral now) }) ∨ (¬ idle ∧ x.yield_ i on now = y) := by
  intro y idle
  have hidle : (y.runnable.isEmpty && !y.deferredThreads.isEmpty) = true ↔ idle := by
    rw [Bool.and_eq_true, Bool.not_eq_true', y.runnable_isEmpty_iff, y.deferredThreads_isEmpty_iff]
  have h : x.yield_ i on now =
      if y.runnable.isEmpty && !y.deferredThreads.isEmpty then { y with wait := some (.deferral now) } else y := rfl
  rw [h]
  split
  · next hc => exact .inl ⟨hidle.mp hc, rfl⟩
  · next hc => exact .inr ⟨fun hi => hc (hidle.mpr hi), rfl⟩

/-- A group passes a test that does not read its wait. -/
def WaitFree (P : Group → Prop) : Prop := ∀ (y : Group) (w : Option Wait), P y → P { y with wait := w }

/-- R244: passing the core on ends waits at barriers, and no group changes otherwise. -/
theorem State.Holds.passCore {s : State} {g : Nat} {P : Group → Prop} (h : s.Holds g P) (hw : WaitFree P) (x : Group) :
    (s.passCore x).Holds g P := by
  unfold State.passCore
  split
  · unfold State.passFrom
    split
    · exact h
    · exact (h.updGroup (fun y hy => hw y _ hy) _).of_groups rfl
  · exact h

theorem State.passCore_mem (s : State) (x : Group) : (s.passCore x).mem = s.mem := by
  unfold State.passCore State.passFrom
  split
  · split
    · rfl
    · exact State.updGroup_mem _ _ _
  · rfl

theorem State.passCore_of_not_garnet {s : State} {x : Group} (h : s.isGarnet x = false) : s.passCore x = s := by
  simp [State.passCore, h]

theorem exec_yield_issued {s : State} {k : Issue} {g : Nat} {x : Group} {f : VFmt} (h : Issued s k g x (.yield f)) :
    exec (.yield f) s = .next (if x.onSet f.g k.active = 0 then s.complete k g x else
      (s.completeAt k g (x.yield_ k (x.onSet f.g k.active) s.clk)).passCore x) := withGroup_issued h _

/-- `y` has the threads that a YIELD of the threads `on` leaves: the active set has gone on, and those of `on` are
deferred. -/
def Group.DefersTo (x : Group) (i : Issue) (on : Mask) (y : Group) : Prop :=
  y.nthr = x.nthr ∧ ∀ q < x.nthr, y.thread q = (x.deferred i on).thread q

theorem Group.waitFree_defersTo (x : Group) (i : Issue) (on : Mask) : WaitFree (x.DefersTo i on) := fun _ _ h => h

theorem Group.defersTo_yield (x : Group) (i : Issue) (on : Mask) (now : Nat) : x.DefersTo i on (x.yield_ i on now) := by
  rcases x.yield_cases i on now with ⟨-, e⟩ | ⟨-, e⟩ <;> rw [e] <;> exact ⟨x.nthr_deferred i on, fun _ _ => rfl⟩

theorem Group.wait_yield (x : Group) (i : Issue) (on : Mask) (now : Nat) :
    (x.yield_ i on now).wait =
      if (∀ q < x.nthr, ((x.yield_ i on now).thread q).st ≠ .runnable) ∧
          ∃ q < x.nthr, ((x.yield_ i on now).thread q).st = .deferred then some (.deferral now)
      else x.wait := by
  have hn := x.nthr_deferred i on
  rcases x.yield_cases i on now with ⟨hi, e⟩ | ⟨hi, e⟩
  · rw [hn] at hi
    rw [e]
    exact (if_pos hi).symm
  · rw [hn] at hi
    rw [e]
    exact (if_neg hi).symm

/-- R99, R244: a YIELD that enables a thread defers the threads it enables, and in Garnet mode passes the core on. -/
theorem yield_defers (s : State) (k : Issue) (g : Nat) (x : Group) (on : Mask) :
    ∃ (t : State) (y : Group), (s.completeAt k g (x.yield_ k on s.clk)).passCore x = t ∧ t.group? g = some y ∧
      t.mem = s.mem ∧ x.DefersTo k on y ∧ (s.isGarnet x = false → t = s.completeAt k g y ∧ y = x.yield_ k on s.clk) := by
  have hold : (s.completeAt k g (x.yield_ k on s.clk)).Holds g (x.DefersTo k on) :=
    ⟨_, s.group?_completeAt k g _, x.defersTo_yield k on s.clk⟩
  by_cases hg : s.isGarnet x = true
  · obtain ⟨y, hy, hP⟩ := hold.passCore (x.waitFree_defersTo k on) x
    exact ⟨_, y, rfl, hy, State.passCore_mem _ _, hP, fun hn => by simp [hg] at hn⟩
  · have hs : (s.completeAt k g (x.yield_ k on s.clk)).passCore x = s.completeAt k g (x.yield_ k on s.clk) :=
      State.passCore_of_not_garnet (Bool.eq_false_iff.mpr hg)
    exact ⟨_, _, hs, s.group?_completeAt k g _, rfl, x.defersTo_yield k on s.clk, fun _ => ⟨rfl, rfl⟩⟩

/-! ### EXIT and the end of the group (R100) -/

theorem exec_exit_issued {s : State} {k : Issue} {g : Nat} {x : Group} {f : VFmt} (h : Issued s k g x (.exit f)) :
    exec (.exit f) s = .next (
      if (x.exit_ k (x.onSet f.g k.active)).threads.all (fun th => th.st == .retired) then
        (s.completeAt k g (x.exit_ k (x.onSet f.g k.active))).endGroup g
      else s.completeAt k g (x.exit_ k (x.onSet f.g k.active))) := withGroup_issued h _

/-- What an ended group of `n` threads keeps when its kernel is lost: the count of its threads, that they have exited, and
that it has ended. -/
def Group.Over (n : Nat) (y : Group) : Prop := y.nthr = n ∧ (∀ q < n, (y.thread q).st = .retired) ∧ y.status = .ended

theorem Group.over_lost {n : Nat} {y : Group} (h : y.Over n) : y.lost.Over n := by
  obtain ⟨hn, -, hs⟩ := h
  refine ⟨(List.length_map _).trans hn, fun q hq => ?_, hs⟩
  have hq' : q < y.threads.length := by rw [← hn] at hq; exact hq
  simp [Group.thread, Group.lost, List.getD_eq_getElem?_getD, hq']

/-- R100: a group whose last thread exits has ended, and is freed if nothing of it is outstanding. -/
theorem State.endGroup_over {s : State} {g : Nat} {y : Group} (hy : s.group? g = some y)
    (hr : ∀ q < y.nthr, (y.thread q).st = .retired) :
    (s.endGroup g).Holds g (fun z => z.Over y.nthr ∧ (y.ops = [] → z.resident = false)) :=
  State.Holds.endGroup hy ⟨rfl, hr, rfl⟩ (fun _ => Group.over_lost) (fun _ h => h)

theorem Group.ops_foldl_releaseOf (l : List Nat) (x : Group) : (l.foldl Group.releaseOf x).ops = x.ops := by
  induction l generalizing x with
  | nil => rfl
  | cons t r ih =>
    rw [List.foldl_cons, ih]
    unfold Group.releaseOf
    split
    · rw [x.releaseAt_eq]
      split <;> rfl
    · rfl

theorem Group.ops_exit (x : Group) (i : Issue) (on : Mask) : (x.exit_ i on).ops = x.ops := by
  rw [x.exit_eq]
  have h : (x.leave i on).releaseConv.ops = x.ops := Group.ops_foldl_releaseOf _ _
  rcases (x.leave i on).releaseConv.releaseBarrier_cases with e | ⟨e, -⟩ <;> rw [e]
  · exact h
  · exact h

/-- The group ends at an EXIT exactly where it leaves no thread that has not exited. -/
theorem Group.all_retired_exit_iff (x : Group) (i : Issue) (on : Mask) :
    (x.exit_ i on).threads.all (fun th => th.st == .retired) = true ↔
      ∀ q < x.nthr, on.getLsbD q = true ∨ (x.thread q).st = .retired := by
  rw [(x.exit_ i on).all_threads_iff, x.nthr_exit i on]
  refine forall₂_congr (fun q hq => ?_)
  rw [beq_iff_eq, x.retired_exit_iff i on hq]

/-- R98, R100: the threads parked at a CONV when others exit are runnable if they have gathered, and stand otherwise. -/
theorem Group.st_exit_of_parked {x : Group} (hn : x.nthr ≤ 32) (i : Issue) (on : Mask) {u : Unit53} {q : Nat}
    (hon : on.getLsbD q = false) (hp : x.ParkedAt u q) :
    ((x.leave i on).Gathered u → ((x.exit_ i on).thread q).st = .runnable) ∧
      (¬ (x.leave i on).Gathered u → ((x.exit_ i on).thread q).st = (x.thread q).st) := by
  have hleave : (x.leave i on).ParkedAt u q := (x.parkedAt_leave_iff i on hp.lt).mpr ⟨hon, hp⟩
  have hn' : (x.leave i on).nthr ≤ 32 := by simpa using hn
  rw [x.thread_exit_of_parked i on hleave]
  refine ⟨fun hg => Group.st_releaseConv_of_gathered hn' hg hleave, fun hg => ?_⟩
  rw [Group.thread_releaseConv_of_not_gathered hn' hg hleave, x.thread_leave i on hp.lt, hon]
  rfl

/-- R100: an EXIT that leaves no thread ends the group. -/
theorem exec_exit_of_all_retired {s : State} {k : Issue} {g : Nat} {x : Group} {f : VFmt} (h : Issued s k g x (.exit f))
    (hall : ∀ q < x.nthr, (x.onSet f.g k.active).getLsbD q = true ∨ (x.thread q).st = .retired) :
    ∃ t, exec (.exit f) s = .next t ∧ t.Holds g (fun y => y.Over x.nthr ∧ (x.ops = [] → y.resident = false)) := by
  rw [exec_exit_issued h, if_pos ((x.all_retired_exit_iff k _).mpr hall)]
  have hend := State.endGroup_over (s.group?_completeAt k g (x.exit_ k (x.onSet f.g k.active))) (fun q hq => by
    rw [x.nthr_exit] at hq
    exact (x.retired_exit_iff k _ hq).mpr (hall q hq))
  rw [x.nthr_exit, x.ops_exit] at hend
  exact ⟨_, rfl, hend⟩

/-- R100: one that leaves a thread completes, with what it releases. -/
theorem exec_exit_of_not_all_retired {s : State} {k : Issue} {g : Nat} {x : Group} {f : VFmt} (h : Issued s k g x (.exit f))
    (hall : ¬ ∀ q < x.nthr, (x.onSet f.g k.active).getLsbD q = true ∨ (x.thread q).st = .retired) :
    exec (.exit f) s = .next (s.completeAt k g (x.exit_ k (x.onSet f.g k.active))) := by
  rw [exec_exit_issued h, if_neg (fun hc => hall ((x.all_retired_exit_iff k _).mp hc))]

/-! ### SAFE (R105) -/

theorem exec_safe_issued {s : State} {k : Issue} {g : Nat} {x : Group} {f : VFmt} (h : Issued s k g x (.safe f)) :
    exec (.safe f) s = .next (if s.requested x && x.count .cp == 0 then
      s.completeAt k g ((x.advance k).mapThreads (x.onSet f.g k.active) (fun th => { th with st := .safe k.unit }))
      else s.completeAt k g (x.advance k)) := withGroup_issued h _

theorem State.requested_iff (s : State) (x : Group) :
    s.requested x = true ↔ ∃ b, s.block? x.block = some b ∧ b.pre.isSome = true := by
  unfold State.requested
  cases s.block? x.block <;> simp

/-- An instruction that writes no register re-encodes none (R382, R384). -/
theorem Group.rewrites_of_no_writes (x : Group) {i : Issue} (h : (regUse i.instr).writes = []) (r : RegAt) :
    x.rewrites i r = false := by
  cases r <;> simp [Group.rewrites, h]

/-- So its threads alone change as they go on. -/
theorem Group.advance_mapThreads_of_no_writes (x : Group) {i : Issue} (h : (regUse i.instr).writes = []) (m : Mask)
    (k : Thread → Thread) :
    (x.advance i).mapThreads m k = { x with threads := ((x.advance i).mapThreads m k).threads } := by
  simp [Group.advance, Group.mapThreads, x.rewrites_of_no_writes h]

/-! ### The statement -/

/-- Settles O12: YIELD by `yield_defers`; EXIT by what the threads left behind wait for (`Group.gathered_leave_iff`), the end of
the group by `State.endGroup_over`; SAFE by its two branches. -/
theorem yieldExitSafe : Obligations.YieldExitSafe := by
  unfold Obligations.YieldExitSafe
  intro s k g x f on next
  have hon : ∀ t, (x.onSet f.g k.active).getLsbD t = on t := x.getLsbD_onSet f.g k.active
  refine ⟨fun h => ?_, fun h => ?_, fun h => ?_⟩
  · rw [exec_yield_issued h]
    by_cases hnil : x.enabledSet f.g k.active 0 = []
    · rw [if_pos ((x.onSet_eq_zero_iff _ _).mpr hnil)]
      refine ⟨_, x.advance k, rfl, s.group?_complete k g x, rfl, x.nthr_advance k, fun q hq => ?_, fun _ => rfl,
        fun hne => absurd hnil hne⟩
      rw [x.thread_advance k hq]
      simp only [on, next, hnil]
      split <;> rfl
    · rw [if_neg (fun hz => hnil ((x.onSet_eq_zero_iff _ _).mp hz))]
      obtain ⟨t, y, ht, hy, hmem, ⟨hn, hth⟩, hplain⟩ := yield_defers s k g x (x.onSet f.g k.active)
      refine ⟨t, y, congrArg _ ht, hy, hmem, hn, fun q hq => ?_, fun he => absurd he hnil, fun _ hg => ?_⟩
      · rw [hth q hq, x.thread_deferred k _ hq, hon]
      · obtain ⟨ht', rfl⟩ := hplain hg
        exact ⟨ht', x.wait_yield k _ _⟩
  · let m := x.onSet f.g k.active
    have hm : ∀ t, m.getLsbD t = on t := hon
    by_cases hall : ∀ q < x.nthr, m.getLsbD q = true ∨ (x.thread q).st = .retired
    · obtain ⟨t, ht, y, hy, ⟨hn, hr, hs⟩, hres⟩ := exec_exit_of_all_retired h hall
      refine ⟨t, y, ht, hy, hn, fun q hq _ => hr q hq, fun u _ => ?_, fun ⟨q, hq, hne⟩ => absurd (hr q hq) hne,
        fun _ => ⟨hs, hres⟩⟩
      -- no thread is left parked
      rintro parked released q hq ⟨hq', w, hw⟩
      rcases hall q hq with h' | h'
      · rw [hm, hq'] at h'
        cases h'
      · rw [hw] at h'
        cases h'
    · refine ⟨_, x.exit_ k m, exec_exit_of_not_all_retired h hall, s.group?_completeAt k g _, x.nthr_exit k m,
        fun q hq ho => ?_, fun u h32 => ?_, fun _ => ⟨rfl, fun q hq => x.tpc_exit k m hq⟩, fun he => ?_⟩
      · exact (x.retired_exit_iff k m hq).mpr (.inl ((hm q).trans ho))
      · rintro parked released q hq ⟨hq', hp⟩
        have hrel : released ↔ (x.leave k m).Gathered u := by
          rw [x.gathered_leave_iff]
          simp only [hm]
          rfl
        rw [hrel]
        exact x.st_exit_of_parked h32 k m ((hm q).trans hq') hp
      · exact absurd (fun q hq => by rw [hm]; exact he q hq) hall
  · have hw : (regUse k.instr).writes = [] := by rw [h.instr]; rfl
    have hc : (s.requested x && x.count .cp == 0) = true ↔
        (∃ b, s.block? x.block = some b ∧ b.pre.isSome = true) ∧ x.count .cp = 0 := by
      rw [Bool.and_eq_true, s.requested_iff, beq_iff_eq]
    rw [Lands, Completes, exec_safe_issued h]
    split
    · next hp =>
      rw [if_pos (hc.mpr hp)]
      refine ⟨_, rfl, x.advance_mapThreads_of_no_writes hw _ _, fun q hq => ?_⟩
      rw [x.thread_advance_mapThreads k _ _ hq, hon]
    · next hp =>
      rw [if_neg (fun hb => hp (hc.mp hb))]
      exact ⟨x, rfl, rfl⟩

/-! ### The frame of an instruction: a store that fills a line answers a load that holds nothing (R152, R256) -/

/-- The outcome is a next state in which group `g` passes a test. -/
def Leaves (o : Host.Outcome State Fault Refusal) (g : Nat) (p : Group → Bool) : Bool :=
  match o with
  | .next t => (t.group? g).any p
  | _ => false

theorem leaves_iff (o : Host.Outcome State Fault Refusal) (g : Nat) (p : Group → Bool) :
    Leaves o g p = true ↔ ∃ t y, o = .next t ∧ t.group? g = some y ∧ p y = true := by
  cases o <;> simp [Leaves, Option.any_eq_true]

/-- ST.sp.fill of V2 at the address in V1. -/
def fillStore : MFmt where
  g := Guard.mk false 15 false
  data := 2
  addr := 1
  off := 0
  ext := 0
  take := false
  subop := 1
  selD := 15
  fp := 0
  saddr := false
  path := 3
  scope := 0
  order := 0
  type := 7

/-- An outstanding LD.sp of V9 that waits on byte 64 of line 0, and that lists no register as held. -/
def unheldLoad : Op where
  id := 0
  instr := .ld { fillStore with data := 9, subop := 0 }
  cls := .ld
  mask := 1
  holds := []
  sargs := []
  targs := []
  work := .spLoad false [SpReq.mk 0 0 0 64 8 0]
  pins := []
  leaves := []
  banks := []
  done := false
  failed := none
  issued := 0
  unit := 0

/-- A group of one thread with V1 = 64 and V2 = 5, behind that load. -/
def waitingGroup : Group :=
  { startGroup 0 0 0 0 0 (loadLaunch false) true 0 with v := [(32, 64), (64, 5)], ops := [unheldLoad], nextOp := 1 }

/-- Core 0 with bank 0 a scratchpad of block 0, its line 0 empty, and the load waiting there. -/
def emptyLineCore : Core :=
  { Core.idle with powered := true, banks := [(0, Bank.fresh .scratch (some 0))], stalled := [OpRef.mk 0 0] }

/-- The store, latched for the group's one thread. -/
def fillIssue : Issue := Issue.mk (.group 0) 0 1 (.st fillStore) none false

/-- The machine with that group, that core and the store latched. -/
def fillState : State :=
  { State.reset with issue := some fillIssue, groups := [(0, waitingGroup)], cores := [(0, emptyLineCore)] }

theorem issued_fillState : Issued fillState fillIssue 0 waitingGroup (.st fillStore) := ⟨rfl, rfl, rfl, rfl⟩

/-- The line that the store fills answers the load: V9 becomes 5 (R256). -/
theorem exec_fillStore : ∃ t y, exec (.st fillStore) fillState = .next t ∧ t.group? 0 = some y ∧
    y.status ≠ .ended ∧ y.rv 0 9 = 5 := by
  have h : Leaves (exec (.st fillStore) fillState) 0 (fun y => decide (y.status ≠ .ended) && decide (y.rv 0 9 = 5)) = true := by
    decide +kernel
  obtain ⟨t, y, ht, hy, hp⟩ := (leaves_iff _ _ _).mp h
  rw [Bool.and_eq_true, decide_eq_true_eq, decide_eq_true_eq] at hp
  exact ⟨t, y, ht, hy, hp⟩

/-- Refutes O60: the statement speaks of every state, and not only of those in which an operation holds the registers it has
still to write. In `fillState` a well-formed ST.sp.fill makes line 0 full; that answers the older load of V9, whose operation lists
no register as held; so V9 changes from 0 to 5, although the store does not name it and no operation holds it. -/
theorem not_registerAndMemoryFrame : ¬ Obligations.RegisterAndMemoryFrame := by
  unfold Obligations.RegisterAndMemoryFrame
  intro h
  obtain ⟨t, y, ht, hy, hst, hv9⟩ := exec_fillStore
  obtain ⟨hv, -⟩ := h fillState t fillIssue 0 waitingGroup y (.st fillStore) (by decide) issued_fillState ht hy hst
  have hsame : y.rv 0 9 = waitingGroup.rv 0 9 := hv 9 (by decide) 0 (by decide)
  rw [hv9] at hsame
  exact absurd hsame (by decide)

end Sys2Proof.Machine
end
